-- ==== Sys2Proof/Word.lean ====
section
/-! DEFINITION. The word types of the LX8 and the shape of every sparse table of the model (R12, R63, R66). -/

namespace Sys2Proof

/-- A vector register's 32 bits (R63). -/
abbrev Word := BitVec 32

/-- A 64-bit value: a register pair, an instruction word, an address while it is computed. -/
abbrev DWord := BitVec 64

/-- One byte of memory. -/
abbrev Byte := BitVec 8

/-- A sparse table: key and value pairs, keys strictly rising (the operations stand in Machine/Assoc.lean). -/
abbrev Map (α : Type) := List (Nat × α)

end Sys2Proof
end

