-- ==== Sys2Proof/Config.lean ====
section
/-! DEFINITION. What the spec leaves open and the model does not fix: the free values, each an opaque constant
applied to a plain counter of State or to the operands it depends on (log entries 2, 3, 4 and 5). -/

namespace Sys2Proof
namespace Config

/-- Nanoseconds of TIME that pass with the n-th step: the spec gives no duration of a step (log entry 2). -/
opaque elapsedNs : Nat → Nat

/-- Whether a register at or above LIVE keeps its value over the n-th save: R38 allows zero or the last value
(log entry 3). -/
opaque liveKept : Nat → Bool

/-- The value an .inv load returns of a location written during the launch, among those R210 allows: the index,
counted back from the newest, of the value the n-th such load takes (log entry 4). -/
opaque invChoice : Nat → Nat

/-- The signature of the attestation report: the device key is fused and no one reads it (R468, log entry 5). -/
opaque attestSignature : List Byte → Nat → BitVec 512

/-- The L2 slice a line's hash chooses (R194, R346): the hash is not given (log entry 5). -/
opaque homeSlice : Nat → Nat → Nat

/-- The n-th address the agents pick for a save area: the spec gives no allocation policy (log entry 6). -/
opaque agentAddr : Nat → Nat

/-- Where the search for a free assay line begins for the n-th line made live: R357 takes any free line (log entry 6). -/
opaque lineChoice : Nat → Nat

/-- Which entry of a full cache set or filter set makes room for the n-th such fill: the spec gives no policy (log entry 77). -/
opaque victim : Nat → Nat

/-- DETAIL of a status that the spec gives by its CODE alone, by opcode and code (log entry 21). -/
opaque openDetail : Nat → Nat → Nat

/-- Whether the owner's entry allows the access kind of the n-th claim that asks it: another chip answers (R397; log
entry 80). -/
opaque ownerAllows : Nat → Bool

/-- How many more parts of its transfer a copy moves at an event (R215, R261; log entry 33). -/
opaque copyStep : Nat → Nat

/-- The order in which the words of a copy move (R215, R261; log entry 33). -/
opaque copyOrder : Nat → Nat

/-- Which of the hops that R448 allows a packet takes, by pair in the ordered class and by packet in the adaptive one, and the
fields that a packet's kind gives bits [108:0] of its header (log entry 99). -/
opaque hopChoice : Nat → Nat
opaque kindFields : Nat → Nat

/-- Errors that the codes correct during the n-th step, and the index of a deputy-log record that is found uncorrectable in it
(R456, R460; log entry 100). -/
opaque corrected : Nat → Nat
opaque logError : Nat → Option Nat

end Config
end Sys2Proof
end

