-- ==== Sys2Proof/Machine/Assoc.lean ====
section
/-! DEFINITION. Sparse tables with strictly rising keys: look up, write, erase, and the bytes of memory over them. -/

namespace Sys2Proof
namespace Assoc

variable {α : Type}

/-- The value at a key. -/
def find? : Map α → Nat → Option α
  | [], _ => none
  | (k, v) :: m, n => if n = k then some v else find? m n

/-- Write a key, keeping the keys strictly rising. -/
def put : Map α → Nat → α → Map α
  | [], n, x => [(n, x)]
  | (k, v) :: m, n, x =>
    if n = k then (k, x) :: m else if n < k then (n, x) :: (k, v) :: m else (k, v) :: put m n x

/-- Erase a key. -/
def del : Map α → Nat → Map α
  | [], _ => []
  | (k, v) :: m, n => if n = k then del m n else (k, v) :: del m n

/-- Read with a default: what an unlisted key reads as. -/
def getD (m : Map α) (d : α) (n : Nat) : α := (find? m n).getD d

/-- Write with a default: the default value erases the entry, so equal tables are equal lists. -/
def setD [DecidableEq α] (m : Map α) (d : α) (n : Nat) (x : α) : Map α :=
  if x = d then del m n else put m n x

/-- Every key of the table is above n and the keys rise strictly. -/
def above : Nat → Map α → Bool
  | _, [] => true
  | n, (k, _) :: m => decide (n < k) && above k m

/-- The canonical form of the keys: strictly rising. -/
def wf : Map α → Bool
  | [] => true
  | (k, _) :: m => above k m

/-- Keys of a table. -/
def keys (m : Map α) : List Nat := m.map Prod.fst

/-- Values of a table. -/
def vals (m : Map α) : List α := m.map Prod.snd

/-- Change the value at a key, where there is one. -/
def modify (m : Map α) (n : Nat) (f : α → α) : Map α :=
  match find? m n with
  | some v => put m n (f v)
  | none => m

/-- Keep the entries whose key satisfies p. -/
def keep (p : Nat → Bool) (m : Map α) : Map α := m.filter fun e => p e.1

/-- The entries with lo ≤ key < hi. -/
def range (m : Map α) (lo hi : Nat) : Map α := m.filter fun e => decide (lo ≤ e.1) && decide (e.1 < hi)

end Assoc

/-- What a byte that nothing has written reads as (log entry 1). -/
def unlistedByte : Byte := 0

/-- Bytes by address in canonical form: strictly rising addresses, no entry equal to the unlisted byte. -/
def Memory.wf (m : Map Byte) : Bool := Assoc.wf m && m.all fun e => decide (e.2 ≠ unlistedByte)

/-- Read one byte. -/
def Memory.read (m : Map Byte) (a : Nat) : Byte := Assoc.getD m unlistedByte a

/-- Write one byte, keeping the canonical form. -/
def Memory.write (m : Map Byte) (a : Nat) (b : Byte) : Map Byte := Assoc.setD m unlistedByte a b

/-- Read n bytes, the lowest address first. -/
def Memory.readN (m : Map Byte) (a : Nat) : Nat → List Byte
  | 0 => []
  | n + 1 => Memory.read m a :: Memory.readN m (a + 1) n

/-- Write bytes from an address upward. -/
def Memory.writeN (m : Map Byte) (a : Nat) : List Byte → Map Byte
  | [] => m
  | b :: bs => Memory.writeN (Memory.write m a b) (a + 1) bs

/-- Little-endian value of bytes, the lowest address first (R12). -/
def leNat : List Byte → Nat
  | [] => 0
  | b :: bs => b.toNat + 256 * leNat bs

/-- The n little-endian bytes of a value (R12). -/
def leBytes : Nat → Nat → List Byte
  | 0, _ => []
  | n + 1, v => BitVec.ofNat 8 v :: leBytes n (v / 256)

/-- Bits [lo+n-1 : lo] of a number. -/
def fld (w lo n : Nat) : Nat := w / 2 ^ lo % 2 ^ n

end Sys2Proof
end

