-- ==== Sys2Proof/Syntax.lean ====
section
/-! DEFINITION. The instructions and events of the LX8: one constructor for each row of the opcode table, with the
operands the spec's encodings give an instruction word, and the data that arrives with an event. -/

namespace Sys2Proof

/-- A 10-bit register field that names a vector operand (R97, R98): v0 to v639, or special operand 1008 + k. -/
inductive Opnd where
  | v (n : Nat)
  | sp (k : Nat)
  deriving DecidableEq, Repr

/-- The special operand zero (R98). -/
def Opnd.zero : Opnd := .sp 0
/-- The special operand nil (R99). -/
def Opnd.nil : Opnd := .sp 15

/-- The common fields of a word (R103): run boundary B, lookahead LA, guard predicate G, guard negation GN. -/
structure Hdr where
  b : Bool
  la : Nat
  g : Nat
  gn : Bool
  deriving DecidableEq, Repr

/-- The type codes of R138, in code order. -/
inductive Ty where
  | i32 | n32 | i64 | n64 | i16 | n16 | i8 | n8 | i4 | b32 | f32 | f16 | bf16 | dm8
  deriving DecidableEq, Repr

/-- The rounding modes of R139, in code order. -/
inductive Rm where
  | rn | rz | ru | rd
  deriving DecidableEq, Repr

/-- The conditions of R139, in code order. -/
inductive Cc where
  | eq | ne | lt | le | gt | ge | un | ord
  deriving DecidableEq, Repr

/-- The orders of R202. -/
inductive Ord where
  | rlx | acq | rel | ar | strong | inv
  deriving DecidableEq, Repr

/-- The scopes of R200, narrowest first. -/
inductive Scope where
  | task | chip | fab | sys
  deriving DecidableEq, Repr

/-- The logic operations of LOGI (R164). -/
inductive Lop where
  | and | or | xor
  deriving DecidableEq, Repr

/-- The modes of SHFL (R183). -/
inductive ShflMode where
  | idx | up | down | xor
  deriving DecidableEq, Repr

/-- The modes of VOTE with their operands (R184): p and q name predicates. -/
inductive VoteForm where
  | all (p q : Nat)
  | any (p q : Nat)
  | ballot (d : Opnd) (q : Nat)
  | uni (p : Nat) (a : Opnd)
  deriving DecidableEq, Repr

/-- The operations of CRDX (R185), in code order. -/
inductive RedOp where
  | addI32 | minI32 | maxI32 | minN32 | maxN32 | andB32 | orB32 | xorB32 | addF32 | minF32 | maxF32
  deriving DecidableEq, Repr

/-- The atomic operations of R242, in code order. -/
inductive Aop where
  | add | minI | maxI | minN | maxN | and | or | xor | exch | cas | fadd | inc | dec
  deriving DecidableEq, Repr

/-- KSET's count (R284): an immediate or a register. -/
inductive KCount where
  | imm (n : Nat)
  | reg (a : Opnd)
  deriving DecidableEq, Repr

/-- The side of a copy that a skip buffer stands on (R255). -/
inductive QSide where
  | none
  | to (q : Nat)
  | from (q : Nat)
  deriving DecidableEq, Repr

/-- B formats of MLOAD (R287), in code order. -/
inductive BFmt where
  | dm8 | i8 | bf16 | f16
  deriving DecidableEq, Repr

/-- A formats of MMA (R290), in code order. -/
inductive AFmt where
  | dm8 | i8 | i4 | bf16 | f16
  deriving DecidableEq, Repr

/-- Output formats of MDRAIN (R294), in code order. -/
inductive OFmt where
  | f32 | bf16 | f16 | dm8 | b32
  deriving DecidableEq, Repr

/-- A thread of the chip: core number, task slot (16: the firmware crew slot) and thread index. -/
structure TRef where
  core : Nat
  slot : Nat
  thr : Nat
  deriving DecidableEq, Repr

/-- The master of an access from outside a task (R198, R425). -/
inductive Master where
  | task (core slot : Nat)
  | hart (n : Nat) (mmode : Bool)
  | hostPasid (pasid : Nat)
  | hostNoPasid
  | peer (chip asid : Nat)
  deriving DecidableEq, Repr

/-- What a hart does with one access, after its own translation (R441, R442, R444). -/
inductive HartOp where
  | load (n : Nat) (ord : Ord)
  | store (n v : Nat) (ord : Ord)
  | amo (op : Aop) (w64 : Bool) (b c : DWord) (ord : Ord)
  | lr (w64 : Bool) (ord : Ord)
  | sc (w64 : Bool) (v : DWord) (ord : Ord)
  | fence (kind : Nat)
  deriving DecidableEq, Repr

/-- Where a hart's access goes (R439, R441): the address its program names, and the physical address its own translation
gives. -/
structure HartAddr where
  va : Nat
  pa : Nat
  deriving DecidableEq, Repr

/-- The privilege mode of a hart (R439). -/
inductive HartMode where
  | m | hs | s | vs | u
  deriving DecidableEq, Repr

/-- What a forwarded remote access asks its owner to do (R394, R327). -/
inductive RemoteOp where
  | load (n : Nat)
  | write (bytes : List Byte)
  | commit (cells : List (Nat × Byte))
  | atomic (op : Aop) (w64 : Bool) (b c : DWord)
  deriving DecidableEq, Repr

/-- One update packet of the vein (R312): kind 0 weak, 1 strong, 2 sweep marker, 3 handover marker; NSEC is the number of
sectors, each with its OFFS. -/
structure VPacket where
  vsid : Nat
  epoch : Nat
  kind : Nat
  rank : Nat
  wg : Bool
  last : Bool
  seq : Nat
  slot : Nat
  dep : List Nat
  sectors : List (Nat × List Byte)
  deriving DecidableEq, Repr

/-- An update of the vein put together from its packets (R311, R312): how many have come, and whether the last has. -/
structure VUpdate where
  vsid : Nat
  epoch : Nat
  kind : Nat
  rank : Nat
  wg : Bool
  seq : Nat
  slot : Nat
  dep : List Nat
  sectors : List (Nat × List Byte)
  packets : Nat
  whole : Bool
  deriving DecidableEq, Repr

/-- What a survivor reports and forwards in a departure's exchange (R319 step 2), with the last handover marker it has seen:
next slot number and successor (R324). -/
structure VReport where
  rank : Nat
  appl : List Nat
  highSlot : Option Nat
  grants : List Nat
  marker : Option (Nat × Nat)
  updates : List VUpdate
  deriving DecidableEq, Repr

/-- What the sponsor's stream and its answer bring in a join (R321, R338): the outcome, who joins, and for the joiner the
set's state and the sponsor's replica. -/
structure VJoin where
  code : Nat
  detail : Nat
  rank : Nat
  chip : Nat
  inc : Nat
  members : List (Nat × Nat × Nat × Nat)
  epoch : Nat
  banksman : Nat
  nextSlot : Nat
  applSlot : Nat
  rots : Nat
  rott : Nat
  wg : Bool
  appl : List Nat
  cells : List (Nat × Byte)
  stamps : List (Nat × Nat)
  deriving DecidableEq, Repr

/-- What a fabric packet brings whose delivery has no row of its own: a member's ROTS and ROTT, a member's .form with its
descriptor, the beginning of a departure (R319, R338), the answer of an owner whose walk forbids a forwarded access, of a
thread's operation or its fetch, operation 0 (R394), and a peer's low-power hold or its end (R472). They go in the control
and adaptive classes (R448). -/
inductive FabMsg where
  | none
  | rot (vsid rots rott : Nat)
  | form (vsid rank : Nat) (desc : List Byte)
  | freeze (vsid : Nat) (ranks : List Nat)
  /-- A member has left in order (R318), and a joiner has become a full member (R321, R324; log entry 98). -/
  | leave (vsid rank : Nat)
  | joined (vsid rank : Nat)
  | denied (r : TRef) (op : Nat)
  | lowPower (held : Bool)
  /-- What the ordered class carries (R448), and a drain marker (R453): their delivery is the event of the kind's own row. -/
  | remote (asid va : Nat) (op : RemoteOp)
  | mark (slot : Nat) (mark : Word)
  | vein (p : VPacket)
  | drain (link : Nat)
  deriving DecidableEq, Repr

/-- The types of a link (R447, R448). -/
inductive LinkType where
  | die | local_ | global
  deriving DecidableEq, Repr

/-- The header of a fabric packet (R449), its kind's own fields as one number; the link that it comes by or leaves by, and
what it brings. -/
structure FabHdr where
  tinc : Nat
  tgt : Nat
  src : Nat
  asid : Nat
  cls : Nat
  vc : Nat
  kind : Nat
  nflit : Nat
  oseq : Nat
  addr : Nat
  rest : Nat
  via : LinkType
  msg : FabMsg := .none
  deriving DecidableEq, Repr

/-- The peers that a reconfiguration concerns (R453, R454): those reachable only over its links, and those with another route
whose fixed ordered route uses one of its links. -/
structure DrainPeers where
  only : List Nat
  ordered : List Nat
  deriving DecidableEq, Repr

/-- A hart's access to the CSR dasid (R440). -/
inductive CsrOp where
  | read
  | write (v : DWord)
  deriving DecidableEq, Repr

/-- A cluster's rebuild: the cluster, and the thread whose table entry it finds uncorrectable (R458). -/
structure Rebuild where
  cluster : Nat
  bad : Option TRef
  deriving DecidableEq, Repr

/-- What the boot ROM finds in one firmware slot, decided at the other three chips (R464). -/
structure PeerSlots where
  aValid : Bool
  bValid : Bool
  deriving DecidableEq, Repr

/-- The instruction rows and the event rows of the opcode table. -/
inductive Instr where
  -- control (R146 to R156)
  | nop (h : Hdr)
  | bra (h : Hdr) (off : BitVec 32)
  | brx (h : Hdr) (a : Opnd)
  | brxRel (h : Hdr) (a : Opnd)
  | call (h : Hdr) (off : BitVec 32)
  | callIndirect (h : Hdr) (a : Opnd)
  | ret (h : Hdr)
  | exitThreads (h : Hdr)
  | yieldCore (h : Hdr)
  | waittAbs (h : Hdr) (d a : Opnd)
  | waittRel (h : Hdr) (d a : Opnd)
  | trap (h : Hdr) (a : Opnd) (code : Nat)
  | bkpt (h : Hdr) (n : Nat)
  -- convergence, phases, barrier, commit (R272, R274, R284, R285, R332, R333)
  | kset (h : Hdr) (k : Nat) (c : KCount)
  | ksign (h : Hdr) (d : Opnd) (k : Nat)
  | phadv (h : Hdr) (d : Opnd) (slot : Nat)
  | phwait (h : Hdr) (d a : Opnd) (slot nbr : Nat)
  | bar (h : Hdr) (d : Opnd) (scope : Scope) (eng : Bool)
  | barNock (h : Hdr) (d : Opnd) (scope : Scope) (eng : Bool)
  | commit (h : Hdr) (d : Opnd) (eng : Bool)
  -- integer (R157 to R171)
  | iadd (h : Hdr) (ty : Ty) (sat : Bool) (d a b : Opnd)
  | isub (h : Hdr) (ty : Ty) (sat : Bool) (d a b : Opnd)
  | imul (h : Hdr) (ty : Ty) (sat : Bool) (d a b : Opnd)
  | imulh (h : Hdr) (ty : Ty) (d a b : Opnd)
  | imad (h : Hdr) (ty : Ty) (sat : Bool) (d a b c : Opnd)
  | idiv (h : Hdr) (ty : Ty) (sat : Bool) (d a b : Opnd)
  | irem (h : Hdr) (ty : Ty) (d a b : Opnd)
  | imin (h : Hdr) (ty : Ty) (d a b : Opnd)
  | imax (h : Hdr) (ty : Ty) (d a b : Opnd)
  | iabs (h : Hdr) (ty : Ty) (sat : Bool) (d a : Opnd)
  | iset (h : Hdr) (cc : Cc) (ty : Ty) (p : Nat) (a b : Opnd) (q : Nat)
  | iseti (h : Hdr) (cc : Cc) (ty : Ty) (p : Nat) (a : Opnd) (imm : BitVec 20)
  | sel (h : Hdr) (ty : Ty) (d a b : Opnd) (q : Nat)
  | and (h : Hdr) (d a b : Opnd)
  | or (h : Hdr) (d a b : Opnd)
  | xor (h : Hdr) (d a b : Opnd)
  | logi (h : Hdr) (op : Lop) (hi : Bool) (d a : Opnd) (imm : BitVec 20)
  | shl (h : Hdr) (ty : Ty) (d a b : Opnd)
  | shr (h : Hdr) (ty : Ty) (d a b : Opnd)
  | rot (h : Hdr) (ty : Ty) (right : Bool) (d a b : Opnd)
  | clz (h : Hdr) (wide : Bool) (d a : Opnd)
  | popc (h : Hdr) (wide : Bool) (d a : Opnd)
  | brev (h : Hdr) (wide : Bool) (d a : Opnd)
  | bfx (h : Hdr) (signed : Bool) (d a c : Opnd)
  | bfi (h : Hdr) (d a b c : Opnd)
  | lea (h : Hdr) (sx : Bool) (sh : Nat) (d a b : Opnd)
  | movi (h : Hdr) (wide : Bool) (d : Opnd) (imm : BitVec 20)
  | movl (h : Hdr) (single : Bool) (d : Opnd) (lit : DWord)
  | mov (h : Hdr) (ty : Ty) (d a : Opnd)
  | iaddi (h : Hdr) (ty : Ty) (sat : Bool) (d a : Opnd) (imm : BitVec 20)
  | plop (h : Hdr) (tt p a b : Nat)
  | pmovPack (h : Hdr) (d : Opnd)
  | pmovUnpack (h : Hdr) (a : Opnd)
  | pmovNz (h : Hdr) (p : Nat) (a : Opnd)
  | pmovVal (h : Hdr) (d : Opnd) (p : Nat)
  -- floating point (R172 to R180)
  | fadd (h : Hdr) (rm : Rm) (sat : Bool) (d a b : Opnd)
  | fsub (h : Hdr) (rm : Rm) (sat : Bool) (d a b : Opnd)
  | fmul (h : Hdr) (rm : Rm) (sat : Bool) (d a b : Opnd)
  | ffma (h : Hdr) (rm : Rm) (sat : Bool) (d a b c : Opnd)
  | fmin (h : Hdr) (d a b : Opnd)
  | fmax (h : Hdr) (d a b : Opnd)
  | fset (h : Hdr) (cc : Cc) (p : Nat) (a b : Opnd) (q : Nat)
  | frcp (h : Hdr) (rm : Rm) (sat : Bool) (d a : Opnd)
  | frsq (h : Hdr) (sat : Bool) (d a : Opnd)
  | fsqrt (h : Hdr) (rm : Rm) (sat : Bool) (d a : Opnd)
  | fex2 (h : Hdr) (sat : Bool) (d a : Opnd)
  | flg2 (h : Hdr) (sat : Bool) (d a : Opnd)
  | ftrig (h : Hdr) (cos sat : Bool) (d a : Opnd)
  | fcls (h : Hdr) (ty : Ty) (d a : Opnd)
  | hadd2 (h : Hdr) (ty : Ty) (rm : Rm) (sat : Bool) (d a b : Opnd)
  | hmul2 (h : Hdr) (ty : Ty) (rm : Rm) (sat : Bool) (d a b : Opnd)
  | hfma2 (h : Hdr) (ty : Ty) (rm : Rm) (sat : Bool) (d a b c : Opnd)
  | cvt (h : Hdr) (dt st : Ty) (rm : Rm) (sat : Bool) (d a : Opnd)
  | fscal (h : Hdr) (rm : Rm) (sat : Bool) (d a b : Opnd)
  | dot4 (h : Hdr) (ty : Ty) (rm : Rm) (sat : Bool) (d a b c : Opnd)
  -- cross-lane (R183 to R185)
  | shfl (h : Hdr) (w64 : Bool) (mode : ShflMode) (d a b : Opnd)
  | vote (h : Hdr) (f : VoteForm)
  | crdx (h : Hdr) (op : RedOp) (d a : Opnd)
  -- memory (R236 to R254)
  | ld (h : Hdr) (sz : Nat) (ord : Ord) (scope : Scope) (hint : Nat) (d a : Opnd) (off : BitVec 16)
  | st (h : Hdr) (sz : Nat) (ord : Ord) (scope : Scope) (hint : Nat) (d a : Opnd) (off : BitVec 16)
  | atom (h : Hdr) (op : Aop) (w64 : Bool) (ord : Ord) (scope : Scope) (d a b : Opnd)
  | red (h : Hdr) (op : Aop) (w64 : Bool) (ord : Ord) (scope : Scope) (a b : Opnd)
  | fenceFull (h : Hdr) (d : Opnd) (scope : Scope) (eng : Bool)
  | fenceAcq (h : Hdr) (d : Opnd) (scope : Scope) (eng : Bool)
  | fenceRel (h : Hdr) (d : Opnd) (scope : Scope) (eng : Bool)
  | pref (h : Hdr) (sz hint : Nat) (a : Opnd) (off : BitVec 16)
  | cctlInv (h : Hdr) (a : Opnd) (off : BitVec 16)
  | cctlInvall (h : Hdr)
  | cctlWb (h : Hdr) (a : Opnd) (off : BitVec 16)
  | cctlWbinv (h : Hdr) (a : Opnd) (off : BitVec 16)
  -- copies, skip buffers, barrier objects (R255 to R270)
  | copy (h : Hdr) (d a b : Opnd) (q : QSide)
  | copyt (h : Hdr) (d a b : Opnd) (q : QSide)
  | gath (h : Hdr) (d a b : Opnd) (q : Option Nat)
  | skcfg (h : Hdr) (d a b : Opnd) (q : Nat)
  | skopRes (h : Hdr) (d b : Opnd) (q : Nat)
  | skopPub (h : Hdr) (d b : Opnd) (q : Nat)
  | skopTake (h : Hdr) (d b : Opnd) (q : Nat)
  | skopPop (h : Hdr) (d b : Opnd) (q : Nat)
  | skopState (h : Hdr) (d : Opnd) (q : Nat)
  | binit (h : Hdr) (a : Opnd) (n : Nat)
  | barv (h : Hdr) (d a : Opnd) (n : Nat)
  | bwait (h : Hdr) (d a : Opnd) (p : Bool)
  | bexp (h : Hdr) (d a : Opnd) (n : Nat)
  -- matrix engine and allotment (R287 to R304)
  | mload (h : Hdr) (fmt : BFmt) (mb : Bool) (d a : Opnd) (k q : Nat)
  | mma (h : Hdr) (tr im : Bool) (fmt : AFmt) (mb : Bool) (d : Opnd) (tile : Nat) (b : Opnd) (k q : Nat)
  | mzero (h : Hdr) (tile c : Nat)
  | mdrain (h : Hdr) (fmt : OFmt) (rm : Rm) (sat za : Bool) (d : Opnd) (tile k q : Nat)
  | mstatState (h : Hdr) (d : Opnd) (mb : Bool)
  | mstatPasses (h : Hdr) (d : Opnd) (mb : Bool)
  | mstatCanary (h : Hdr) (d : Opnd) (mb : Bool)
  | mstatChecks (h : Hdr) (d : Opnd) (mb : Bool)
  | grow (h : Hdr) (d b : Opnd) (k : Nat)
  | shrink (h : Hdr) (d b : Opnd) (k : Nat)
  -- assay (R356 to R365)
  | alook (h : Hdr) (node : Bool) (d a b : Opnd) (q : Option Nat)
  | aname (h : Hdr) (node : Bool) (d a b : Opnd)
  | aref (h : Hdr) (d a : Opnd) (delta : BitVec 16)
  | aldSec (h : Hdr) (d a : Opnd) (s : Nat)
  | aldAddr (h : Hdr) (d a : Opnd)
  | aswapSwap (h : Hdr) (d a r : Opnd)
  | aswapCas (h : Hdr) (d a r : Opnd)
  | aout (h : Hdr) (d a b : Opnd) (q : Option Nat)
  | astatCount (h : Hdr) (d a : Opnd)
  | astatFree (h : Hdr) (d : Opnd)
  | astatUsed (h : Hdr) (d : Opnd)
  | astatCollide (h : Hdr) (d : Opnd)
  | astatRoot (h : Hdr) (d a : Opnd)
  | astatPend (h : Hdr) (d : Opnd)
  -- launch and system (R387, R418 to R427)
  | launch (h : Hdr) (wait : Bool) (d a : Opnd)
  | sysrd (h : Hdr) (w : Bool) (d : Opnd) (reg : Nat)
  | syswr (h : Hdr) (w : Bool) (a : Opnd) (reg : Nat)
  | tret (h : Hdr)
  | tstateRd (h : Hdr) (d : Opnd) (item : Nat)
  | tstateWr (h : Hdr) (a : Opnd) (item : Nat)
  | vmembForm (h : Hdr) (d a : Opnd) (slot : Nat)
  | vmembJoin (h : Hdr) (d a : Opnd) (slot : Nat)
  | vmembLeave (h : Hdr) (d a : Opnd) (slot : Nat)
  | vmembEvict (h : Hdr) (d a : Opnd) (slot : Nat)
  | vmembQuery (h : Hdr) (d : Opnd) (slot : Nat)
  | vmembRot (h : Hdr) (d a : Opnd) (slot : Nat)
  | claimMake (h : Hdr) (d a : Opnd)
  | claimEnd (h : Hdr) (d a : Opnd)
  | placeTask (h : Hdr) (d a : Opnd)
  | placeRestore (h : Hdr) (d a : Opnd)
  | freezeHold (h : Hdr) (d a : Opnd)
  | freezeKill (h : Hdr) (d a : Opnd)
  | freezeSave (h : Hdr) (d a : Opnd)
  | freezeRelease (h : Hdr) (d a : Opnd)
  | idle (h : Hdr) (d a : Opnd) (mask : Nat)
  | dlog (h : Hdr) (d a : Opnd)
  -- events of the core
  | waittDeadline (r : TRef)
  | phaseMarkReceive (slot src : Nat) (mark : Word)
  | registerResultWrite (r : TRef) (op : Nat)
  | loadResponse (r : TRef) (op : Nat) (fromL1 : Bool)
  | invalidationAck (id : Nat)
  | copyCompletion (core slot : Nat)
  | skipBufferGrant (core slot q : Nat)
  | mloadFire (core : Nat) (mb : Bool)
  | mmaPass (core : Nat) (mb : Bool) (bad : Option Nat)
  | mdrainFire (core slot op : Nat)
  | growGrant (core : Nat)
  | shrinkApply (core : Nat)
  | assayReclaimStep (n line : Nat)
  | tlbinv (v : DWord)
  | qtabWrite (v : DWord)
  | assayRegionEnable (n : Nat) (v : DWord)
  | assayRegionDisable (n : Nat) (v : DWord)
  | phaseSlotDisable (n : Nat) (v : Word)
  | idleWake (core : Nat)
  | issueGroup (core : Nat)
  | holdTimeout (r : TRef)
  | fairnessOverdue (r : TRef)
  | deferredTrapDelivery (r : TRef)
  | fholdExpiry (core slot : Nat)
  | hartFreezeTimeout (n : Nat)
  | forceSave (core slot : Nat)
  | debugHalt (r : TRef)
  | prewtExpiry (lnum : Nat)
  | drainDeadlineExpiry (core asid : Nat)
  | saveDeadlineExpiry (core slot : Nat)
  | timeSliceExpiry (core slot : Nat)
  | park (core slot : Nat)
  -- events of the agents and queues
  | packetClaim (core : Nat)
  | dependencePoll (lnum : Nat)
  | taskPlacementChoice (core : Nat)
  | completionSignalWrite (lnum : Nat)
  | wakeWrite (m : Master) (whole : Bool) (cap : BitVec 256)
  | plainWake (m : Master) (cap : BitVec 256)
  | faultTicketReturn (r : TRef) (op : Nat)
  | priResponse (id : Nat) (ok : Bool)
  | replayNotice (id gen : Nat) (fail : Bool)
  | clmwtExpiry (id : Nat)
  | rpwinExpiry (page : Nat)
  | backfillRefill (frame : Nat)
  | remoteRequestReceive (src asid : Nat) (va : Nat) (op : RemoteOp)
  | atomicCacheLeaseEnd (line : Nat)
  | directoryRecallAll (asid line : Nat) (conflict : Bool)
  -- events of the vein
  | veinUpdateReceive (p : VPacket)
  | sumpApply (slot : Nat)
  | slotRequest (slot rank : Nat)
  | slotGrant (slot s : Nat)
  | slotAck (slot s rank : Nat)
  | handoverMarker (slot s succ : Nat)
  | banksmanRotationTimer (slot : Nat)
  | memberDeparture (slot : Nat) (ranks : List Nat) (reports : List VReport)
  | lagEvictionTimeout (slot rank : Nat)
  | joinStreamComplete (slot : Nat) (j : VJoin)
  | formTimeout (slot : Nat)
  | sweepMarkerReceive (slot s : Nat)
  | readyNoticeReceive (slot rank seq : Nat)
  -- events of the fabric
  | linkDown (peer : Nat)
  | peerLossTimeout (peer : Nat)
  | linkBringup (peer inc : Nat)
  | fabricPacketReceive (hd : FabHdr)
  | allowanceReturn (link bufset flits : Nat)
  | ptpSyncMessage (offset : Int) (bound : Nat)
  | reconfigDrain (links : List Nat) (peers : DrainPeers)
  | drainMarkerAck (link : Nat)
  | reconfigRelock (reachable newInc : List Nat)
  -- events of the host link and the harts
  | hostSnoop (pa : Nat) (keepShared : Bool)
  | hostCxlMemAccess (addr : Nat) (write : Option (List Byte)) (n : Nat)
  | biasFlipToDev (addr : Nat)
  | biasFlipToHost (addr : Nat)
  | biasFlipComplete (addr : Nat)
  | hartAccess (n : Nat) (pa : HartAddr) (pbmt : Nat) (op : HartOp)
  | dasidWrite (n : Nat) (mode : HartMode) (v : CsrOp)
  | hartSfence (n : Nat)
  -- events of the platform
  | registerWrite (core reg : Nat) (v : DWord)
  | remoteWriteAck (id : Nat)
  | accessPerformed (r : TRef) (op : Nat)
  | debugResume (r : TRef)
  | clusterRebuild (cluster : Rebuild)
  | powerCap (milliwatts : Nat) (order : Bool)
  | junctionThrottle (tj : Nat)
  | throttleRelease (tj : Nat) (inputLow : Bool)
  | junctionTrip (tj : Nat)
  | powerStateA1 (on : Bool)
  | s1Entry (cluster : Nat)
  | s1Exit (cluster : Nat)
  | coldReset (peers : PeerSlots) (unlock : Bool)
  | warmReset (peers : PeerSlots)
  | mailboxBegin (total : Nat)
  | mailboxChunk (off : Nat) (data : List Byte)
  | mailboxSeal (peersFail : Nat)
  | mailboxReboot (peers : PeerSlots)
  -- the rest of the platform, and the events without operands
  | mailboxInvalidCmd (cmd : Nat)
  | antiRollbackFuseBlow (n : Nat)
  | attestationRequest (nonce : List Byte)
  | debugStateChange (st : Nat) (asids : List Nat)
  | syncInterval
  | rcdarkExpiry
  | traceRecordWrite
  | s2Entry
  | s2Exit
  | s3Entry
  deriving DecidableEq, Repr

end Sys2Proof
end

