-- ==== Sys2Proof/WellFormed.lean ====
section
/-! DEFINITION. Which instruction terms stand for a legal word (R63, R97 to R102, R119, R123 and each instruction's own
field limits). An event has no word: its term is always well formed. -/

namespace Sys2Proof

/-- Latency classes of R119; an event has none. -/
inductive Cls where
  | S | L | W | event
  deriving DecidableEq, Repr

/-- A single source: v0 to v639 or any special operand (R97). -/
def Opnd.src : Opnd → Bool
  | .v n => decide (n < 640)
  | .sp k => decide (k < 16)

/-- A single destination: v0 to v639 or nil (R99). -/
def Opnd.dst : Opnd → Bool
  | .v n => decide (n < 640)
  | .sp k => decide (k = 15)

/-- A pair read as a source: an even register or a special operand (R63, R98). -/
def Opnd.srcPair : Opnd → Bool
  | .v n => decide (n < 640) && decide (n % 2 = 0)
  | .sp k => decide (k < 16)

/-- A pair written: an even register or nil (R63, R99). -/
def Opnd.dstPair : Opnd → Bool
  | .v n => decide (n < 640) && decide (n % 2 = 0)
  | .sp k => decide (k = 15)

/-- A group of g registers: aligned, and no special operand (R99, R100). -/
def Opnd.group (g : Nat) : Opnd → Bool
  | .v n => decide (n < 640) && decide (n % g = 0)
  | .sp _ => false

/-- An even vector register that starts n registers, all below 640: a descriptor (R255, R288), and LAUNCH's A, where R387
makes every field value but an even register ILLEGAL. -/
def Opnd.desc (n : Nat) : Opnd → Bool
  | .v a => decide (a + n ≤ 640) && decide (a % 2 = 0)
  | .sp _ => false

/-- Whether a type names a pair (R138). -/
def Ty.wide : Ty → Bool
  | .i64 | .n64 => true
  | _ => false

/-- A source at the width of a type. -/
def Opnd.srcTy (t : Ty) (o : Opnd) : Bool := if t.wide then o.srcPair else o.src

/-- A destination at the width of a type. -/
def Opnd.dstTy (t : Ty) (o : Opnd) : Bool := if t.wide then o.dstPair else o.dst

/-- The integer types 0 to 3 of R157. -/
def Ty.int : Ty → Bool
  | .i32 | .n32 | .i64 | .n64 => true
  | _ => false

/-- The shift types of R165. -/
def Ty.shift : Ty → Bool
  | .i32 | .n32 | .i64 | .n64 | .b32 => true
  | _ => false

/-- The move types of R161 and R168. -/
def Ty.move : Ty → Bool
  | .b32 | .i64 | .n64 => true
  | _ => false

/-- The conditions 0 to 5 that integers accept (R160). -/
def Cc.int : Cc → Bool
  | .un | .ord => false
  | _ => true

/-- A destination operand of LD, or a source operand of ST, by SZ (R237). -/
def szOpnd (dst : Bool) (sz : Nat) (o : Opnd) : Bool :=
  if sz ≤ 2 then (if dst then o.dst else o.src)
  else if sz = 3 then (if dst then o.dstPair else o.srcPair)
  else if sz = 4 then o.group 4 else o.group 8

/-- The scope a strong operation takes: fab or sys (R236, R242). -/
def Scope.wideEnough : Scope → Bool
  | .fab | .sys => true
  | _ => false

/-- The source register of a barrier object's address: an even register, or zero (R255). -/
def barOpnd : Opnd → Bool
  | .v n => decide (n < 640) && decide (n % 2 = 0)
  | .sp k => decide (k = 0)

/-- Registers B and the swap registers of .cas (R243). -/
def casOpnd (w64 : Bool) : Opnd → Bool
  | .v n => if w64 then decide (n % 2 = 0) && decide (n + 3 < 640) else decide (n + 1 < 640)
  | .sp _ => false

/-- The system register numbers of R428. -/
def sysRegListed (n : Nat) : Bool :=
  decide (n ≤ 5) || (decide (0x010 ≤ n) && decide (n ≤ 0x01F)) || (decide (0x100 ≤ n) && decide (n ≤ 0x113)) ||
  (decide (0x120 ≤ n) && decide (n ≤ 0x127)) || (decide (0x130 ≤ n) && decide (n ≤ 0x13F)) ||
  (decide (0x140 ≤ n) && decide (n ≤ 0x14B)) || n == 0x200 || n == 0x201

/-- The system registers that SYSWR may name: listed and not read-only (R418, R428). -/
def sysRegWritable (n : Nat) : Bool :=
  sysRegListed n && decide (0x102 ≤ n) && n != 0x10F && n != 0x112 && n != 0x113

/-- Whether a TSTATE item is 64 bits wide (R421). -/
def tstateWide (n : Nat) : Bool := n == 0 || n == 1 || n == 2 || n == 5

/-- A skip buffer operand. -/
def qOk : Option Nat → Bool
  | none => true
  | some q => decide (q < 16)

/-- A copy's skip buffer operand. -/
def QSide.ok : QSide → Bool
  | .none => true
  | .to q => decide (q < 16)
  | .from q => decide (q < 16)

/-- The common fields of a word, where the term has one. -/
def Instr.hdr? : Instr → Option Hdr
  | .nop h | .bra h _ | .brx h _ | .brxRel h _ | .call h _ | .callIndirect h _ | .ret h | .exitThreads h | .yieldCore h
  | .waittAbs h _ _ | .waittRel h _ _ | .trap h _ _ | .bkpt h _ | .kset h _ _ | .ksign h _ _ | .phadv h _ _
  | .phwait h _ _ _ _ | .bar h _ _ _ | .barNock h _ _ _ | .commit h _ _ | .iadd h _ _ _ _ _ | .isub h _ _ _ _ _
  | .imul h _ _ _ _ _ | .imulh h _ _ _ _ | .imad h _ _ _ _ _ _ | .idiv h _ _ _ _ _ | .irem h _ _ _ _
  | .imin h _ _ _ _ | .imax h _ _ _ _ | .iabs h _ _ _ _ | .iset h _ _ _ _ _ _ | .iseti h _ _ _ _ _
  | .sel h _ _ _ _ _ | .and h _ _ _ | .or h _ _ _ | .xor h _ _ _ | .logi h _ _ _ _ _ | .shl h _ _ _ _ | .shr h _ _ _ _
  | .rot h _ _ _ _ _ | .clz h _ _ _ | .popc h _ _ _ | .brev h _ _ _ | .bfx h _ _ _ _ | .bfi h _ _ _ _
  | .lea h _ _ _ _ _ | .movi h _ _ _ | .movl h _ _ _ | .mov h _ _ _ | .iaddi h _ _ _ _ _ | .plop h _ _ _ _
  | .pmovPack h _ | .pmovUnpack h _ | .pmovNz h _ _ | .pmovVal h _ _ | .fadd h _ _ _ _ _ | .fsub h _ _ _ _ _
  | .fmul h _ _ _ _ _ | .ffma h _ _ _ _ _ _ | .fmin h _ _ _ | .fmax h _ _ _ | .fset h _ _ _ _ _ | .frcp h _ _ _ _
  | .frsq h _ _ _ | .fsqrt h _ _ _ _ | .fex2 h _ _ _ | .flg2 h _ _ _ | .ftrig h _ _ _ _ | .fcls h _ _ _
  | .hadd2 h _ _ _ _ _ _ | .hmul2 h _ _ _ _ _ _ | .hfma2 h _ _ _ _ _ _ _ | .cvt h _ _ _ _ _ _ | .fscal h _ _ _ _ _
  | .dot4 h _ _ _ _ _ _ _ | .shfl h _ _ _ _ _ | .vote h _ | .crdx h _ _ _ | .ld h _ _ _ _ _ _ _ | .st h _ _ _ _ _ _ _
  | .atom h _ _ _ _ _ _ _ | .red h _ _ _ _ _ _ | .fenceFull h _ _ _ | .fenceAcq h _ _ _ | .fenceRel h _ _ _
  | .pref h _ _ _ _ | .cctlInv h _ _ | .cctlInvall h | .cctlWb h _ _ | .cctlWbinv h _ _ | .copy h _ _ _ _
  | .copyt h _ _ _ _ | .gath h _ _ _ _ | .skcfg h _ _ _ _ | .skopRes h _ _ _ | .skopPub h _ _ _ | .skopTake h _ _ _
  | .skopPop h _ _ _ | .skopState h _ _ | .binit h _ _ | .barv h _ _ _ | .bwait h _ _ _ | .bexp h _ _ _
  | .mload h _ _ _ _ _ _ | .mma h _ _ _ _ _ _ _ _ _ | .mzero h _ _ | .mdrain h _ _ _ _ _ _ _ _ | .mstatState h _ _
  | .mstatPasses h _ _ | .mstatCanary h _ _ | .mstatChecks h _ _ | .grow h _ _ _ | .shrink h _ _ _ | .alook h _ _ _ _ _
  | .aname h _ _ _ _ | .aref h _ _ _ | .aldSec h _ _ _ | .aldAddr h _ _ | .aswapSwap h _ _ _ | .aswapCas h _ _ _
  | .aout h _ _ _ _ | .astatCount h _ _ | .astatFree h _ | .astatUsed h _ | .astatCollide h _ | .astatRoot h _ _
  | .astatPend h _ | .launch h _ _ _ | .sysrd h _ _ _ | .syswr h _ _ _ | .tret h | .tstateRd h _ _ | .tstateWr h _ _
  | .vmembForm h _ _ _ | .vmembJoin h _ _ _ | .vmembLeave h _ _ _ | .vmembEvict h _ _ _ | .vmembQuery h _ _
  | .vmembRot h _ _ _ | .claimMake h _ _ | .claimEnd h _ _ | .placeTask h _ _ | .placeRestore h _ _ | .freezeHold h _ _
  | .freezeKill h _ _ | .freezeSave h _ _ | .freezeRelease h _ _ | .idle h _ _ _ | .dlog h _ _ => some h
  | _ => none

/-- The latency class of each instruction (R118). -/
def Instr.cls : Instr → Cls
  | .nop .. | .bra .. | .brx .. | .brxRel .. | .call .. | .callIndirect .. | .ret .. | .exitThreads .. | .yieldCore ..
  | .waittAbs .. | .waittRel .. | .trap .. | .bkpt .. | .ksign .. | .phadv .. | .phwait .. | .bar .. | .barNock ..
  | .commit .. | .shfl .. | .vote .. | .crdx .. | .fenceFull .. | .fenceAcq .. | .fenceRel .. | .bwait .. | .grow ..
  | .shrink .. | .tret .. | .idle .. => .W
  | .iadd .. | .isub .. | .imul .. | .imulh .. | .imad .. | .imin .. | .imax .. | .iabs .. | .iset .. | .iseti ..
  | .sel .. | .and .. | .or .. | .xor .. | .logi .. | .shl .. | .shr .. | .rot .. | .clz .. | .popc .. | .brev ..
  | .bfx .. | .bfi .. | .lea .. | .movi .. | .movl .. | .mov .. | .iaddi .. | .plop .. | .pmovPack .. | .pmovUnpack ..
  | .pmovNz .. | .pmovVal .. | .fadd .. | .fsub .. | .fmul .. | .ffma .. | .fmin .. | .fmax .. | .fset .. | .fcls .. => .S
  | i => if i.hdr?.isSome then .L else .event

/-- Whether the term stands for an instruction word. -/
def Instr.isWord (i : Instr) : Bool := i.hdr?.isSome

/-- The common fields lie in their ranges, and LA is zero on a word of class S or W (R119). -/
def Instr.laOk (i : Instr) : Bool :=
  match i.hdr? with
  | none => true
  | some h => decide (h.la < 16) && (decide (i.cls = .L) || decide (h.la = 0))

/-- The guard names one of p0 to p15 (R103). -/
def Instr.guardOk (i : Instr) : Bool :=
  match i.hdr? with
  | none => true
  | some h => decide (h.g < 16)

/-- A control transfer ends its run: B is set (R123). -/
def Instr.transferOk : Instr → Bool
  | .bra h _ | .brx h _ | .brxRel h _ | .call h _ | .callIndirect h _ | .ret h | .exitThreads h | .tret h => h.b
  | _ => true

/-- The register operands an instruction names are of the kind it takes (R63, R97 to R101). -/
def Instr.regsOk : Instr → Bool
  | .brx _ a | .callIndirect _ a => a.srcPair
  | .brxRel _ a => a.src
  | .waittAbs _ d a | .waittRel _ d a => d.dstPair && a.srcPair
  | .trap _ a _ => a.src
  | .kset _ k c => decide (k < 16) && (match c with | .imm _ => true | .reg a => a.src)
  | .ksign _ d k => d.dst && decide (k < 16)
  | .phadv _ d _ => d.dst
  | .phwait _ d a _ _ => d.dst && a.src
  | .bar _ d _ _ | .barNock _ d _ _ | .commit _ d _ | .fenceFull _ d _ _ | .fenceAcq _ d _ _ | .fenceRel _ d _ _ => d.dst
  | .iadd _ ty _ d a b | .isub _ ty _ d a b | .imul _ ty _ d a b | .imulh _ ty d a b | .idiv _ ty _ d a b
  | .irem _ ty d a b | .imin _ ty d a b | .imax _ ty d a b => d.dstTy ty && a.srcTy ty && b.srcTy ty
  | .imad _ ty _ d a b c => d.dstTy ty && a.srcTy ty && b.srcTy ty && c.srcTy ty
  | .iabs _ ty _ d a | .mov _ ty d a | .iaddi _ ty _ d a _ => d.dstTy ty && a.srcTy ty
  | .iset _ _ ty p a b q => decide (p < 16) && a.srcTy ty && b.srcTy ty && decide (q < 16)
  | .iseti _ _ ty p a _ => decide (p < 16) && a.srcTy ty
  | .sel _ ty d a b q => d.dstTy ty && a.srcTy ty && b.srcTy ty && decide (q < 16)
  | .and _ d a b | .or _ d a b | .xor _ d a b | .fmin _ d a b | .fmax _ d a b => d.dst && a.src && b.src
  | .logi _ _ _ d a _ => d.dst && a.src
  | .shl _ ty d a b | .shr _ ty d a b => d.dstTy ty && a.srcTy ty && b.src
  | .rot _ _ _ d a b => d.dst && a.src && b.src
  | .clz _ wide d a | .popc _ wide d a => d.dst && (if wide then a.srcPair else a.src)
  | .brev _ wide d a => if wide then d.dstPair && a.srcPair else d.dst && a.src
  | .bfx _ _ d a c => d.dst && a.src && c.src
  | .bfi _ d a b c => d.dst && a.src && b.src && c.src
  | .lea _ _ _ d a b => d.dstPair && a.srcPair && b.src
  | .movi _ wide d _ => if wide then d.dstPair else d.dst
  | .movl _ single d _ => if single then d.dst else d.dstPair
  | .plop _ _ p a b => decide (p < 16) && decide (a < 16) && decide (b < 16)
  | .pmovPack _ d => d.dst
  | .pmovUnpack _ a => a.src
  | .pmovNz _ p a => decide (p < 16) && a.src
  | .pmovVal _ d p => d.dst && decide (p < 16)
  | .fadd _ _ _ d a b | .fsub _ _ _ d a b | .fmul _ _ _ d a b | .fscal _ _ _ d a b => d.dst && a.src && b.src
  | .ffma _ _ _ d a b c => d.dst && a.src && b.src && c.src
  | .fset _ _ p a b q => decide (p < 16) && a.src && b.src && decide (q < 16)
  | .frcp _ _ _ d a | .fsqrt _ _ _ d a | .ftrig _ _ _ d a => d.dst && a.src
  | .frsq _ _ d a | .fex2 _ _ d a | .flg2 _ _ d a | .fcls _ _ d a => d.dst && a.src
  | .hadd2 _ _ _ _ d a b | .hmul2 _ _ _ _ d a b => d.dst && a.src && b.src
  | .hfma2 _ _ _ _ d a b c | .dot4 _ _ _ _ d a b c => d.dst && a.src && b.src && c.src
  | .cvt _ dt sty _ _ d a => d.dstTy dt && a.srcTy sty
  | .shfl _ w64 _ d a b => (if w64 then d.dstPair && a.srcPair else d.dst && a.src) && b.src
  | .vote _ f =>
    match f with
    | .all p q | .any p q => decide (p < 16) && decide (q < 16)
    | .ballot d q => d.dstPair && decide (q < 16)
    | .uni p a => decide (p < 16) && a.src
  | .crdx _ _ d a => d.dst && a.src
  | .ld _ sz _ _ _ d a _ => szOpnd true sz d && a.srcPair
  | .st _ sz _ _ _ d a _ => szOpnd false sz d && a.srcPair
  | .atom _ op w64 _ _ d a b =>
    (if w64 then d.dstPair else d.dst) && a.srcPair &&
      (if op = .cas then casOpnd w64 b else if w64 then b.srcPair else b.src)
  | .red _ _ w64 _ _ a b => a.srcPair && (if w64 then b.srcPair else b.src)
  | .pref _ _ _ a _ | .cctlInv _ a _ | .cctlWb _ a _ | .cctlWbinv _ a _ => a.srcPair
  | .copy _ d a b q => d.dst && a.desc 6 && barOpnd b && q.ok
  | .copyt _ d a b q => d.dst && a.desc 12 && barOpnd b && q.ok
  | .gath _ d a b q => d.dst && a.desc 10 && barOpnd b && qOk q
  | .skcfg _ d a b q => d.dst && a.src && b.src && decide (q < 16)
  | .skopRes _ d b q | .skopPub _ d b q | .skopTake _ d b q | .skopPop _ d b q => d.dst && b.src && decide (q < 16)
  | .skopState _ d q => d.dst && decide (q < 16)
  | .binit _ a _ => a.srcPair
  | .barv _ d a _ | .bexp _ d a _ | .bwait _ d a _ => d.dst && a.srcPair
  | .mload _ _ _ d a k q => d.dst && a.desc 4 && decide (k < 16) && decide (q < 16)
  | .mma _ _ _ _ _ d tile b k q => d.dst && decide (tile < 64) && b.src && decide (k < 16) && decide (q < 16)
  | .mzero _ tile _ => decide (tile < 64)
  | .mdrain _ _ _ _ _ d tile k q => d.dst && decide (tile < 64) && decide (k < 16) && decide (q < 16)
  | .mstatState _ d _ | .mstatPasses _ d _ | .mstatCanary _ d _ | .mstatChecks _ d _ => d.dst
  | .grow _ d b k | .shrink _ d b k => d.dst && b.src && decide (k < 16)
  | .alook _ _ d a b q => d.dst && (if q.isSome then decide (a = Opnd.zero) else a.srcPair) && b.group 4 && qOk q
  | .aname _ _ d a b => d.dst && a.srcPair && b.group 4
  | .aref _ d a _ => d.dst && a.group 4
  | .aldSec _ d a _ => d.group 8 && a.group 4
  | .aldAddr _ d a => d.dstPair && a.group 4
  | .aswapSwap _ d a r | .aswapCas _ d a r => d.group 8 && a.group 8 && r.src
  | .aout _ d a b q => d.dst && (if q.isSome then decide (a = Opnd.zero) else a.srcPair) && b.group 4 && qOk q
  | .astatCount _ d a => d.dst && a.group 4
  | .astatFree _ d | .astatUsed _ d | .astatPend _ d => d.dstPair
  | .astatCollide _ d => d.dst
  | .astatRoot _ d a => d.group 4 && a.src
  | .launch _ _ d a => d.dst && a.desc 2
  | .sysrd _ w d _ => if w then d.dstPair else d.dst
  | .syswr _ w a _ => if w then a.srcPair else a.src
  | .tstateRd _ d item => if tstateWide item then d.dstPair else d.dst
  | .tstateWr _ a item => if tstateWide item then a.srcPair else a.src
  | .vmembForm _ d a _ | .vmembJoin _ d a _ | .vmembLeave _ d a _ | .vmembEvict _ d a _ | .vmembRot _ d a _
  | .claimMake _ d a | .claimEnd _ d a | .freezeHold _ d a | .freezeKill _ d a | .freezeRelease _ d a
  | .idle _ d a _ => d.dst && a.srcPair
  | .vmembQuery _ d _ => d.dst
  | .placeTask _ d a | .placeRestore _ d a => d.dst && a.desc 4
  | .freezeSave _ d a => d.dst && a.group 4
  | .dlog _ d a => d.dst && a.group 8
  | _ => true

/-- The function, code and selector fields hold values the instruction defines (R123). -/
def Instr.fieldsOk : Instr → Bool
  | .trap _ _ code | .bkpt _ code => decide (code < 65536)
  | .kset _ _ c => (match c with | .imm n => decide (n ≤ 2048) | .reg _ => true)
  | .phadv _ _ slot => decide (slot < 4)
  | .phwait _ _ _ slot nbr => decide (slot < 4) && decide (nbr < 8)
  | .iadd _ ty _ _ _ _ | .isub _ ty _ _ _ _ | .imul _ ty _ _ _ _ | .imulh _ ty _ _ _ | .imad _ ty _ _ _ _ _
  | .idiv _ ty _ _ _ _ | .irem _ ty _ _ _ | .imin _ ty _ _ _ | .imax _ ty _ _ _ | .iaddi _ ty _ _ _ _ => ty.int
  | .iabs _ ty _ _ _ => decide (ty = .i32) || decide (ty = .i64)
  | .iset _ cc ty _ _ _ _ | .iseti _ cc ty _ _ _ => cc.int && ty.int
  | .sel _ ty _ _ _ _ | .mov _ ty _ _ => ty.move
  | .shl _ ty _ _ _ | .shr _ ty _ _ _ => ty.shift
  | .rot _ ty _ _ _ _ => ty.shift && !ty.wide
  | .lea _ _ sh _ _ _ => decide (sh < 8)
  | .plop _ tt _ _ _ => decide (tt < 16)
  | .fcls _ ty _ _ => decide (ty = .f32) || decide (ty = .f16) || decide (ty = .bf16) || decide (ty = .dm8)
  | .hadd2 _ ty _ _ _ _ _ | .hmul2 _ ty _ _ _ _ _ | .hfma2 _ ty _ _ _ _ _ _ => decide (ty = .f16) || decide (ty = .bf16)
  | .cvt _ dt sty rm _ _ _ => decide (dt ≠ .b32) && decide (sty ≠ .b32) && !(decide (dt = .dm8) && decide (rm ≠ .rn))
  | .dot4 _ ty rm _ _ _ _ _ => decide (ty = .dm8) || ((decide (ty = .i8) || decide (ty = .n8)) && decide (rm = .rn))
  | .ld _ sz ord scope hint _ _ _ =>
    decide (sz < 6) && decide (hint < 4) &&
      (decide (ord = .rlx) || decide (ord = .acq) || decide (ord = .inv) ||
        (decide (ord = .strong) && decide (sz ≤ 3) && scope.wideEnough))
  | .st _ sz ord scope hint _ _ _ =>
    decide (sz < 6) && decide (hint < 4) &&
      (decide (ord = .rlx) || decide (ord = .rel) || (decide (ord = .strong) && decide (sz ≤ 3) && scope.wideEnough))
  | .atom _ op w64 ord scope _ _ _ =>
    !(decide (op = .fadd) && w64) && decide (ord ≠ .inv) && (decide (ord ≠ .strong) || scope.wideEnough)
  | .red _ op w64 ord scope _ _ =>
    !(decide (op = .fadd) && w64) && decide (op ≠ .exch) && decide (op ≠ .cas) &&
      (decide (ord = .rlx) || decide (ord = .rel) || (decide (ord = .strong) && scope.wideEnough))
  | .pref _ sz hint _ _ => decide (sz < 3) && decide (hint < 4)
  | .binit _ _ n | .barv _ _ _ n | .bexp _ _ _ n => decide (0 < n) && decide (n < 65536)
  | .mzero _ _ c => decide (c < 64)
  | .mdrain _ fmt rm sat _ _ _ _ _ =>
    (decide (fmt = .bf16) || decide (fmt = .f16) || decide (rm = .rn)) && (decide (fmt ≠ .b32) || !sat)
  | .aldSec _ _ _ s => decide (s < 8)
  | .sysrd _ _ _ reg => sysRegListed reg
  | .syswr _ _ _ reg => sysRegWritable reg
  | .tstateRd _ _ item => decide (item < 7)
  | .tstateWr _ _ item => decide (item < 3)
  | .vmembForm _ _ _ slot | .vmembJoin _ _ _ slot | .vmembLeave _ _ _ slot | .vmembEvict _ _ _ slot
  | .vmembQuery _ _ slot | .vmembRot _ _ _ slot => decide (slot < 4)
  | .idle _ _ _ mask => decide (mask < 32)
  | _ => true

/-- A term that stands for a legal word, or an event (R123). -/
def Instr.wf (i : Instr) : Bool := i.fieldsOk && i.regsOk && i.guardOk && i.laOk && i.transferOk

/-- A well-formed instruction word. -/
def Instr.WellFormed (i : Instr) : Prop := i.isWord = true ∧ i.wf = true

end Sys2Proof
end

