-- ==== Sys2Proof/Decode.lean ====
section
/-! DEFINITION. The decoder (R97 to R123), total on any bytes and rejecting by name, and the encoder after it. The
model's own part of a word: an unused register field is written as the assembler writes it (R102, log entry 7). -/

namespace Sys2Proof

/-- Why a word is ILLEGAL (R123), by name. -/
inductive Illegal where
  /-- Fewer than eight bytes were given. -/
  | truncated
  /-- The opcode is reserved (R122). -/
  | reservedOpcode
  /-- An FN, AOP, KIND or SEL16 value the instruction does not define. -/
  | badFunction
  /-- A reserved code of R108. -/
  | reservedCode
  /-- A reserved or unused field is nonzero (R102, R111, R137). -/
  | reservedField
  /-- A field value outside the instruction's own limits. -/
  | badField
  /-- A register field under R63 and R97 to R101. -/
  | badRegister
  /-- LA nonzero on a word of class S or W (R119). -/
  | badLookahead
  /-- A control transfer with B = 0. -/
  | transferB
  /-- OP = 127 at an instruction position (R116). -/
  | headerInBlock
  /-- A MOVL whose literal word lies beyond its block (R114). -/
  | movlLiteral
  deriving DecidableEq, Repr

/-- The answer of the decoder. -/
abbrev Dec := Except Illegal Instr

/-- The name of the first check of Instr.wf that fails. -/
def Instr.whyNot (i : Instr) : Illegal :=
  if !i.fieldsOk then .badField
  else if !i.regsOk then .badRegister
  else if !i.laOk then .badLookahead
  else .transferB

/-- Accept a term that is well formed. -/
def fin (i : Instr) : Dec := if i.wf then .ok i else .error i.whyNot

/-- Go on where a check holds. -/
def guardD (c : Bool) (e : Illegal) (k : Dec) : Dec := if c then k else .error e

/-- Read a register field (R97). -/
def opnd? (f : Nat) : Option Opnd :=
  if f < 640 then some (.v f) else if f < 1008 then none else some (.sp (f - 1008))

/-- Write a register field (R97). -/
def Opnd.code : Opnd → Nat
  | .v n => n
  | .sp k => 1008 + k

/-- Go on with the operand a register field names. -/
def opd (f : Nat) (k : Opnd → Dec) : Dec :=
  match opnd? f with
  | some o => k o
  | none => .error .badRegister

/-- An unused register field holds 0 or 1008 (R102). -/
def unused (f : Nat) (k : Dec) : Dec := guardD (f == 0 || f == 1008) .reservedField k

/-- A field that a form declares zero, where it does: encoding 0 reads as the special operand zero (R102). -/
def zeroFor (declared : Bool) (f : Nat) : Nat := if declared && f == 0 then 1008 else f

/-- A field that names a predicate, k or q register: bits [3:0], the rest zero (R101). -/
def name4 (f : Nat) (k : Nat → Dec) : Dec := guardD (decide (f < 16)) .badRegister (k f)

/-- A field that names an accumulator tile: bits [5:0], the rest zero (R101). -/
def name6 (f : Nat) (k : Nat → Dec) : Dec := guardD (decide (f < 64)) .badRegister (k f)

def fOp (w : Nat) : Nat := fld w 57 7
def fD (w : Nat) : Nat := fld w 37 10
def fA (w : Nat) : Nat := fld w 27 10
def fB (w : Nat) : Nat := fld w 17 10
def fC (w : Nat) : Nat := fld w 7 10
def fFn (w : Nat) : Nat := fld w 0 7
def fImm (w : Nat) : BitVec 20 := BitVec.ofNat 20 (fld w 7 20)
def fSel (w : Nat) : Nat := fld w 11 16

/-- The common fields of a word (R103). -/
def hdrOf (w : Nat) : Hdr :=
  { b := fld w 56 1 == 1, la := fld w 52 4, g := fld w 48 4, gn := fld w 47 1 == 1 }

/-- Type code to type (R138). -/
def ty? : Nat → Option Ty
  | 0 => some .i32 | 1 => some .n32 | 2 => some .i64 | 3 => some .n64 | 4 => some .i16 | 5 => some .n16
  | 6 => some .i8 | 7 => some .n8 | 8 => some .i4 | 9 => some .b32 | 10 => some .f32 | 11 => some .f16
  | 12 => some .bf16 | 13 => some .dm8 | _ => none

/-- Type to type code (R138). -/
def Ty.code : Ty → Nat
  | .i32 => 0 | .n32 => 1 | .i64 => 2 | .n64 => 3 | .i16 => 4 | .n16 => 5 | .i8 => 6 | .n8 => 7 | .i4 => 8
  | .b32 => 9 | .f32 => 10 | .f16 => 11 | .bf16 => 12 | .dm8 => 13

/-- Rounding code to mode (R139). -/
def rmOf : Nat → Rm
  | 0 => .rn | 1 => .rz | 2 => .ru | _ => .rd

def Rm.code : Rm → Nat
  | .rn => 0 | .rz => 1 | .ru => 2 | .rd => 3

/-- Condition code to condition (R139). -/
def ccOf : Nat → Cc
  | 0 => .eq | 1 => .ne | 2 => .lt | 3 => .le | 4 => .gt | 5 => .ge | 6 => .un | _ => .ord

def Cc.code : Cc → Nat
  | .eq => 0 | .ne => 1 | .lt => 2 | .le => 3 | .gt => 4 | .ge => 5 | .un => 6 | .ord => 7

/-- ORD codes (R108). -/
def ord? : Nat → Option Ord
  | 0 => some .rlx | 1 => some .acq | 2 => some .rel | 3 => some .ar | 4 => some .strong | 5 => some .inv | _ => none

def Ord.code : Ord → Nat
  | .rlx => 0 | .acq => 1 | .rel => 2 | .ar => 3 | .strong => 4 | .inv => 5

/-- SCOPE codes (R108). -/
def scope? : Nat → Option Scope
  | 0 => some .task | 1 => some .chip | 2 => some .fab | 3 => some .sys | _ => none

def Scope.code : Scope → Nat
  | .task => 0 | .chip => 1 | .fab => 2 | .sys => 3

/-- AOP codes (R242). -/
def aop? : Nat → Option Aop
  | 0 => some .add | 1 => some .minI | 2 => some .maxI | 3 => some .minN | 4 => some .maxN | 5 => some .and
  | 6 => some .or | 7 => some .xor | 8 => some .exch | 9 => some .cas | 10 => some .fadd | 11 => some .inc
  | 12 => some .dec | _ => none

def Aop.code : Aop → Nat
  | .add => 0 | .minI => 1 | .maxI => 2 | .minN => 3 | .maxN => 4 | .and => 5 | .or => 6 | .xor => 7 | .exch => 8
  | .cas => 9 | .fadd => 10 | .inc => 11 | .dec => 12

/-- CRDX codes (R185). -/
def redOp? : Nat → Option RedOp
  | 0 => some .addI32 | 1 => some .minI32 | 2 => some .maxI32 | 3 => some .minN32 | 4 => some .maxN32
  | 5 => some .andB32 | 6 => some .orB32 | 7 => some .xorB32 | 8 => some .addF32 | 9 => some .minF32
  | 10 => some .maxF32 | _ => none

def RedOp.code : RedOp → Nat
  | .addI32 => 0 | .minI32 => 1 | .maxI32 => 2 | .minN32 => 3 | .maxN32 => 4 | .andB32 => 5 | .orB32 => 6
  | .xorB32 => 7 | .addF32 => 8 | .minF32 => 9 | .maxF32 => 10

def lop? : Nat → Option Lop
  | 0 => some .and | 1 => some .or | 2 => some .xor | _ => none

def Lop.code : Lop → Nat
  | .and => 0 | .or => 1 | .xor => 2

def shflOf : Nat → ShflMode
  | 0 => .idx | 1 => .up | 2 => .down | _ => .xor

def ShflMode.code : ShflMode → Nat
  | .idx => 0 | .up => 1 | .down => 2 | .xor => 3

def bfmtOf : Nat → BFmt
  | 0 => .dm8 | 1 => .i8 | 2 => .bf16 | _ => .f16

def BFmt.code : BFmt → Nat
  | .dm8 => 0 | .i8 => 1 | .bf16 => 2 | .f16 => 3

def afmt? : Nat → Option AFmt
  | 0 => some .dm8 | 1 => some .i8 | 2 => some .i4 | 3 => some .bf16 | 4 => some .f16 | _ => none

def AFmt.code : AFmt → Nat
  | .dm8 => 0 | .i8 => 1 | .i4 => 2 | .bf16 => 3 | .f16 => 4

def ofmt? : Nat → Option OFmt
  | 0 => some .f32 | 1 => some .bf16 | 2 => some .f16 | 3 => some .dm8 | 4 => some .b32 | _ => none

def OFmt.code : OFmt → Nat
  | .f32 => 0 | .bf16 => 1 | .f16 => 2 | .dm8 => 3 | .b32 => 4

/-- Go on with a decoded code, or answer the error. -/
def withSome {α : Type} (o : Option α) (e : Illegal) (k : α → Dec) : Dec :=
  match o with
  | some x => k x
  | none => .error e

/-- The arithmetic function layout of R140: S, V and TY. -/
def arith (w : Nat) (k : Ty → Bool → Nat → Dec) : Dec :=
  withSome (ty? (fld w 0 4)) .badFunction fun t => k t (fld w 6 1 == 1) (fld w 4 2)

/-- The arithmetic layout with V = 0. -/
def arith0 (w : Nat) (k : Ty → Bool → Dec) : Dec := arith w fun t s v => guardD (v == 0) .badFunction (k t s)

/-- The arithmetic layout with S = 0 and V = 0. -/
def arith00 (w : Nat) (k : Ty → Dec) : Dec :=
  arith w fun t s v => guardD (v == 0 && !s) .badFunction (k t)

/-- The arithmetic layout of a .f32 instruction with a rounding mode and .sat (R172). -/
def farith (w : Nat) (k : Rm → Bool → Dec) : Dec :=
  arith w fun t s v => guardD (decide (t = .f32)) .badFunction (k (rmOf v) s)

/-- The comparison layout of R141. -/
def compar (w : Nat) (k : Cc → Ty → Dec) : Dec :=
  withSome (ty? (fld w 0 4)) .badFunction fun t => k (ccOf (fld w 4 3)) t

/-- Operands D, A of an F3 word whose B and C are unused. -/
def da (w : Nat) (k : Opnd → Opnd → Dec) : Dec :=
  unused (fB w) <| unused (fC w) <| opd (fD w) fun d => opd (fA w) fun a => k d a

/-- Operands D, A, B of an F3 word whose C is unused. -/
def dab (w : Nat) (k : Opnd → Opnd → Opnd → Dec) : Dec :=
  unused (fC w) <| opd (fD w) fun d => opd (fA w) fun a => opd (fB w) fun b => k d a b

/-- Operands D, A, B, C of an F3 word. -/
def dabc (w : Nat) (k : Opnd → Opnd → Opnd → Opnd → Dec) : Dec :=
  opd (fD w) fun d => opd (fA w) fun a => opd (fB w) fun b => opd (fC w) fun c => k d a b c

/-- An FM word: D, A, SZ, ORD, SCOPE, HINT and OFF16 (R107, R108). -/
def fm (w : Nat) (k : Nat → Ord → Scope → Nat → Opnd → Opnd → BitVec 16 → Dec) : Dec :=
  guardD (decide (fld w 8 3 < 6)) .reservedCode <|
  withSome (ord? (fld w 5 3)) .reservedCode fun o => withSome (scope? (fld w 2 3)) .reservedCode fun s =>
  opd (fD w) fun d => opd (fA w) fun a => k (fld w 8 3) o s (fld w 0 2) d a (BitVec.ofNat 16 (fld w 11 16))

/-- An FA word (R109). -/
def fa (w : Nat) (k : Aop → Bool → Ord → Scope → Opnd → Opnd → Opnd → Dec) : Dec :=
  guardD (fld w 0 6 == 0) .reservedField <|
  withSome (aop? (fld w 13 4)) .badFunction fun op =>
  withSome (ord? (fld w 9 3)) .reservedCode fun o => withSome (scope? (fld w 6 3)) .reservedCode fun s =>
  opd (fD w) fun d => opd (fA w) fun a => opd (fB w) fun b => k op (fld w 12 1 == 1) o s d a b

/-- An FF word (R110). -/
def ff (w : Nat) (k : Nat → Scope → Bool → Opnd → Dec) : Dec :=
  guardD (fld w 0 30 == 0) .reservedField <|
  withSome (scope? (fld w 31 3)) .reservedCode fun s => opd (fD w) fun d => k (fld w 34 3) s (fld w 30 1 == 1) d

/-- An FE word whose K is used as said (R111): the k register, 0 where KE = 0. -/
def feK (w : Nat) (used : Bool) (k : Nat → Dec) : Dec :=
  if used then guardD (fld w 7 1 == 1) .badField (k (fld w 13 4))
  else guardD (fld w 7 1 == 0 && fld w 13 4 == 0) .reservedField (k 0)

/-- An FE word whose Q is used as said (R111). -/
def feQ (w : Nat) (used : Bool) (k : Nat → Dec) : Dec :=
  if used then guardD (fld w 8 1 == 1) .badField (k (fld w 9 4))
  else guardD (fld w 8 1 == 0 && fld w 9 4 == 0) .reservedField (k 0)

/-- An FE word whose Q is optional (R111). -/
def feQo (w : Nat) (k : Option Nat → Dec) : Dec :=
  if fld w 8 1 == 1 then k (some (fld w 9 4)) else guardD (fld w 9 4 == 0) .reservedField (k none)

/-- An FS word: its reserved field [10:7] is zero (R113). -/
def fs (w : Nat) (k : Dec) : Dec := guardD (fld w 7 4 == 0) .reservedField k

/-- The fields of a copy (R255). -/
def copyForm (w : Nat) (k : Opnd → Opnd → Opnd → QSide → Dec) : Dec :=
  feK w false fun _ => feQo w fun q => guardD (decide (fFn w < 2)) .badFunction <|
  opd (fD w) fun d => opd (fA w) fun a => opd (fB w) fun b =>
  match q with
  | none => guardD (fFn w == 0) .badFunction (k d a b .none)
  | some q => k d a b (if fFn w == 0 then .to q else .from q)

/-- A skip-buffer operation (R267). -/
def skop (w : Nat) (q : Nat) (k : Opnd → Opnd → Nat → Instr) : Dec :=
  opd (fD w) fun d => opd (fB w) fun b => fin (k d b q)

/-- A firmware instruction of the FS format with D, A and SEL16 zero (R422). -/
def fwDA (w : Nat) (k : Opnd → Opnd → Instr) : Dec :=
  guardD (fSel w == 0) .badFunction <| opd (fD w) fun d => opd (fA w) fun a => fin (k d a)

/-- Decode the control and convergence words, opcodes 0 to 15. -/
def decodeControl (w : Nat) : Dec :=
  let h := hdrOf w
  let fbA := fld w 37 10
  let off := fld w 5 32
  let fn5 := fld w 0 5
  let sel := fSel w
  match fOp w with
  | 0 => guardD (fFn w == 0) .badFunction <| unused (fD w) <| unused (fA w) <| unused (fB w) <| unused (fC w) <| fin (.nop h)
  | 1 => guardD (fn5 == 0) .badFunction <| unused fbA <| fin (.bra h (BitVec.ofNat 32 off))
  | 2 => guardD (off == 0) .reservedField <| opd fbA fun a =>
      match fn5 with
      | 0 => fin (.brx h a)
      | 1 => fin (.brxRel h a)
      | _ => .error .badFunction
  | 3 =>
      match fn5 with
      | 0 => unused fbA <| fin (.call h (BitVec.ofNat 32 off))
      | 1 => guardD (off == 0) .reservedField <| opd fbA fun a => fin (.callIndirect h a)
      | _ => .error .badFunction
  | 4 => guardD (fn5 == 0) .badFunction <| guardD (off == 0) .reservedField <| unused fbA <| fin (.ret h)
  | 5 => guardD (fn5 == 0) .badFunction <| guardD (off == 0) .reservedField <| unused fbA <| fin (.exitThreads h)
  | 6 => guardD (fn5 == 0) .badFunction <| guardD (off == 0) .reservedField <| unused fbA <| fin (.yieldCore h)
  | 7 => da w fun d a =>
      match fFn w with
      | 0 => fin (.waittAbs h d a)
      | 1 => fin (.waittRel h d a)
      | _ => .error .badFunction
  | 8 => fs w <| guardD (fFn w == 0) .badFunction <| unused (fD w) <| opd (fA w) fun a => fin (.trap h a sel)
  | 9 => fs w <| guardD (fFn w == 0) .badFunction <| unused (fD w) <| unused (fA w) <| fin (.bkpt h sel)
  | 10 => name4 (fD w) fun k =>
      match fFn w with
      | 0 => unused (fA w) <| fin (.kset h k (.imm (fld w 7 20)))
      | 1 => guardD (fld w 7 20 == 0) .reservedField <| opd (fA w) fun a => fin (.kset h k (.reg a))
      | _ => .error .badFunction
  | 11 => guardD (fFn w == 0) .badFunction <| feK w true fun k => feQ w false fun _ =>
      unused (fA w) <| unused (fB w) <| opd (fD w) fun d => fin (.ksign h d k)
  | 12 => fs w <| guardD (fFn w == 0) .badFunction <| unused (fA w) <| opd (fD w) fun d => fin (.phadv h d sel)
  | 13 => fs w <| guardD (fFn w == 0) .badFunction <| guardD (decide (sel < 32)) .badFunction <|
      opd (fD w) fun d => opd (fA w) fun a => fin (.phwait h d a (sel % 4) (sel / 4))
  | 14 => ff w fun kind s e d =>
      match kind with
      | 0 => fin (.bar h d s e)
      | 1 => fin (.barNock h d s e)
      | _ => .error .badFunction
  | 15 => ff w fun kind s e d =>
      guardD (kind == 0 && decide (s = .task)) .badFunction <| fin (.commit h d e)
  | _ => .error .reservedOpcode

/-- Decode the integer words, opcodes 16 to 47. -/
def decodeInt (w : Nat) (lit : Option Nat) : Dec :=
  let h := hdrOf w
  match fOp w with
  | 16 => arith0 w fun t s => dab w fun d a b => fin (.iadd h t s d a b)
  | 17 => arith0 w fun t s => dab w fun d a b => fin (.isub h t s d a b)
  | 18 => arith0 w fun t s => dab w fun d a b => fin (.imul h t s d a b)
  | 19 => arith00 w fun t => dab w fun d a b => fin (.imulh h t d a b)
  | 20 => arith0 w fun t s => dabc w fun d a b c => fin (.imad h t s d a b c)
  | 21 => arith0 w fun t s => dab w fun d a b => fin (.idiv h t s d a b)
  | 22 => arith00 w fun t => dab w fun d a b => fin (.irem h t d a b)
  | 23 => arith00 w fun t => dab w fun d a b => fin (.imin h t d a b)
  | 24 => arith00 w fun t => dab w fun d a b => fin (.imax h t d a b)
  | 25 => arith0 w fun t s => da w fun d a => fin (.iabs h t s d a)
  | 26 => compar w fun cc t => name4 (fD w) fun p => name4 (fC w) fun q =>
      opd (fA w) fun a => opd (fB w) fun b => fin (.iset h cc t p a b q)
  | 27 => arith00 w fun t => name4 (fC w) fun q => opd (fD w) fun d => opd (fA w) fun a => opd (fB w) fun b =>
      fin (.sel h t d a b q)
  | 28 => arith00 w fun t => guardD (decide (t = .b32)) .badFunction <| dab w fun d a b => fin (.and h d a b)
  | 29 => arith00 w fun t => guardD (decide (t = .b32)) .badFunction <| dab w fun d a b => fin (.or h d a b)
  | 30 => arith00 w fun t => guardD (decide (t = .b32)) .badFunction <| dab w fun d a b => fin (.xor h d a b)
  | 31 => arith00 w fun t => dab w fun d a b => fin (.shl h t d a b)
  | 32 => arith00 w fun t => dab w fun d a b => fin (.shr h t d a b)
  | 33 => arith w fun t s v => guardD (!s && decide (v < 2)) .badFunction <| dab w fun d a b => fin (.rot h t (v == 1) d a b)
  | 34 => arith00 w fun t => guardD (decide (t = .b32) || decide (t = .n64)) .badFunction <|
      da w fun d a => fin (.clz h t.wide d a)
  | 35 => arith00 w fun t => guardD (decide (t = .b32) || decide (t = .n64)) .badFunction <|
      da w fun d a => fin (.popc h t.wide d a)
  | 36 => arith00 w fun t => guardD (decide (t = .b32) || decide (t = .n64)) .badFunction <|
      da w fun d a => fin (.brev h t.wide d a)
  | 37 => arith00 w fun t => guardD (decide (t = .i32) || decide (t = .n32)) .badFunction <| unused (fB w) <|
      opd (fD w) fun d => opd (fA w) fun a => opd (fC w) fun c => fin (.bfx h (decide (t = .i32)) d a c)
  | 38 => arith00 w fun t => guardD (decide (t = .b32)) .badFunction <| dabc w fun d a b c => fin (.bfi h d a b c)
  | 39 => guardD (decide (fFn w < 16)) .badFunction <| dab w fun d a b => fin (.lea h (fld w 3 1 == 1) (fld w 0 3) d a b)
  | 40 => guardD (decide (fFn w < 2)) .badFunction <| unused (fA w) <| opd (fD w) fun d =>
      fin (.movi h (fFn w == 1) d (fImm w))
  | 41 => guardD (decide (fFn w < 2)) .badFunction <| unused (fA w) <| guardD (fld w 7 20 == 0) .reservedField <|
      opd (fD w) fun d => withSome lit .movlLiteral fun l => fin (.movl h (fFn w == 1) d (BitVec.ofNat 64 l))
  | 42 => arith00 w fun t => da w fun d a => fin (.mov h t d a)
  | 43 => arith0 w fun t s => opd (fD w) fun d => opd (fA w) fun a => fin (.iaddi h t s d a (fImm w))
  | 44 => guardD (decide (fFn w < 16)) .badFunction <| unused (fC w) <| name4 (fD w) fun p => name4 (fA w) fun a =>
      name4 (fB w) fun b => fin (.plop h (fFn w) p a b)
  | 45 => unused (fB w) <| unused (fC w) <|
      match fFn w with
      | 0 => unused (fA w) <| opd (fD w) fun d => fin (.pmovPack h d)
      | 1 => unused (fD w) <| opd (fA w) fun a => fin (.pmovUnpack h a)
      | 2 => name4 (fD w) fun p => opd (fA w) fun a => fin (.pmovNz h p a)
      | 3 => opd (fD w) fun d => name4 (fA w) fun p => fin (.pmovVal h d p)
      | _ => .error .badFunction
  | 46 => compar w fun cc t => name4 (fD w) fun p => opd (fA w) fun a => fin (.iseti h cc t p a (fImm w))
  | 47 => guardD (decide (fFn w < 8)) .badFunction <| withSome (lop? (fld w 0 2)) .badFunction fun op =>
      opd (fD w) fun d => opd (fA w) fun a => fin (.logi h op (fld w 2 1 == 1) d a (fImm w))
  | _ => .error .reservedOpcode

/-- Decode the floating-point and cross-lane words, opcodes 48 to 79. -/
def decodeFloat (w : Nat) : Dec :=
  let h := hdrOf w
  match fOp w with
  | 48 => farith w fun rm s => dab w fun d a b => fin (.fadd h rm s d a b)
  | 49 => farith w fun rm s => dab w fun d a b => fin (.fsub h rm s d a b)
  | 50 => farith w fun rm s => dab w fun d a b => fin (.fmul h rm s d a b)
  | 51 => farith w fun rm s => dabc w fun d a b c => fin (.ffma h rm s d a b c)
  | 52 => farith w fun rm s => guardD (decide (rm = .rn) && !s) .badFunction <| dab w fun d a b => fin (.fmin h d a b)
  | 53 => farith w fun rm s => guardD (decide (rm = .rn) && !s) .badFunction <| dab w fun d a b => fin (.fmax h d a b)
  | 54 => compar w fun cc t => guardD (decide (t = .f32)) .badFunction <| name4 (fD w) fun p => name4 (fC w) fun q =>
      opd (fA w) fun a => opd (fB w) fun b => fin (.fset h cc p a b q)
  | 55 => farith w fun rm s => da w fun d a => fin (.frcp h rm s d a)
  | 56 => farith w fun rm s => guardD (decide (rm = .rn)) .badFunction <| da w fun d a => fin (.frsq h s d a)
  | 57 => farith w fun rm s => da w fun d a => fin (.fsqrt h rm s d a)
  | 58 => farith w fun rm s => guardD (decide (rm = .rn)) .badFunction <| da w fun d a => fin (.fex2 h s d a)
  | 59 => farith w fun rm s => guardD (decide (rm = .rn)) .badFunction <| da w fun d a => fin (.flg2 h s d a)
  | 60 => arith w fun t s v => guardD (decide (t = .f32) && decide (v < 2)) .badFunction <|
      da w fun d a => fin (.ftrig h (v == 1) s d a)
  | 61 => arith00 w fun t => da w fun d a => fin (.fcls h t d a)
  | 62 => arith w fun t s v => dab w fun d a b => fin (.hadd2 h t (rmOf v) s d a b)
  | 63 => arith w fun t s v => dab w fun d a b => fin (.hmul2 h t (rmOf v) s d a b)
  | 64 => arith w fun t s v => dabc w fun d a b c => fin (.hfma2 h t (rmOf v) s d a b c)
  | 65 => arith w fun t s v => guardD (decide (fC w < 16)) .badFunction <| withSome (ty? (fld w 7 4)) .badFunction fun u =>
      unused (fB w) <| opd (fD w) fun d => opd (fA w) fun a => fin (.cvt h t u (rmOf v) s d a)
  | 66 => farith w fun rm s => dab w fun d a b => fin (.fscal h rm s d a b)
  | 67 => arith w fun t s v => dabc w fun d a b c => fin (.dot4 h t (rmOf v) s d a b c)
  | 72 => guardD (decide (fFn w < 8)) .badFunction <| dab w fun d a b => fin (.shfl h (fld w 2 1 == 1) (shflOf (fld w 0 2)) d a b)
  | 73 => unused (fB w) <| unused (fC w) <|
      match fFn w with
      | 0 => name4 (fD w) fun p => name4 (fA w) fun q => fin (.vote h (.all p q))
      | 1 => name4 (fD w) fun p => name4 (fA w) fun q => fin (.vote h (.any p q))
      | 2 => opd (fD w) fun d => name4 (fA w) fun q => fin (.vote h (.ballot d q))
      | 3 => name4 (fD w) fun p => opd (fA w) fun a => fin (.vote h (.uni p a))
      | _ => .error .badFunction
  | 74 => guardD (decide (fFn w < 16)) .badFunction <| withSome (redOp? (fld w 0 4)) .badFunction fun op =>
      da w fun d a => fin (.crdx h op d a)
  | _ => .error .reservedOpcode

/-- Decode the memory, copy, skip-buffer and barrier words, opcodes 80 to 95. -/
def decodeMem (w : Nat) : Dec :=
  let h := hdrOf w
  let sel := fSel w
  match fOp w with
  | 80 => fm w fun sz o s ht d a off => fin (.ld h sz o s ht d a off)
  | 81 => fm w fun sz o s ht d a off => fin (.st h sz o s ht d a off)
  | 82 => fa w fun op w64 o s d a b => fin (.atom h op w64 o s d a b)
  | 83 => fa w fun op w64 o s d a b => guardD (decide (d = Opnd.nil)) .badRegister <| fin (.red h op w64 o s a b)
  | 84 => ff w fun kind s e d =>
      match kind with
      | 0 => fin (.fenceFull h d s e)
      | 1 => fin (.fenceAcq h d s e)
      | 2 => fin (.fenceRel h d s e)
      | _ => .error .badFunction
  | 85 => fm w fun sz o s ht d a off =>
      guardD (decide (d = Opnd.nil)) .badRegister <| guardD (decide (o = .rlx) && decide (s = .task)) .badFunction <|
      fin (.pref h sz ht a off)
  | 86 => fm w fun sz o s ht d a off =>
      guardD (decide (d = Opnd.nil)) .badRegister <|
      guardD (decide (o = .rlx) && decide (s = .task) && ht == 0) .badFunction <|
      match sz with
      | 0 => fin (.cctlInv h a off)
      | 1 => unused (fA w) <| guardD (decide (off = 0)) .reservedField <| fin (.cctlInvall h)
      | 2 => fin (.cctlWb h a off)
      | 3 => fin (.cctlWbinv h a off)
      | _ => .error .badFunction
  | 87 => copyForm w fun d a b q => fin (.copy h d a b q)
  | 88 => copyForm w fun d a b q => fin (.copyt h d a b q)
  | 89 => feK w false fun _ => feQo w fun q => guardD (fFn w == 0) .badFunction <|
      opd (fD w) fun d => opd (fA w) fun a => opd (fB w) fun b => fin (.gath h d a b q)
  | 90 => fs w <| guardD (fFn w == 0) .badFunction <| opd (fD w) fun d => guardD (decide (d = Opnd.nil)) .badRegister <|
      opd (fA w) fun a => fin (.binit h a sel)
  | 91 => fs w <| guardD (fFn w == 0) .badFunction <| opd (fD w) fun d => opd (fA w) fun a => fin (.barv h d a sel)
  | 92 => fs w <| guardD (fFn w == 0) .badFunction <| guardD (decide (sel < 2)) .badFunction <|
      opd (fD w) fun d => opd (fA w) fun a => fin (.bwait h d a (sel == 1))
  | 93 => fs w <| guardD (fFn w == 0) .badFunction <| opd (fD w) fun d => opd (fA w) fun a => fin (.bexp h d a sel)
  | 94 => feK w false fun _ => feQ w true fun q => guardD (fFn w == 0) .badFunction <|
      opd (fD w) fun d => opd (fA w) fun a => opd (fB w) fun b => fin (.skcfg h d a b q)
  | 95 => feK w false fun _ => feQ w true fun q => unused (fA w) <|
      match fFn w with
      | 0 => skop w q fun d b q => .skopRes h d b q
      | 1 => skop w q fun d b q => .skopPub h d b q
      | 2 => skop w q fun d b q => .skopTake h d b q
      | 3 => skop w q fun d b q => .skopPop h d b q
      | 4 => unused (fB w) <| opd (fD w) fun d => fin (.skopState h d q)
      | _ => .error .badFunction
  | _ => .error .reservedOpcode

/-- Decode the matrix, allotment and assay words, opcodes 96 to 111. -/
def decodeEngine (w : Nat) : Dec :=
  let h := hdrOf w
  let sel := fSel w
  let fn := fFn w
  match fOp w with
  | 96 => guardD (decide (fn < 8)) .badFunction <| unused (fB w) <| feK w true fun k => feQ w true fun q =>
      opd (fD w) fun d => opd (fA w) fun a => fin (.mload h (bfmtOf (fld w 1 2)) (fld w 0 1 == 1) d a k q)
  | 97 => guardD (fld w 0 1 == 0) .badFunction <| withSome (afmt? (fld w 2 3)) .badFunction fun fmt =>
      feK w true fun k => feQ w true fun q => opd (fD w) fun d => name6 (fA w) fun tile => opd (fB w) fun b =>
      fin (.mma h (fld w 6 1 == 1) (fld w 5 1 == 1) fmt (fld w 1 1 == 1) d tile b k q)
  | 98 => fs w <| guardD (fn == 0) .badFunction <| unused (fD w) <| name6 (fA w) fun tile => fin (.mzero h tile sel)
  | 99 => withSome (ofmt? (fld w 4 3)) .badFunction fun fmt => unused (fB w) <| feK w true fun k => feQ w true fun q =>
      opd (fD w) fun d => name6 (fA w) fun tile =>
      fin (.mdrain h fmt (rmOf (fld w 2 2)) (fld w 1 1 == 1) (fld w 0 1 == 1) d tile k q)
  | 100 => fs w <| guardD (fn == 0) .badFunction <| guardD (decide (sel < 8)) .badFunction <| unused (fA w) <|
      opd (fD w) fun d =>
      match sel / 2 with
      | 0 => fin (.mstatState h d (sel % 2 == 1))
      | 1 => fin (.mstatPasses h d (sel % 2 == 1))
      | 2 => fin (.mstatCanary h d (sel % 2 == 1))
      | _ => fin (.mstatChecks h d (sel % 2 == 1))
  | 101 => guardD (fn == 0) .badFunction <| unused (fA w) <| feK w true fun k => feQ w false fun _ =>
      opd (fD w) fun d => opd (fB w) fun b => fin (.grow h d b k)
  | 102 => guardD (fn == 0) .badFunction <| unused (fA w) <| feK w true fun k => feQ w false fun _ =>
      opd (fD w) fun d => opd (fB w) fun b => fin (.shrink h d b k)
  | 104 => guardD (decide (fn < 2)) .badFunction <| feK w false fun _ => feQo w fun q =>
      opd (fD w) fun d => opd (zeroFor q.isSome (fA w)) fun a => opd (fB w) fun b => fin (.alook h (fn == 1) d a b q)
  | 105 => guardD (decide (fn < 2)) .badFunction <| feK w false fun _ => feQ w false fun _ =>
      opd (fD w) fun d => opd (fA w) fun a => opd (fB w) fun b => fin (.aname h (fn == 1) d a b)
  | 106 => fs w <| guardD (fn == 0) .badFunction <| opd (fD w) fun d => opd (fA w) fun a =>
      fin (.aref h d a (BitVec.ofNat 16 sel))
  | 107 => fs w <| guardD (fn == 0) .badFunction <| opd (fD w) fun d => opd (fA w) fun a =>
      if sel < 8 then fin (.aldSec h d a sel) else guardD (sel == 8) .badFunction <| fin (.aldAddr h d a)
  | 108 => fs w <| guardD (decide (sel < 1024)) .badFunction <| opd (fD w) fun d => opd (fA w) fun a => opd sel fun r =>
      match fn with
      | 0 => fin (.aswapSwap h d a r)
      | 1 => fin (.aswapCas h d a r)
      | _ => .error .badFunction
  | 109 => guardD (fn == 0) .badFunction <| feK w false fun _ => feQo w fun q =>
      opd (fD w) fun d => opd (zeroFor q.isSome (fA w)) fun a => opd (fB w) fun b => fin (.aout h d a b q)
  | 110 => fs w <| guardD (fn == 0) .badFunction <| opd (fD w) fun d =>
      match sel with
      | 0 => opd (fA w) fun a => fin (.astatCount h d a)
      | 1 => unused (fA w) <| fin (.astatFree h d)
      | 2 => unused (fA w) <| fin (.astatUsed h d)
      | 3 => unused (fA w) <| fin (.astatCollide h d)
      | 4 => opd (fA w) fun a => fin (.astatRoot h d a)
      | 5 => unused (fA w) <| fin (.astatPend h d)
      | _ => .error .badFunction
  | _ => .error .reservedOpcode

/-- Decode the launch, system and firmware words, opcodes 112 to 126. -/
def decodeSystem (w : Nat) : Dec :=
  let h := hdrOf w
  let sel := fSel w
  let fn := fFn w
  match fOp w with
  | 112 => guardD (decide (fn < 2)) .badFunction <| feK w false fun _ => feQ w false fun _ => unused (fB w) <|
      opd (fD w) fun d => opd (fA w) fun a => fin (.launch h (fn == 1) d a)
  | 114 => fs w <| guardD (decide (fn < 2)) .badFunction <| unused (fA w) <| opd (fD w) fun d => fin (.sysrd h (fn == 1) d sel)
  | 115 => fs w <| guardD (decide (fn < 2)) .badFunction <| unused (fD w) <| opd (fA w) fun a => fin (.syswr h (fn == 1) a sel)
  | 116 => guardD (fld w 0 5 == 0) .badFunction <| guardD (fld w 5 32 == 0) .reservedField <| unused (fld w 37 10) <|
      fin (.tret h)
  | 117 => fs w <| guardD (decide (sel < 16)) .badFunction <|
      match fn with
      | 0 => unused (fA w) <| opd (fD w) fun d => fin (.tstateRd h d sel)
      | 1 => unused (fD w) <| opd (fA w) fun a => fin (.tstateWr h a sel)
      | _ => .error .badFunction
  | 118 => fs w <| opd (fD w) fun d =>
      match fn with
      | 0 => opd (fA w) fun a => fin (.vmembForm h d a sel)
      | 1 => opd (fA w) fun a => fin (.vmembJoin h d a sel)
      | 2 => opd (fA w) fun a => fin (.vmembLeave h d a sel)
      | 3 => opd (fA w) fun a => fin (.vmembEvict h d a sel)
      | 4 => unused (fA w) <| fin (.vmembQuery h d sel)
      | 5 => opd (fA w) fun a => fin (.vmembRot h d a sel)
      | _ => .error .badFunction
  | 119 => fs w <|
      match fn with
      | 0 => fwDA w fun d a => .claimMake h d a
      | 1 => fwDA w fun d a => .claimEnd h d a
      | _ => .error .badFunction
  | 120 => unused (fB w) <| feK w false fun _ => feQ w false fun _ => opd (fD w) fun d => opd (fA w) fun a =>
      match fn with
      | 0 => fin (.placeTask h d a)
      | 1 => fin (.placeRestore h d a)
      | _ => .error .badFunction
  | 121 => fs w <|
      match fn with
      | 0 => fwDA w fun d a => .freezeHold h d a
      | 1 => fwDA w fun d a => .freezeKill h d a
      | 2 => fwDA w fun d a => .freezeSave h d a
      | 3 => fwDA w fun d a => .freezeRelease h d a
      | _ => .error .badFunction
  | 122 => fs w <| guardD (fn == 0) .badFunction <| opd (fD w) fun d => opd (fA w) fun a => fin (.idle h d a sel)
  | 123 => fs w <| guardD (fn == 0) .badFunction <| fwDA w fun d a => .dlog h d a
  | _ => .error .reservedOpcode

/-- Decode one instruction word; lit is the word after it, where its block holds one (R114). -/
def decodeWord (w : Nat) (lit : Option Nat) : Dec :=
  let op := fOp w
  if op = 127 then .error .headerInBlock
  else if op < 16 then decodeControl w
  else if op < 48 then decodeInt w lit
  else if op < 80 then decodeFloat w
  else if op < 96 then decodeMem w
  else if op < 112 then decodeEngine w
  else decodeSystem w

/-- Decode an instruction from its words. -/
def decodeWords : List Nat → Dec
  | [] => .error .truncated
  | [w] => decodeWord w none
  | w :: l :: _ => decodeWord w (some l)

/-- Decode an instruction from bytes, the lowest address first (R12). -/
def decode (bs : List Byte) : Dec :=
  if bs.length < 8 then .error .truncated
  else if bs.length < 16 then decodeWord (leNat (bs.take 8)) none
  else decodeWord (leNat (bs.take 8)) (some (leNat ((bs.drop 8).take 8)))

/-- The instruction the decoder reads from bits w, bit 0 the least significant of the first word. -/
def decodeTableWord (_nbits w : Nat) : Option Instr :=
  match decode (leBytes 16 w) with
  | .ok i => some i
  | .error _ => none

/-- One if set. -/
def bit (b : Bool) : Nat := if b then 1 else 0

/-- A word from its opcode, common fields and body (R103). -/
def packWord (op : Nat) (h : Hdr) (body : Nat) : Nat :=
  op * 2 ^ 57 + bit h.b * 2 ^ 56 + h.la * 2 ^ 52 + h.g * 2 ^ 48 + bit h.gn * 2 ^ 47 + body

/-- An F3 body (R105). -/
def packF3 (d a b c fn : Nat) : Nat := d * 2 ^ 37 + a * 2 ^ 27 + b * 2 ^ 17 + c * 2 ^ 7 + fn
/-- An FI body (R106). -/
def packFI (d a imm fn : Nat) : Nat := d * 2 ^ 37 + a * 2 ^ 27 + imm * 2 ^ 7 + fn
/-- An FM body (R107). -/
def packFM (d a off sz ord scope hint : Nat) : Nat :=
  d * 2 ^ 37 + a * 2 ^ 27 + off * 2 ^ 11 + sz * 2 ^ 8 + ord * 2 ^ 5 + scope * 2 ^ 2 + hint
/-- An FA body (R109). -/
def packFA (d a b aop w ord scope : Nat) : Nat :=
  d * 2 ^ 37 + a * 2 ^ 27 + b * 2 ^ 17 + aop * 2 ^ 13 + w * 2 ^ 12 + ord * 2 ^ 9 + scope * 2 ^ 6
/-- An FF body (R110). -/
def packFF (d kind scope eng : Nat) : Nat := d * 2 ^ 37 + kind * 2 ^ 34 + scope * 2 ^ 31 + eng * 2 ^ 30
/-- An FE body (R111). -/
def packFE (d a b k q qe ke fn : Nat) : Nat :=
  d * 2 ^ 37 + a * 2 ^ 27 + b * 2 ^ 17 + k * 2 ^ 13 + q * 2 ^ 9 + qe * 2 ^ 8 + ke * 2 ^ 7 + fn
/-- An FB body (R112). -/
def packFB (a off fn : Nat) : Nat := a * 2 ^ 37 + off * 2 ^ 5 + fn
/-- An FS body (R113). -/
def packFS (d a sel fn : Nat) : Nat := d * 2 ^ 37 + a * 2 ^ 27 + sel * 2 ^ 11 + fn

/-- The arithmetic function field (R140). -/
def packAr (s : Bool) (v : Nat) (t : Ty) : Nat := bit s * 2 ^ 6 + v * 2 ^ 4 + t.code
/-- The comparison function field (R141). -/
def packCc (cc : Cc) (t : Ty) : Nat := cc.code * 2 ^ 4 + t.code

/-- Type of a .b32 or .n64 word by width (R166). -/
def wideTy (wide : Bool) : Ty := if wide then .n64 else .b32

/-- The Q and QE fields of an optional skip buffer, QE at bit 0 of the pair (q, qe). -/
def qCode : Option Nat → Nat × Nat
  | none => (0, 0)
  | some q => (q, 1)

/-- The Q, QE and FN fields of a copy. -/
def QSide.codes : QSide → Nat × Nat × Nat
  | .none => (0, 0, 0)
  | .to q => (q, 1, 0)
  | .from q => (q, 1, 1)

/-- The opcode and body of control and convergence words. -/
def encControl : Instr → Option (Nat × Nat)
  | .nop _ => some (0, 0)
  | .bra _ off => some (1, packFB 0 off.toNat 0)
  | .brx _ a => some (2, packFB a.code 0 0)
  | .brxRel _ a => some (2, packFB a.code 0 1)
  | .call _ off => some (3, packFB 0 off.toNat 0)
  | .callIndirect _ a => some (3, packFB a.code 0 1)
  | .ret _ => some (4, 0)
  | .exitThreads _ => some (5, 0)
  | .yieldCore _ => some (6, 0)
  | .waittAbs _ d a => some (7, packF3 d.code a.code 0 0 0)
  | .waittRel _ d a => some (7, packF3 d.code a.code 0 0 1)
  | .trap _ a code => some (8, packFS 0 a.code code 0)
  | .bkpt _ n => some (9, packFS 0 0 n 0)
  | .kset _ k (.imm n) => some (10, packFI k 0 n 0)
  | .kset _ k (.reg a) => some (10, packFI k a.code 0 1)
  | .ksign _ d k => some (11, packFE d.code 0 0 k 0 0 1 0)
  | .phadv _ d slot => some (12, packFS d.code 0 slot 0)
  | .phwait _ d a slot nbr => some (13, packFS d.code a.code (nbr * 4 + slot) 0)
  | .bar _ d s e => some (14, packFF d.code 0 s.code (bit e))
  | .barNock _ d s e => some (14, packFF d.code 1 s.code (bit e))
  | .commit _ d e => some (15, packFF d.code 0 0 (bit e))
  | _ => none

/-- The opcode and body of integer words. -/
def encInt : Instr → Option (Nat × Nat)
  | .iadd _ t s d a b => some (16, packF3 d.code a.code b.code 0 (packAr s 0 t))
  | .isub _ t s d a b => some (17, packF3 d.code a.code b.code 0 (packAr s 0 t))
  | .imul _ t s d a b => some (18, packF3 d.code a.code b.code 0 (packAr s 0 t))
  | .imulh _ t d a b => some (19, packF3 d.code a.code b.code 0 (packAr false 0 t))
  | .imad _ t s d a b c => some (20, packF3 d.code a.code b.code c.code (packAr s 0 t))
  | .idiv _ t s d a b => some (21, packF3 d.code a.code b.code 0 (packAr s 0 t))
  | .irem _ t d a b => some (22, packF3 d.code a.code b.code 0 (packAr false 0 t))
  | .imin _ t d a b => some (23, packF3 d.code a.code b.code 0 (packAr false 0 t))
  | .imax _ t d a b => some (24, packF3 d.code a.code b.code 0 (packAr false 0 t))
  | .iabs _ t s d a => some (25, packF3 d.code a.code 0 0 (packAr s 0 t))
  | .iset _ cc t p a b q => some (26, packF3 p a.code b.code q (packCc cc t))
  | .sel _ t d a b q => some (27, packF3 d.code a.code b.code q (packAr false 0 t))
  | .and _ d a b => some (28, packF3 d.code a.code b.code 0 (packAr false 0 .b32))
  | .or _ d a b => some (29, packF3 d.code a.code b.code 0 (packAr false 0 .b32))
  | .xor _ d a b => some (30, packF3 d.code a.code b.code 0 (packAr false 0 .b32))
  | .shl _ t d a b => some (31, packF3 d.code a.code b.code 0 (packAr false 0 t))
  | .shr _ t d a b => some (32, packF3 d.code a.code b.code 0 (packAr false 0 t))
  | .rot _ t r d a b => some (33, packF3 d.code a.code b.code 0 (packAr false (bit r) t))
  | .clz _ w d a => some (34, packF3 d.code a.code 0 0 (packAr false 0 (wideTy w)))
  | .popc _ w d a => some (35, packF3 d.code a.code 0 0 (packAr false 0 (wideTy w)))
  | .brev _ w d a => some (36, packF3 d.code a.code 0 0 (packAr false 0 (wideTy w)))
  | .bfx _ s d a c => some (37, packF3 d.code a.code 0 c.code (packAr false 0 (if s then .i32 else .n32)))
  | .bfi _ d a b c => some (38, packF3 d.code a.code b.code c.code (packAr false 0 .b32))
  | .lea _ sx sh d a b => some (39, packF3 d.code a.code b.code 0 (bit sx * 8 + sh))
  | .movi _ w d imm => some (40, packFI d.code 0 imm.toNat (bit w))
  | .movl _ s d _ => some (41, packFI d.code 0 0 (bit s))
  | .mov _ t d a => some (42, packF3 d.code a.code 0 0 (packAr false 0 t))
  | .iaddi _ t s d a imm => some (43, packFI d.code a.code imm.toNat (packAr s 0 t))
  | .plop _ tt p a b => some (44, packF3 p a b 0 tt)
  | .pmovPack _ d => some (45, packF3 d.code 0 0 0 0)
  | .pmovUnpack _ a => some (45, packF3 0 a.code 0 0 1)
  | .pmovNz _ p a => some (45, packF3 p a.code 0 0 2)
  | .pmovVal _ d p => some (45, packF3 d.code p 0 0 3)
  | .iseti _ cc t p a imm => some (46, packFI p a.code imm.toNat (packCc cc t))
  | .logi _ op hi d a imm => some (47, packFI d.code a.code imm.toNat (bit hi * 4 + op.code))
  | _ => none

/-- The opcode and body of floating-point and cross-lane words. -/
def encFloat : Instr → Option (Nat × Nat)
  | .fadd _ rm s d a b => some (48, packF3 d.code a.code b.code 0 (packAr s rm.code .f32))
  | .fsub _ rm s d a b => some (49, packF3 d.code a.code b.code 0 (packAr s rm.code .f32))
  | .fmul _ rm s d a b => some (50, packF3 d.code a.code b.code 0 (packAr s rm.code .f32))
  | .ffma _ rm s d a b c => some (51, packF3 d.code a.code b.code c.code (packAr s rm.code .f32))
  | .fmin _ d a b => some (52, packF3 d.code a.code b.code 0 (packAr false 0 .f32))
  | .fmax _ d a b => some (53, packF3 d.code a.code b.code 0 (packAr false 0 .f32))
  | .fset _ cc p a b q => some (54, packF3 p a.code b.code q (packCc cc .f32))
  | .frcp _ rm s d a => some (55, packF3 d.code a.code 0 0 (packAr s rm.code .f32))
  | .frsq _ s d a => some (56, packF3 d.code a.code 0 0 (packAr s 0 .f32))
  | .fsqrt _ rm s d a => some (57, packF3 d.code a.code 0 0 (packAr s rm.code .f32))
  | .fex2 _ s d a => some (58, packF3 d.code a.code 0 0 (packAr s 0 .f32))
  | .flg2 _ s d a => some (59, packF3 d.code a.code 0 0 (packAr s 0 .f32))
  | .ftrig _ c s d a => some (60, packF3 d.code a.code 0 0 (packAr s (bit c) .f32))
  | .fcls _ t d a => some (61, packF3 d.code a.code 0 0 (packAr false 0 t))
  | .hadd2 _ t rm s d a b => some (62, packF3 d.code a.code b.code 0 (packAr s rm.code t))
  | .hmul2 _ t rm s d a b => some (63, packF3 d.code a.code b.code 0 (packAr s rm.code t))
  | .hfma2 _ t rm s d a b c => some (64, packF3 d.code a.code b.code c.code (packAr s rm.code t))
  | .cvt _ t u rm s d a => some (65, packF3 d.code a.code 0 u.code (packAr s rm.code t))
  | .fscal _ rm s d a b => some (66, packF3 d.code a.code b.code 0 (packAr s rm.code .f32))
  | .dot4 _ t rm s d a b c => some (67, packF3 d.code a.code b.code c.code (packAr s rm.code t))
  | .shfl _ w m d a b => some (72, packF3 d.code a.code b.code 0 (bit w * 4 + m.code))
  | .vote _ (.all p q) => some (73, packF3 p q 0 0 0)
  | .vote _ (.any p q) => some (73, packF3 p q 0 0 1)
  | .vote _ (.ballot d q) => some (73, packF3 d.code q 0 0 2)
  | .vote _ (.uni p a) => some (73, packF3 p a.code 0 0 3)
  | .crdx _ op d a => some (74, packF3 d.code a.code 0 0 op.code)
  | _ => none

/-- The opcode and body of memory, copy, skip-buffer and barrier words. -/
def encMem : Instr → Option (Nat × Nat)
  | .ld _ sz o s ht d a off => some (80, packFM d.code a.code off.toNat sz o.code s.code ht)
  | .st _ sz o s ht d a off => some (81, packFM d.code a.code off.toNat sz o.code s.code ht)
  | .atom _ op w o s d a b => some (82, packFA d.code a.code b.code op.code (bit w) o.code s.code)
  | .red _ op w o s a b => some (83, packFA 1023 a.code b.code op.code (bit w) o.code s.code)
  | .fenceFull _ d s e => some (84, packFF d.code 0 s.code (bit e))
  | .fenceAcq _ d s e => some (84, packFF d.code 1 s.code (bit e))
  | .fenceRel _ d s e => some (84, packFF d.code 2 s.code (bit e))
  | .pref _ sz ht a off => some (85, packFM 1023 a.code off.toNat sz 0 0 ht)
  | .cctlInv _ a off => some (86, packFM 1023 a.code off.toNat 0 0 0 0)
  | .cctlInvall _ => some (86, packFM 1023 1008 0 1 0 0 0)
  | .cctlWb _ a off => some (86, packFM 1023 a.code off.toNat 2 0 0 0)
  | .cctlWbinv _ a off => some (86, packFM 1023 a.code off.toNat 3 0 0 0)
  | .copy _ d a b q => some (87, packFE d.code a.code b.code 0 q.codes.1 q.codes.2.1 0 q.codes.2.2)
  | .copyt _ d a b q => some (88, packFE d.code a.code b.code 0 q.codes.1 q.codes.2.1 0 q.codes.2.2)
  | .gath _ d a b q => some (89, packFE d.code a.code b.code 0 (qCode q).1 (qCode q).2 0 0)
  | .binit _ a n => some (90, packFS 1023 a.code n 0)
  | .barv _ d a n => some (91, packFS d.code a.code n 0)
  | .bwait _ d a p => some (92, packFS d.code a.code (bit p) 0)
  | .bexp _ d a n => some (93, packFS d.code a.code n 0)
  | .skcfg _ d a b q => some (94, packFE d.code a.code b.code 0 q 1 0 0)
  | .skopRes _ d b q => some (95, packFE d.code 1008 b.code 0 q 1 0 0)
  | .skopPub _ d b q => some (95, packFE d.code 1008 b.code 0 q 1 0 1)
  | .skopTake _ d b q => some (95, packFE d.code 1008 b.code 0 q 1 0 2)
  | .skopPop _ d b q => some (95, packFE d.code 1008 b.code 0 q 1 0 3)
  | .skopState _ d q => some (95, packFE d.code 1008 0 0 q 1 0 4)
  | _ => none

/-- The opcode and body of matrix, allotment and assay words. -/
def encEngine : Instr → Option (Nat × Nat)
  | .mload _ f mb d a k q => some (96, packFE d.code a.code 0 k q 1 1 (f.code * 2 + bit mb))
  | .mma _ tr im f mb d tile b k q =>
    some (97, packFE d.code tile b.code k q 1 1 (bit tr * 64 + bit im * 32 + f.code * 4 + bit mb * 2))
  | .mzero _ tile c => some (98, packFS 0 tile c 0)
  | .mdrain _ f rm sat za d tile k q =>
    some (99, packFE d.code tile 0 k q 1 1 (f.code * 16 + rm.code * 4 + bit sat * 2 + bit za))
  | .mstatState _ d mb => some (100, packFS d.code 0 (bit mb) 0)
  | .mstatPasses _ d mb => some (100, packFS d.code 0 (2 + bit mb) 0)
  | .mstatCanary _ d mb => some (100, packFS d.code 0 (4 + bit mb) 0)
  | .mstatChecks _ d mb => some (100, packFS d.code 0 (6 + bit mb) 0)
  | .grow _ d b k => some (101, packFE d.code 0 b.code k 0 0 1 0)
  | .shrink _ d b k => some (102, packFE d.code 0 b.code k 0 0 1 0)
  | .alook _ n d a b q => some (104, packFE d.code a.code b.code 0 (qCode q).1 (qCode q).2 0 (bit n))
  | .aname _ n d a b => some (105, packFE d.code a.code b.code 0 0 0 0 (bit n))
  | .aref _ d a delta => some (106, packFS d.code a.code delta.toNat 0)
  | .aldSec _ d a s => some (107, packFS d.code a.code s 0)
  | .aldAddr _ d a => some (107, packFS d.code a.code 8 0)
  | .aswapSwap _ d a r => some (108, packFS d.code a.code r.code 0)
  | .aswapCas _ d a r => some (108, packFS d.code a.code r.code 1)
  | .aout _ d a b q => some (109, packFE d.code a.code b.code 0 (qCode q).1 (qCode q).2 0 0)
  | .astatCount _ d a => some (110, packFS d.code a.code 0 0)
  | .astatFree _ d => some (110, packFS d.code 1008 1 0)
  | .astatUsed _ d => some (110, packFS d.code 1008 2 0)
  | .astatCollide _ d => some (110, packFS d.code 1008 3 0)
  | .astatRoot _ d a => some (110, packFS d.code a.code 4 0)
  | .astatPend _ d => some (110, packFS d.code 1008 5 0)
  | _ => none

/-- The opcode and body of launch, system and firmware words. -/
def encSystem : Instr → Option (Nat × Nat)
  | .launch _ w d a => some (112, packFE d.code a.code 0 0 0 0 0 (bit w))
  | .sysrd _ w d reg => some (114, packFS d.code 0 reg (bit w))
  | .syswr _ w a reg => some (115, packFS 0 a.code reg (bit w))
  | .tret _ => some (116, 0)
  | .tstateRd _ d item => some (117, packFS d.code 0 item 0)
  | .tstateWr _ a item => some (117, packFS 0 a.code item 1)
  | .vmembForm _ d a slot => some (118, packFS d.code a.code slot 0)
  | .vmembJoin _ d a slot => some (118, packFS d.code a.code slot 1)
  | .vmembLeave _ d a slot => some (118, packFS d.code a.code slot 2)
  | .vmembEvict _ d a slot => some (118, packFS d.code a.code slot 3)
  | .vmembQuery _ d slot => some (118, packFS d.code 0 slot 4)
  | .vmembRot _ d a slot => some (118, packFS d.code a.code slot 5)
  | .claimMake _ d a => some (119, packFS d.code a.code 0 0)
  | .claimEnd _ d a => some (119, packFS d.code a.code 0 1)
  | .placeTask _ d a => some (120, packFE d.code a.code 0 0 0 0 0 0)
  | .placeRestore _ d a => some (120, packFE d.code a.code 0 0 0 0 0 1)
  | .freezeHold _ d a => some (121, packFS d.code a.code 0 0)
  | .freezeKill _ d a => some (121, packFS d.code a.code 0 1)
  | .freezeSave _ d a => some (121, packFS d.code a.code 0 2)
  | .freezeRelease _ d a => some (121, packFS d.code a.code 0 3)
  | .idle _ d a mask => some (122, packFS d.code a.code mask 0)
  | .dlog _ d a => some (123, packFS d.code a.code 0 0)
  | _ => none

/-- The first alternative that answers. -/
def orElse' (a b : Option (Nat × Nat)) : Option (Nat × Nat) :=
  match a with
  | some x => some x
  | none => b

/-- The opcode and body of an instruction word; none for an event. -/
def Instr.opBody (i : Instr) : Option (Nat × Nat) :=
  orElse' (encControl i) <| orElse' (encInt i) <| orElse' (encFloat i) <| orElse' (encMem i) <|
    orElse' (encEngine i) (encSystem i)

/-- The literal word that follows, where the instruction has one (R114). -/
def Instr.literal : Instr → List Nat
  | .movl _ _ _ lit => [lit.toNat]
  | _ => []

/-- The words of an instruction, the first at the lowest address; none for an event. -/
def encode (i : Instr) : List Nat :=
  match i.hdr?, i.opBody with
  | some h, some (op, body) => packWord op h body :: i.literal
  | _, _ => []

end Sys2Proof
end

