-- ==== Sys2Proof/Machine/State.lean ====
section
/-! DEFINITION. The state of one LX8 chip (R2): its cores and their tasks and threads, its memory and versions, its
queues and agents, its vein sets and assay regions, its links, harts and platform, all as plain data. -/

namespace Sys2Proof
namespace Machine

/-- Why a step stops with a fault. -/
inductive Fault where
  /-- A translation named a physical address that no memory of the machine holds: HBM above 192 GiB of a chip (R4).
  Raised by an access whose page-table entry points there. Safe: the machine stops where the spec gives no effect. -/
  | noSuchMemory (key : Nat)
  /-- The chip is off (S3): only flash is kept (R471). Raised by step when nothing but a cold reset can happen.
  Safe: nothing runs in S3. -/
  | poweredOff
  deriving DecidableEq, Repr

/-- Why a step refuses. -/
inductive Refusal where
  /-- The instruction has no meaning in the model yet. Raised by an arm of exec. Safe: nothing is claimed of it. -/
  | notModelled (mnemonic : String)
  deriving DecidableEq, Repr

/-- The trap causes of R133. -/
inductive Cause where
  | illegal | regbound | lookahead | runlen | notheader | priv | align | claim | prot | assaywr | strongseg | swtrap
  | bkpt | ksign | stack | engine | uncorr | canary | synonym | matrixoff
  deriving DecidableEq, Repr

/-- One trap of one thread (R404, R405, R421). -/
structure TrapRec where
  cause : Cause
  detail : Nat
  pc : DWord
  tval : Word
  taddr : DWord
  deferred : Bool
  deriving DecidableEq, Repr

/-- Where an effective address lies (R231). -/
inductive Place where
  | scratch (off : Nat)
  | priv (off : Nat)
  | glob
  deriving DecidableEq, Repr

/-- One memory access as issued (R230, R403). -/
structure Acc where
  va : Nat
  n : Nat
  place : Place
  write : Bool
  read : Bool
  ord : Ord
  scope : Scope
  hint : Nat
  deriving DecidableEq, Repr

/-- What a thread's operation in flight still does. -/
inductive OpKind where
  /-- A class L compute result, waiting for its register write (R129). -/
  | result (ws : List (Nat × Word))
  /-- A load whose data returns into D (R238). -/
  | load (a : Acc) (d : Opnd)
  /-- A store not yet performed (R234). -/
  | store (a : Acc) (data : List Byte)
  /-- An atomic or reduction not yet performed; RED has no destination (R244). -/
  | atomic (a : Acc) (op : Aop) (w64 : Bool) (b c : DWord) (d : Option Opnd)
  /-- A prefetch not yet ended (R251). -/
  | pref (a : Acc) (sz : Nat)
  /-- A cache-control operation not yet performed (R254): 0 inv, 1 invall, 2 wb, 3 wbinv. -/
  | cctl (va : Nat) (fn : Nat)
  /-- An engine, copy, skip-buffer, assay, launch or firmware operation that writes D when it ends (R129). -/
  | engine (d : List Opnd)
  /-- A strong operation, performed in slot order (R315). -/
  | strong (a : Acc) (data : List Byte) (op : Option Aop) (w64 : Bool) (b c : DWord) (d : Option Opnd)
  deriving DecidableEq, Repr

/-- One operation of a thread that has issued and not ended. -/
structure Op where
  id : Nat
  pc : DWord
  /-- Instructions of the lookahead window still to issue (R127). -/
  win : Nat
  /-- The instruction has completed; the entry stays for what is still outstanding. -/
  closed : Bool
  /-- Vector registers written (numbers) and predicates written (1024 + number), R128. -/
  wr : List Nat
  /-- The registers are pending: any instruction that touches one stalls (R129). -/
  pend : Bool
  /-- What the completion waits for: 0 nothing, 1 the acknowledgement count, 2 remote and vein writes too (R204). -/
  sync : Nat
  ticket : Option Nat
  kind : OpKind
  deriving DecidableEq, Repr

/-- An open lookahead window: the instructions of it still to come, and the registers its instruction writes and reads,
status registers apart (R127, R128). It stands for its n instructions whether or not the instruction has completed. -/
structure Win where
  left : Nat
  wr : List Nat
  rd : List Nat
  deriving DecidableEq, Repr

/-- What a thread waits for (R40, R43). -/
inductive Wait where
  | none
  /-- At a barrier (R272): nock, scope, engine operations, status register. -/
  | bar (nock : Bool) (scope : Scope) (eng : Bool) (d : Opnd)
  /-- For its signature's phase, and for GROW and SHRINK their operation (R281). -/
  | sig (k : Nat) (d : Opnd)
  /-- For TIME (R154). -/
  | time (deadline : Nat) (d : Opnd)
  /-- To advance a phase (R332). -/
  | phadv (slot : Nat) (d : Opnd)
  /-- For a neighbour's phase (R333). -/
  | phwait (slot nbr : Nat) (v : Word) (d : Opnd)
  /-- On a barrier object's phase parity (R270). -/
  | bwait (off : Nat) (p : Bool) (d : Opnd)
  /-- For what a FENCE orders, a BAR's fence, or a COMMIT (R249, R274): kind 0 full, 1 acq, 2 rel, 3 commit; the
  engine operations issued before it; detail bit 23 of a BAR. -/
  | fence (kind : Nat) (scope : Scope) (eng : List Nat) (bit23 : Bool) (d : Opnd)
  /-- In IDLE (R426): the mask and the deadline. -/
  | idle (mask deadline : Nat) (d : Opnd)
  deriving DecidableEq, Repr

/-- The block a thread is in (R35, R37). -/
structure Blk where
  hdr : DWord
  len : Nat
  live : Nat
  /-- The thread stands at the block's header: it has not issued since it entered. -/
  fresh : Bool
  deriving DecidableEq, Repr

/-- A thread (R15, R96, R149, R328, R421). -/
structure Thread where
  pc : DWord
  blk : Option Blk
  regs : Map Word
  preds : BitVec 16
  csp : DWord
  rpt : DWord
  tpc : DWord
  /-- The block the trapping word stands in: where TRET resumes (R35, R419). -/
  tblk : Option Blk
  tcause : Word
  tval : Word
  taddr : DWord
  inh : Bool
  modf : Bool
  sstat : Word
  drop : Bool
  lostw : Bool
  /-- Invalidation acknowledgements still expected (R196). -/
  acks : Nat
  ended : Bool
  /-- Held at a reconvergence header since this cycle count (R46). -/
  held : Option Nat
  wait : Wait
  ops : List Op
  /-- The lookahead windows open in the thread's block (R127). -/
  wins : List Win
  /-- The trap of the current run, not yet delivered. -/
  trap : Option TrapRec
  /-- Deferred causes found after issue (R404). -/
  deferred : List TrapRec
  halted : Bool
  /-- A halt asked for, which takes place once the results in flight are written (R130, R156, R412). -/
  haltReq : Bool
  /-- Cycles in which it has been ready since it last issued, and the cycle at which it became overdue (R50). -/
  age : Nat
  overdue : Option Nat
  /-- The threads that must issue or stop being ready before this one is chosen, by key, each with what its own
  `issued` was at the demotion (R52). -/
  demoted : List (Nat × Nat)
  /-- When it last issued, in issue order (R41). -/
  issued : Nat
  /-- Blocks of lost fetch: a ticket on the instruction fetch (R400). -/
  fetchTicket : Option Nat
  deriving DecidableEq, Repr

/-- One signer of a convergence phase: its thread, its operation and its status register (R282). -/
structure Sig where
  thr : Nat
  op : Nat
  d : Opnd
  bearing : Bool
  deriving DecidableEq, Repr

/-- A convergence register (R279). -/
structure KReg where
  count : Nat
  phase : Nat
  sigs : List Sig
  opw : Nat
  opi : Option Instr
  opt : Nat
  optPc : DWord
  vals : List Word
  deriving DecidableEq, Repr

/-- A reservation or a take of a skip buffer (R265). -/
structure SkEntry where
  id : Nat
  n : Nat
  granted : Bool
  done : Nat
  skop : Bool
  deriving DecidableEq, Repr

/-- A skip buffer (R265): its fields, and its reservations and takes in order. -/
structure SkipBuf where
  base : Nat
  esz : Nat
  cnt : Nat
  rsv : Word
  pub : Word
  crs : Word
  con : Word
  resv : List SkEntry
  take : List SkEntry
  deriving DecidableEq, Repr

/-- A weight tile of a task for one macro (R275, R302). -/
structure BTile where
  fmt : BFmt
  src : Nat
  rstr : Nat
  cells : Map (BitVec 16)
  scales : Map Word
  checks : Nat
  deriving DecidableEq, Repr

/-- A matrix operation that has issued and not ended (R278, R282). -/
structure EngOp where
  id : Nat
  uid : Nat
  slot : Nat
  instr : Instr
  vals : List Word
  opt : Nat
  pc : DWord
  sigs : List Sig
  n : Nat
  deriving DecidableEq, Repr

/-- What the index of a gathered row gives (R260). -/
inductive GRow where
  | at_ (va : Nat)
  /-- The row is not read: it lies outside global memory or the claims. -/
  | unread
  /-- The index is poisoned: so is what the row's destination gets (R263; log entry 79). -/
  | poisoned
  deriving DecidableEq, Repr

/-- A copy, gather, assay read or line copy in its copy slot (R234, R260). -/
structure CopyOp where
  id : Nat
  uid : Nat
  slot : Nat
  thr : Nat
  pc : DWord
  d : Opnd
  /-- The moves: source byte address, destination byte address, length, in order. -/
  moves : List (Nat × Nat × Nat)
  /-- The virtual addresses a gather reads its indices and rows by: list, table, ROWB, NROW, SSTR, destination. -/
  gather : Option (Nat × Nat × Nat × Nat × Int × Nat)
  total : Nat
  bar : Option Nat
  qsrc : Option Nat
  qdst : Option Nat
  src : Option (Nat × Nat)
  dst : Option (Nat × Nat)
  globDst : Bool
  ro : Bool
  /-- What an AOUT copies: the line's bytes as it took them, whether it is a node, and its poisoned words (R263). -/
  aout : Option (List Byte × Bool × List Nat)
  /-- An ALOOK or ANAME: node kind, name register, changes counts. -/
  alook : Option (Bool × Nat × Bool)
  ticket : Option Nat
  /-- The scratchpad range of a gather's index list (R260). -/
  list : Option (Nat × Nat)
  /-- The cache hint for the global side (R256), and the free choice of the order in which the words move (R261; log entry
  33). -/
  hint : Nat
  order : Nat
  /-- What the indices of the gathered rows begun so far have given: each is read once (R257). -/
  rows : Map GRow
  /-- The parts moved so far, whether poisoned data was carried, and the first row outside the claims. -/
  moved : Nat
  dirt : Bool
  row : Option Nat
  /-- Pages whose service has failed, by the key of their translation (R263, R401). -/
  bad : List Nat
  /-- Everything is moved: the status it completes with once its peers have acknowledged its writes (R327). -/
  done : Option Word
  /-- The fetch of a staged or of a weight tile again: it ends without completion events (R216, R302). -/
  again : Bool
  /-- The macro whose weight tile is fetched again; the destinations are then bytes of the tile. -/
  tile : Option Bool
  deriving DecidableEq, Repr

/-- A read-only staged tile's record (R263). -/
structure RoRec where
  moves : List (Nat × Nat × Nat)
  gather : Option (Nat × Nat × Nat × Nat × Int × Nat)
  dst : Nat × Nat
  deriving DecidableEq, Repr

/-- The fixed state a checkpoint keeps of a thread (R273). -/
structure CkThread where
  pc : DWord
  blk : Option Blk
  csp : DWord
  preds : BitVec 16
  rpt : DWord
  regs : Map Word
  deriving DecidableEq, Repr

/-- A checkpoint (R273): fixed state and the shadowed blocks' old contents. -/
structure Ckpt where
  threads : Map CkThread
  ks : Map KReg
  qs : Map SkipBuf
  allot : Map Nat
  scratch : Map Byte
  spoison : Map Unit
  tiles : Map Word
  /-- Blocks written since: register blocks, scratchpad blocks and tile blocks, by number. -/
  dirty : List Nat
  rollbacks : Nat
  /-- No commit point has taken effect since (R410). -/
  clean : Bool
  deriving DecidableEq, Repr

/-- A launch header (R57 to R61). -/
structure LHdr where
  entc : Nat
  entp : Nat
  hdlr : Nat
  tl : Nat
  w : List Nat
  ext : List Nat
  allp : Nat
  allc : Nat
  crwp : Nat
  crwc : Nat
  ckpu : Nat
  acct : Nat
  scru : Nat
  regu : Nat
  privb : Nat
  handler : Bool
  rolesplit : Bool
  nomatrix : Bool
  progress : Bool
  tslice : Nat
  drain : Nat
  save : Nat
  prio : Nat
  nclm : Nat
  ndep : Nat
  csig : Nat
  dsig : List Nat
  clm : List Nat
  deriving DecidableEq, Repr

/-- A task on a core (R17, R33). -/
structure Task where
  uid : Nat
  lnum : Nat
  asid : Nat
  tidx : Nat
  hd : LHdr
  nthr : Nat
  prio : Nat
  allot : Map Nat
  regu : Nat
  /-- The task belongs to a vein set's ASID: it is restored only on a member (R416). -/
  vein : Bool
  ks : Map KReg
  qs : Map SkipBuf
  scratch : Map Byte
  spoison : Map Unit
  tiles : Map Word
  version : Map Byte
  /-- Peers that hold bytes of the version, with the writing thread (R328). -/
  vpeers : List (Nat × Nat)
  /-- 512-byte lines of the version, with each thread that has written in one: whom a commit's acknowledgements are
  counted on (R196). -/
  vlines : List (Nat × Nat)
  /-- The bytes of a commit that has begun at peers and not yet taken effect here: it takes effect though the task is
  stopped (R213, R214; log entry 95). -/
  owed : Map Byte
  ckpt : Option Ckpt
  mt0 : Option BTile
  mt1 : Option BTile
  loaded0 : Bool
  loaded1 : Bool
  drains : List EngOp
  ro : List RoRec
  drophint : Nat
  peers : List Nat
  /-- Every distinct peer entered, whether or not it has found room in the record (R250, R328). -/
  peersSeen : List Nat
  peerOvf : Bool
  peerCount : Nat
  /-- Nanoseconds of time slice left, and the TIME it is counted from. -/
  slice : Option Nat
  sliceFrom : Nat
  frozen : Option Nat
  /-- A level-2 save is under way until this TIME (R413). -/
  saving : Option Nat
  /-- Parked, for this launch, the child that the parent waits for (R389). -/
  parked : Option Nat
  /-- The task has ended with this outcome and waits for its copies and tickets (R19): 0 an ordinary end. -/
  ending : Option Nat
  curGroup : Option (DWord × List Nat)
  lastGroup : Nat
  deriving DecidableEq, Repr

/-- Debug states of R469. -/
inductive Dbg where
  | off | trace | halt
  deriving DecidableEq, Repr

/-- A run in progress (R42, R43). -/
structure Run where
  core : Nat
  slot : Nat
  members : List Nat
  pc : DWord
  len : Nat
  /-- The run is the one instruction of a convergent group (R181). -/
  conv : Bool
  /-- The debug state and contexts still in effect in the run, where they have changed during it (R469). -/
  dbg : Option (Dbg × List Nat) := none
  deriving DecidableEq, Repr

/-- A macro of a core (R275, R298). -/
structure Macro where
  fail : Bool
  passes : Nat
  canary : Word
  queue : List EngOp
  resident : Option Nat
  deriving DecidableEq, Repr

/-- A sector of a core's L1 (R192): its bytes, the sector it copies, and its page's grain; 0 where untracked. -/
structure L1Sec where
  bytes : List Byte
  key : Nat
  grain : Nat
  deriving DecidableEq, Repr

/-- A GROW waiting for its grant, or a SHRINK waiting for results in flight (R304). -/
structure AllotOp where
  uid : Nat
  slot : Nat
  crew : Nat
  v : Nat
  grow : Bool
  sigs : List Sig
  deriving DecidableEq, Repr

/-- A core (R49, R234, R275). -/
structure Core where
  l1 : Map L1Sec
  mac0 : Macro
  mac1 : Macro
  copies : Map CopyOp
  grants : List AllotOp
  tfair : Nat
  thold : Nat
  resetAt : Nat
  idleEvents : Nat
  prevTask : Option Nat
  /-- Contexts no new task of which is placed here, with the waiting launch, the drain deadline each. -/
  barred : List (Nat × Nat × Nat)
  deriving DecidableEq, Repr

/-- A task saved in a save area (R415). -/
structure Saved where
  task : Task
  threads : Map Thread
  /-- Operations issued to the macros and not fired, and waiting GROW and SHRINK operations, in issue order. -/
  macOps : List (Bool × EngOp)
  grants : List AllotOp
  deriving DecidableEq, Repr

/-- A queue entry (R369). -/
structure QEntry where
  rbase : Nat
  logsz : Nat
  prio : Nat
  en : Bool
  halt : Bool
  dev : Bool
  hcode : Nat
  asid : Nat
  nonce : Nat
  wpa : Nat
  wptr : Nat
  rptr : Nat
  rpa : Nat
  wakes : Nat
  badw : Nat
  nlau : Nat
  served : Nat
  deriving DecidableEq, Repr

/-- Where a claimed launch stands (R382): being checked, its claims being established, its dependences waited for, or
placeable. -/
inductive LState where
  | check | claims | deps | placeable
  deriving DecidableEq, Repr

/-- A launch record (R381 to R384, R398). -/
structure Launch where
  asid : Nat
  queue : Nat
  hd : LHdr
  st : LState
  prio : Nat
  counter : Nat
  count : Nat
  ended : Nat
  trapped : Nat
  /-- The parent thread waiting under LAUNCH .wait, its operation, and the parent's uid (R388). -/
  parent : Option (TRef × Nat × Nat)
  /-- TIME since which PREWT is counted, and TIME at which the dependences were met (R385, R389). -/
  since : Nat
  readyAt : Nat
  placed : Bool
  startSeq : Nat
  /-- The header as it was copied, and the code pages whose service has failed or whose owner forbids the fetch, by unit: the
  checks are made on them (R62, R394, R401). -/
  raw : List Byte
  badPages : List Nat
  /-- Rejected with this status, its signal still to be written (R383, R437). -/
  reject : Option Word
  deriving DecidableEq, Repr

/-- A LAUNCH .wait whose packet has not been claimed: queue, pointer, parent. -/
structure LWait where
  queue : Nat
  ptr : Nat
  parent : TRef
  op : Nat
  uid : Nat
  deriving DecidableEq, Repr

/-- A claim being established that waits for frames or for the host (R397): a launch's, or a CLAIM .make's with its
operation. -/
structure CWait where
  id : Nat
  lnum : Nat
  asid : Nat
  words : List Nat
  since : Nat
  op : Option (TRef × Nat)
  /-- The claim words whose host pages the host has granted. -/
  granted : List Nat
  deriving DecidableEq, Repr

/-- A fault ticket of this chip's table (R400). -/
structure Ticket where
  gen : Nat
  open_ : Bool
  /-- Its notice has come: the entry stands until the replay has been performed (R401). -/
  served : Bool
  /-- The access: the thread and operation, a copy (core, slot), or an instruction fetch (operation 0). -/
  ref : TRef
  op : Nat
  copy : Option (Nat × Nat)
  uid : Nat
  asid : Nat
  va : Nat
  /-- The context's page is requested from the host (R401). -/
  pri : Bool
  since : Nat
  /-- The fetch of an agent that checks this launch's header (R62). -/
  lnum : Option Nat
  deriving DecidableEq, Repr

/-- The ticket's notice has not come. -/
def Ticket.waiting (t : Ticket) : Bool := t.open_ && !t.served

/-- A fault ticket that this chip, a page's owner, has returned to a peer (R400, R401): the peer, the page, and the ticket's
identifier and generation. -/
structure PTicket where
  src : Nat
  asid : Nat
  va : Nat
  id : Nat
  gen : Nat
  pri : Bool
  since : Nat
  deriving DecidableEq, Repr

/-- A store of a unit of the device that waits for its granule (R437): its context, address and bytes, and the unit and
argument of the record of its loss, for a report (R408). -/
structure DevPost where
  asid : Nat
  va : Nat
  bytes : List Byte
  lost : Option Nat
  deriving DecidableEq, Repr

/-- What this chip knows of a peer (R325 to R327, R450, R454). -/
inductive PeerSt where
  | reachable | unreachable | lost | held
  deriving DecidableEq, Repr

structure Peer where
  st : PeerSt
  inc : Nat
  since : Nat
  oseqOut : Nat
  oseqIn : Nat
  /-- Ordered packets held behind a gap: their sequence numbers, and what each brings (R450). -/
  pend : List (Nat × FabMsg)
  deriving DecidableEq, Repr

/-- A remote write, or a commit's bytes, sent to a peer and not acknowledged (R204): the core it left, the threads that
wrote it, and the copy it belongs to. -/
structure RemoteWr where
  peer : Nat
  uid : Nat
  core : Nat
  thrs : List Nat
  copy : Option Nat
  /-- The bytes are poisoned (R263). -/
  poison : Bool
  cells : Map Byte
  deriving DecidableEq, Repr

/-- A commit that has begun at peers, of a task that has been stopped since: its core, its uid and the bytes that take
effect still (R213; log entry 95). -/
structure OwedCommit where
  core : Nat
  uid : Nat
  cells : Map Byte
  deriving DecidableEq, Repr

/-- An invalidation sent to an L1 and not acknowledged, with the threads whose counts expect it (R196). -/
structure Inv where
  core : Nat
  lo : Nat
  n : Nat
  writers : List TRef
  deriving DecidableEq, Repr

/-- A strong operation at its issuer (R315): its thread and operation, its slot once granted, whether it has been
performed, and the ranks whose acknowledgement is awaited. -/
structure StrongOp where
  ref : TRef
  op : Nat
  slot : Option Nat
  performed : Bool
  acks : List Nat
  requested : Bool
  deriving DecidableEq, Repr

/-- A vein set this chip is a member of, or is forming or joining (R307 to R324). -/
structure VeinSet where
  vsid : Nat
  asid : Nat
  segb : Nat
  segl : Nat
  rank : Nat
  /-- Members: rank, chip identifier, incarnation and the epoch the rank joined in. -/
  members : List (Nat × Nat × Nat × Nat)
  epoch : Nat
  banksman : Nat
  assigned : Nat
  bankSince : Nat
  nextSlot : Nat
  rots : Nat
  rott : Nat
  newRot : Option (Nat × Nat)
  appl : List Nat
  stamps : Map Nat
  wg : Bool
  sump : List VUpdate
  /-- The next slot to apply, and the highest slot number seen plus one. -/
  applSlot : Nat
  seenSlot : Nat
  voids : List Nat
  strongs : List StrongOp
  lagSince : Option Nat
  /-- A sweep is in progress: the ready notices received, rank and sequence. -/
  sweep : Option (List (Nat × Nat))
  cuts : List (Nat × Nat)
  /-- Ready notices that came before the marker of their sweep. -/
  early : List (Nat × Nat)
  /-- A sweep is due that waits (R324, R455), and the slot of the sweep marker this member is to send. -/
  sweepDue : Bool
  sweepSlot : Option Nat
  /-- The freeze of a departure: the ranks that depart (R319). -/
  frozen : List Nat
  /-- Slot requests that came to the banksman in a freeze, by rank. -/
  reqs : List Nat
  /-- The last handover marker seen: next slot number and successor (R324). -/
  marker : Option (Nat × Nat)
  /-- Updates applied here that a departure's exchange may have to forward (R319 step 2). -/
  past : List VUpdate
  /-- The leave that waits for the set's acknowledgements (R318). -/
  leaving : Option (TRef × Nat)
  /-- Joins that wait for the end of a sweep (R324). -/
  joinsDue : List VJoin
  /-- The set is not yet in use: forming since TIME, or joining; with the operation that completes. -/
  forming : Option (Nat × TRef × Nat)
  /-- The descriptor of this member's .form, RANK apart, and the ranks that have run .form with an equal one (R338). -/
  desc : List Byte
  formed : List Nat
  joining : Option (TRef × Nat)
  /-- The ranks whose join is in progress: a sweep waits for it (R324). -/
  joinsOpen : List Nat
  /-- The sponsor's stream has come, and the updates held at its end: rank and sequence (R321). -/
  streamed : Bool
  mustApply : List (Nat × Nat)
  /-- VMEMB .evict operations that wait for the departures they ask for. -/
  evicts : List (TRef × Nat × List Nat)
  deriving DecidableEq, Repr

/-- A line of an assay region (R344, R348): free where not listed. -/
structure ALine where
  name : Nat
  node : Bool
  count : Nat
  live : Bool
  /-- Children still to be decremented by reclaim (R350). -/
  kids : List Nat
  deriving DecidableEq, Repr

/-- The contents of an assay region (R340, R351). -/
structure Region where
  lines : Map ALine
  roots : Map Nat
  collide : Nat
  deriving DecidableEq, Repr

/-- An exception that a hart takes (R440, R442, R446). -/
inductive HartExc where
  | accessFault | virtualInstr | illegalInstr
  deriving DecidableEq, Repr

/-- A hart (R440, R446). -/
structure Hart where
  dasid : Nat
  /-- Frozen since this TIME (R446). -/
  frozen : Option Nat
  /-- Released: the violating access takes an access-fault exception next. -/
  fault : Bool
  /-- What its last access or CSR read gave it, and the exception that its last instruction has taken. -/
  result : Nat
  exc : Option HartExc
  /-- The reservation of an LR: its bytes, and the identifier counter when it was taken. -/
  resv : Option (Nat × Nat × Nat)
  /-- Translations its fills hold: by ASID and 4 KiB page of the virtual address, the 4 KiB physical page and whether it is
  tracked (R198, R441, R443). -/
  tlb : Map (Nat × Bool)
  deriving DecidableEq, Repr

/-- Bias of a granule offered to the host (R437). -/
inductive Bias where
  | host | todev | dev | tohost
  deriving DecidableEq, Repr

/-- A snoop filter entry (R435): the pair a host line is cached through, and whether a copy may be written. -/
structure SfEntry where
  asid : Nat
  va : Nat
  writable : Bool
  deriving DecidableEq, Repr

/-- A deputy-log record (R459). -/
structure DRec where
  time : Nat
  seqn : Nat
  kind : Nat
  inc : Nat
  unit_ : Nat
  asid : Nat
  arg0 : Nat
  arg1 : Nat
  deriving DecidableEq, Repr

/-- A trace record (R470). -/
structure TraceRec where
  time : Nat
  lnum : Nat
  thr : Nat
  core : Nat
  pc : Nat
  tidx : Nat
  sel : Nat
  deriving DecidableEq, Repr

/-- Messages the chip has sent to what lies outside it (other chips, the host, Vebry). -/
inductive OutMsg where
  | vein (p : VPacket)
  | slotReq (vsid rank : Nat)
  | grant (vsid rank s : Nat)
  | slotAck (vsid rank s : Nat)
  | ready (vsid rank seq : Nat)
  | sweepReq (vsid : Nat)
  | mark (slot peer : Nat) (m : Word)
  | remote (peer id : Nat)
  | remoteReply (peer : Nat) (data : List Byte)
  | ticket (peer id gen : Nat) (asid va : Nat)
  | pri (pasid page : Nat)
  | replay (peer id gen : Nat) (fail : Bool)
  /-- A time message, on every link but those named (R451, R453). -/
  | sync (time : Nat) (dark : List Nat)
  | drain (link : Nat)
  | drainAck (link : Nat)
  /-- A packet for another chip on its next hop (R448). -/
  | forward (hd : FabHdr)
  /-- An owner's answer that its walk forbids an access (R394), and a hart's store to another chip's wake port (R442). -/
  | denial (peer asid va : Nat)
  | wakeTo (chip : Nat) (whole : Bool) (cap : BitVec 256)
  /-- CXL.cache: a request for a line of a granule in HOST, to be written or not (R437), and the snoop of a granule (R438). -/
  | cxlCache (key : Nat) (own : Bool)
  | cxlSnoop (granule : Nat)
  | recall (pa : Nat)
  | snoopAnswer (pa : Nat) (data : Option (List Byte))
  | cxlData (data : List Byte)
  | attest (report : List Byte) (sig : BitVec 512)
  | lowPower (held : Bool)
  | form (vsid rank : Nat) (desc : List Byte)
  | joinAsk (vsid rank chip inc : Nat)
  | joinStream (chip : Nat) (j : VJoin)
  | leave (vsid rank : Nat)
  | joined (vsid rank : Nat)
  | freeze (vsid : Nat) (ranks : List Nat)
  | report (vsid : Nat) (r : VReport)
  | rot (vsid rots rott : Nat)
  | lag (vsid rank : Nat)
  deriving DecidableEq, Repr

/-- The system registers of chip scope with no home of their own (R428). -/
structure SysRegs where
  qtab : DWord
  qkey0 : DWord
  qkey1 : DWord
  ctxb : DWord
  plto : Nat
  alease : Nat
  prewt : Nat
  parkt : Nat
  rpwin : Nat
  savdef : Nat
  fhold : Nat
  clmwt : Nat
  trbase : DWord
  trctl : Word
  trwp : DWord
  trdrop : Nat
  acfg : Map DWord
  aroot : Map DWord
  asalt : Map DWord
  pdcfg : Map Word
  pdnbr : Map DWord
  deriving DecidableEq, Repr

/-- Phase state of a domain slot (R331). -/
structure PhaseSt where
  ph : Word
  phn : Map Word
  deriving DecidableEq, Repr

/-- Security states of R469. -/
inductive Sec where
  | sealed | openDebug | recovery
  deriving DecidableEq, Repr

/-- Power states of a chip (R471); S1 is per cluster. -/
inductive Power where
  | a0 | a1 | s2 | s3
  deriving DecidableEq, Repr

/-- The platform's state (R456 to R474). -/
structure Platform where
  sec : Sec
  power : Power
  dbg : Dbg
  dbgAsids : List Nat
  capForce : Bool
  thermForce : Bool
  wantA1 : Bool
  tj : Nat
  clOff : List Nat
  gated : List Nat
  /-- Of each cluster in S1, the cycle count when its clock stopped (R98, R471). -/
  gatedAt : Map Nat
  illegalAt : Map Nat
  cec : Nat
  arb : Nat
  khash : List Byte
  svn : Nat
  dig : List Byte
  meas : List Byte
  /-- The recovery mailbox (R467): CMD, STATUS, ARG, the data area, and BEGIN's total. -/
  cmd : Nat
  status : Nat
  arg : Nat
  data : Map Byte
  total : Nat
  /-- Indices of deputy-log records that read back uncorrectable (R460). -/
  logBad : Map Unit
  /-- The certificates of the device key and of the debug key (R468). -/
  cert : List Byte
  dbgCert : List Byte
  portDrops : Nat
  fabDrops : Nat
  /-- DLSEL, the chip that the host's log window shows (R462). -/
  dlsel : Nat
  deriving DecidableEq, Repr

/-- A chip's clock (R8, R451, R452). -/
structure Clock where
  time : Nat
  cycles : Nat
  /-- Twentieths of a cycle beyond the last whole one (R8). -/
  part : Nat
  tick : Nat
  locked : Bool
  streak : Nat
  /-- Nanoseconds by which TIME is still to be slowed, and by which it is still to gain (R451). -/
  slew : Nat
  gain : Nat
  stepped : Bool
  deriving DecidableEq, Repr

/-- A ring reconfiguration in progress (R453). -/
structure Reconf where
  links : List Nat
  unacked : List Nat
  darkSince : Option Nat
  /-- Peers with a route, whose fixed ordered route uses an affected link: their ordered packets wait. -/
  ordered : List Nat
  /-- Held peers that a link has been brought up to since. -/
  routed : List Nat
  deriving DecidableEq, Repr

/-- Links and peers (R325, R449, R450, R453). -/
structure Fabric where
  peers : Map Peer
  allow : Map Nat
  reconf : Option Reconf
  rcdark : Nat
  frozenPeers : List (Nat × Nat)
  /-- Of each message sent, in order, the headers of its first packets to the chips it goes to (R325, R449). -/
  sentTo : List (List FabHdr)
  /-- The grandmaster of the fabric's TIME, as Vebry has named it (R451). -/
  grand : Option Nat
  /-- Notices of .form received: set, rank, TIME and descriptor (R338). -/
  forms : List (Nat × Nat × Nat × List Byte)
  /-- Messages that have not left yet, as their target is held: their places in State.out, and the target (R453, R454). -/
  waits : List (Nat × Nat)
  /-- Peers in low-power hold (R472). -/
  asleep : List Nat
  /-- Drains that wait for departures in their freeze to end: links and peers (R455). -/
  drainDue : List (List Nat × DrainPeers)
  /-- Commits to be finished of tasks that have been stopped (R213). -/
  owed : List OwedCommit
  /-- Lines the atomic cache owns, by flat line key, with the TIME the lease ends (R327). -/
  acache : Map Nat
  deriving DecidableEq, Repr

/-- The host link (R429 to R438). -/
structure HostLink where
  /-- Root table address of each host PASID (log entry 16). -/
  roots : Map Nat
  frozen : List Nat
  filter : Map SfEntry
  /-- Host pages the host has invalidated under a lease. -/
  stale : List Nat
  bias : Map Bias
  /-- Host CXL.mem accesses that wait for a granule in TOHOST, in order (R437): address, data of a write, size. -/
  cxlWaits : List (Nat × Option (List Byte) × Nat)
  deriving DecidableEq, Repr

/-- The queues, launches and saves of the chip's agents. -/
structure Agents where
  cache : Map QEntry
  launches : Map Launch
  nextLnum : Nat
  lwaits : List LWait
  /-- Leases (R398): by launch number, the units pinned (ASID and 64 KiB page) with the leaf and level that map each. -/
  leases : Map (List (Nat × Nat × Nat))
  cwaits : List CWait
  /-- FREEZE .save operations under way (R425): thread, operation, the task's uid, the result word's key. -/
  saves : List (TRef × Nat × Nat × Nat)
  /-- Replay notices dropped for their generation (R401). -/
  staleNotices : Nat
  saved : Map Saved
  pool : List Nat
  /-- The owning context of a frame the backfill unit or Vebry recorded (R443). -/
  owner : Map Nat
  tickets : Map Ticket
  /-- Pages served by migration, pinned until this TIME (R401). -/
  pins : Map Nat
  /-- Tickets returned to peers and not yet served (R401). -/
  peerTicks : Map PTicket
  /-- Device stores and accepted wakes, by queue and with whether the queue was halted at the wake, that wait for a granule whose
  bias changes or for a peer (R326, R437). -/
  posts : List DevPost
  wakesDue : List (Nat × Bool)
  /-- When each queue that is not in the entry cache was last served (R381). -/
  served : Map Nat
  deriving DecidableEq, Repr

/-- One LX8 chip. -/
structure State where
  chip : BitVec 13
  inc : BitVec 16
  clk : Clock
  regs : SysRegs
  cores : Map Core
  tasks : Map Task
  threads : Map Thread
  runs : Map Run
  cur : Option Nat
  /-- The core that formed the last group: the model's own field, for the order in which step visits the cores. -/
  lastCore : Nat
  /-- The model's own field: step lets a timer that is due go before the next group. -/
  timersFirst : Bool
  mem : List Host.Cell
  poison : Map Unit
  hist : List (Nat × Nat × Byte)
  invs : Map Inv
  rws : Map RemoteWr
  agents : Agents
  veins : Map VeinSet
  regions : Map Region
  phases : Map PhaseSt
  /-- Translations the memory-side TLBs hold: by ASID and 64 KiB page, the physical page and whether it is tracked
  (R192, R198). -/
  tlb : Map (Nat × Bool)
  fab : Fabric
  host : HostLink
  harts : Map Hart
  plat : Platform
  dlog : Map DRec
  dseq : Nat
  trace : List TraceRec
  agenda : List Instr
  out : List OutMsg
  nextId : Nat
  free : Nat
  deriving DecidableEq, Repr

/-- A macro after the core's reset (R275, R298). -/
def Macro.reset : Macro := { fail := false, passes := 0, canary := 0, queue := [], resident := none }

/-- A core after reset: the defaults of R49. -/
def Core.reset : Core :=
  { l1 := [], mac0 := Macro.reset, mac1 := Macro.reset, copies := [], grants := [], tfair := 4096, thold := 1024,
    resetAt := 0, idleEvents := 0, prevTask := none, barred := [] }

/-- A hart after reset, its dasid cleared (R440, R446). -/
def Hart.reset : Hart := { dasid := 0, frozen := none, fault := false, result := 0, exc := none, resv := none, tlb := [] }

/-- The system registers after a cold reset: the resets and defaults of R326, R327, R341, R342, R367, R385, R389,
R428 and R470; zero where the spec states none (log entry 8). -/
def SysRegs.reset : SysRegs :=
  { qtab := 0, qkey0 := 0, qkey1 := 0, ctxb := 0, plto := 2000, alease := 4, prewt := 50, parkt := 100, rpwin := 200,
    savdef := 1000, fhold := 10000, clmwt := 1000, trbase := 0, trctl := 0, trwp := 0, trdrop := 0, acfg := [],
    aroot := [], asalt := [], pdcfg := [], pdnbr := [] }

/-- The platform after a cold reset into Sealed (R469, R471; log entry 9 for what the spec leaves open). -/
def Platform.reset : Platform :=
  { sec := .sealed, power := .a0, dbg := .off, dbgAsids := [], capForce := false, thermForce := false, wantA1 := false,
    tj := 0, clOff := [], gated := [], gatedAt := [], illegalAt := [], cec := 0, arb := 0, khash := [], svn := 0, dig := [],
    meas := [], cmd := 0, status := 0, arg := 0, data := [], total := 0, logBad := [], cert := [], dbgCert := [], portDrops := 0, fabDrops := 0, dlsel := 0 }

/-- The agents' state after a cold reset; launch numbers start at 1 (log entry 8). -/
def Agents.reset : Agents :=
  { cache := [], launches := [], nextLnum := 1, lwaits := [], leases := [], cwaits := [], saves := [], staleNotices := 0, saved := [], pool := [], owner := [], tickets := [],
    pins := [], peerTicks := [], posts := [], wakesDue := [], served := [] }

/-- The chip right after a cold reset: nothing listed in memory, no task, no queue, every register at the value the
spec states or the log names (log entries 8 and 9). -/
def State.reset : State :=
  { chip := 0, inc := 0,
    clk := { time := 0, cycles := 0, part := 0, tick := 0, locked := false, streak := 0, slew := 0, gain := 0, stepped := false },
    regs := SysRegs.reset, cores := [], tasks := [], threads := [], runs := [], cur := none, lastCore := 0, timersFirst := false, mem := [], poison := [],
    hist := [], invs := [], rws := [],
    agents := Agents.reset,
    veins := [], regions := [], phases := [], tlb := [],
    fab := { peers := [], allow := [], reconf := none, rcdark := 100, frozenPeers := [], sentTo := [], grand := none, forms := [], waits := [], asleep := [], drainDue := [], owed := [], acache := [] },
    host := { roots := [], frozen := [], filter := [], stale := [], bias := [], cxlWaits := [] },
    harts := [], plat := Platform.reset, dlog := [], dseq := 0, trace := [], agenda := [], out := [], nextId := 1,
    free := 0 }

end Machine
end Sys2Proof
end

