-- ==== Sys2Proof/Machine/Ops.lean ====
section
/-! DEFINITION. The named operations over the chip's state: looking up and changing cores, tasks, threads and
registers; memory, translation and claims; versions and commits; and taking an exception (R404 to R411). -/

namespace Sys2Proof
namespace Machine

/- ## Cores, tasks and threads -/

/-- The cores of a chip: 24 clusters of 8 (R4). -/
def coreCount : Nat := 192

/-- The key of a task slot. -/
def taskKey (core slot : Nat) : Nat := core * 32 + slot

/-- The key of a thread. -/
def thrKey (r : TRef) : Nat := taskKey r.core r.slot * 4096 + r.thr

/-- The thread references of a core table's key. -/
def refOf (key : Nat) : TRef := ⟨key / 4096 / 32, key / 4096 % 32, key % 4096⟩

/-- The core of a number; a core that is not listed is as after reset. -/
def State.core (s : State) (c : Nat) : Core := Assoc.getD s.cores Core.reset c

/-- Replace a core. -/
def State.setCore (s : State) (c : Nat) (x : Core) : State := { s with cores := Assoc.setD s.cores Core.reset c x }

/-- Change a core. -/
def State.updCore (s : State) (c : Nat) (f : Core → Core) : State := s.setCore c (f (s.core c))

/-- The task in a slot. -/
def State.task? (s : State) (core slot : Nat) : Option Task := Assoc.find? s.tasks (taskKey core slot)

/-- Replace a task. -/
def State.setTask (s : State) (core slot : Nat) (x : Task) : State :=
  { s with tasks := Assoc.put s.tasks (taskKey core slot) x }

/-- Change a task where the slot holds one. -/
def State.updTask (s : State) (core slot : Nat) (f : Task → Task) : State :=
  match s.task? core slot with
  | some k => s.setTask core slot (f k)
  | none => s

/-- A thread. -/
def State.thread? (s : State) (r : TRef) : Option Thread := Assoc.find? s.threads (thrKey r)

/-- Replace a thread. -/
def State.setThread (s : State) (r : TRef) (t : Thread) : State :=
  { s with threads := Assoc.put s.threads (thrKey r) t }

/-- Change a thread where there is one. -/
def State.updThread (s : State) (r : TRef) (f : Thread → Thread) : State :=
  match s.thread? r with
  | some t => s.setThread r (f t)
  | none => s

/-- The threads of a task slot, by thread index. -/
def State.threadsOf (s : State) (core slot : Nat) : List (Nat × Thread) :=
  (Assoc.range s.threads (taskKey core slot * 4096) (taskKey core slot * 4096 + 4096)).map fun e => (e.1 % 4096, e.2)

/-- The occupied slots of a core below the firmware crew slot. -/
def State.slotsOf (s : State) (core : Nat) : List Nat :=
  (Assoc.range s.tasks (core * 32) (core * 32 + 16)).map fun e => e.1 % 32

/-- The firmware crew slot's number (log entry 10). -/
def fwSlot : Nat := 16

/-- Take a fresh identifier. -/
def State.fresh (s : State) : Nat × State := (s.nextId, { s with nextId := s.nextId + 1 })

/-- The chips of the other members of a set. -/
def State.setChips (s : State) (vsid : Nat) : List Nat :=
  (s.veins.filter fun (e : Nat × VeinSet) => e.2.vsid == vsid).flatMap fun (e : Nat × VeinSet) =>
    (e.2.members.filter fun m => m.1 != e.2.rank).map fun m => m.2.1

/-- The chip of one rank of a set. -/
def State.rankChip (s : State) (vsid rank : Nat) : List Nat :=
  (s.veins.filter fun (e : Nat × VeinSet) => e.2.vsid == vsid).flatMap fun (e : Nat × VeinSet) =>
    (e.2.members.filter fun m => m.1 == rank).map fun m => m.2.1

/-- The chip of a set's banksman. -/
def State.bankChip (s : State) (vsid : Nat) : List Nat :=
  (s.veins.filter fun (e : Nat × VeinSet) => e.2.vsid == vsid).flatMap fun (e : Nat × VeinSet) => s.rankChip vsid e.2.banksman

/-- The peers to which a message goes in the ordered class: remote and commit writes, phase marks, vein updates (R327,
R448), and a leave, which so comes behind its member's updates (log entry 98). -/
def State.orderedTo (s : State) : OutMsg → List Nat
  | .remote p _ | .mark _ p _ => [p]
  | .vein u => s.setChips u.vsid
  | .leave v _ => s.setChips v
  | _ => []

/-- The chips a message goes to. -/
def State.sendsTo (s : State) : OutMsg → List Nat
  | .remote p _ | .mark _ p _ | .remoteReply p _ | .ticket p .. | .replay p .. | .joinStream p _ | .denial p .. | .wakeTo p .. => [p]
  | .vein u => s.setChips u.vsid
  | .ready v .. | .form v .. | .leave v _ | .joined v _ | .freeze v _ | .report v _ | .rot v .. | .lag v _ => s.setChips v
  | .slotReq v _ | .sweepReq v | .joinAsk v .. => s.bankChip v
  | .grant v r _ | .slotAck v r _ => s.rankChip v r
  | _ => []

/-- A message's class (R448): 0 ordered, 1 adaptive, 2 control. -/
def classOf : OutMsg → Nat
  | .remote .. | .mark .. | .vein _ | .leave .. => 0
  | .remoteReply .. | .ticket .. | .replay .. | .denial .. | .wakeTo .. => 1
  | _ => 2

/-- KIND of the packets of a message: the model's own numbers (log entry 99). -/
def kindOf : OutMsg → Nat
  | .remote .. => 0
  | .mark .. => 1
  | .vein _ => 2
  | .leave .. => 3
  | .remoteReply .. => 4
  | .ticket .. => 5
  | .replay .. => 6
  | .denial .. => 7
  | .wakeTo .. => 8
  | .sync .. => 9
  | .drain _ => 10
  | .drainAck _ => 11
  | .lowPower _ => 12
  | _ => 13

/-- The kinds that are defined: those, and 14, a remote load or atomic. -/
def kindCount : Nat := 15

/-- Bytes of a message's payload, as far as the model holds them. -/
def State.payload (s : State) : OutMsg → Nat
  | .remote _ id => ((Assoc.find? s.rws id).map fun w => w.cells.length).getD 0
  | .remoteReply _ bs | .form _ _ bs => bs.length
  | .vein p => 140 + 32 * p.sectors.length
  | .wakeTo .. => 32
  | _ => 0

/-- Flits of a message's first packet (R449). -/
def State.flits (s : State) (m : OutMsg) : Nat := min 32 ((32 + s.payload m + 63) / 64)

/-- ASID and ADDR of a message that names them. -/
def State.asidOf (s : State) : OutMsg → Nat
  | .ticket _ _ _ asid _ | .denial _ asid _ => asid
  | .vein p => ((s.veins.find? fun (e : Nat × VeinSet) => e.2.vsid == p.vsid).map fun (e : Nat × VeinSet) => e.2.asid).getD 0
  | .remote _ id => ((Assoc.find? s.rws id).bind fun w => (s.tasks.find? fun e => e.2.uid == w.uid).map fun e => e.2.asid).getD 0
  | _ => 0
def addrOf : OutMsg → Nat
  | .ticket _ _ _ _ va | .denial _ _ va => va
  | _ => 0

/-- A position of R448's pattern: its number, the type of its link, and its virtual channel. -/
structure Hop where
  pos : Nat
  via : LinkType
  vc : Nat
  deriving DecidableEq, Repr

/-- The table of R448. -/
def hopTable : List Hop :=
  [⟨1, .die, 0⟩, ⟨2, .local_, 0⟩, ⟨3, .die, 1⟩, ⟨4, .global, 0⟩, ⟨5, .die, 2⟩, ⟨6, .local_, 1⟩, ⟨7, .die, 3⟩, ⟨8, .global, 1⟩,
   ⟨9, .die, 4⟩, ⟨10, .local_, 2⟩, ⟨11, .die, 5⟩]

/-- The hops that may follow a position at a chip on the way to a target (R448): of each link type its next position, no
die-to-die hop after another, the first seven positions alone in the ordered class, and no local or global hop where the
target is in the chip's package or group. from_: the hop by which the packet has come; none at its source. -/
def hopsTo (chip tgt cls : Nat) (from_ : Option Hop) : List Hop :=
  let pos := (from_.map Hop.pos).getD 0
  [LinkType.die, .local_, .global].filterMap fun l =>
    if (l = .die ∧ from_.any fun h => decide (h.via = .die)) ∨ (l ≠ .die ∧ chip / 4 = tgt / 4) ∨ (l = .global ∧ chip / 128 = tgt / 128) then none
    else hopTable.find? fun h => decide (pos < h.pos) && decide (h.via = l) && (cls != 0 || decide (h.pos ≤ 7))

/-- The hop that a packet takes: where R448 leaves a choice, the ordered class's is fixed for the pair and the adaptive one's is
free (log entry 99). -/
def pickHop (chip src tgt cls n : Nat) (from_ : Option Hop) : Option Hop :=
  let hs := hopsTo chip tgt cls from_
  hs[Config.hopChoice (if cls = 0 then src * 8192 + tgt else 2 ^ 26 + n) % hs.length]?

/-- The header of a message's first packet to a chip, on its first hop: it carries the target's incarnation as this chip knows
it (R325), and in the ordered class the pair's next sequence number (R449, R450). -/
def State.header (s : State) (m : OutMsg) (c : Nat) : FabHdr :=
  let p := Assoc.find? s.fab.peers c
  let hop := pickHop s.chip.toNat s.chip.toNat c (classOf m) s.nextId none
  { tinc := (p.map Peer.inc).getD 0, tgt := c, src := s.chip.toNat, asid := s.asidOf m, cls := classOf m,
    vc := if classOf m = 2 then 0 else (hop.map Hop.vc).getD 0, kind := kindOf m, nflit := s.flits m - 1,
    oseq := if (s.orderedTo m).contains c then (p.map Peer.oseqOut).getD 0 else 0, addr := addrOf m, rest := Config.kindFields s.nextId,
    via := (hop.map Hop.via).getD .die }

/-- A packet of a class to a chip waits at its sender: the chip is held, or a reconfiguration holds its ordered route (R453,
R454). -/
def State.sendHeld (s : State) (cls c : Nat) : Bool :=
  ((Assoc.find? s.fab.peers c).any fun p => decide (p.st = .held)) || (cls == 0 && s.fab.reconf.any fun r => r.ordered.contains c)

/-- Send a message, with the header of its first packet to each chip it goes to; in the ordered class it takes the next
sequence number of its pair (R449, R450). For a held target it waits here (R453, R454). -/
def State.send (s : State) (m : OutMsg) : State :=
  let dsts := s.orderedTo m
  let next := fun (e : Nat × Peer) =>
    if dsts.contains e.1 then (e.1, { e.2 with oseqOut := (e.2.oseqOut + 1) % 2 ^ 16 }) else e
  let held := (s.sendsTo m).filter fun c => s.sendHeld (classOf m) c
  { s with out := s.out ++ [m], fab := { s.fab with
      peers := s.fab.peers.map next, sentTo := s.fab.sentTo ++ [(s.sendsTo m).map (s.header m)]
      waits := s.fab.waits ++ held.map fun c => (s.out.length, c) } }

/-- A task and a thread of it, with the state both stand in: what an instruction's operands are read in. -/
structure Ctx where
  s : State
  r : TRef
  k : Task
  t : Thread

/- ## Registers -/

/-- A vector register of a thread (R96). -/
def Thread.reg (t : Thread) (n : Nat) : Word := Assoc.getD t.regs 0 n

/-- A predicate of a thread; p0 reads true (R96). -/
def Thread.pred (t : Thread) (p : Nat) : Bool := p == 0 || t.preds.getLsbD p

/-- Write a vector register (n below 1024) or predicate n − 1024; a write to p0 is discarded (R96). -/
def Thread.put (t : Thread) (n : Nat) (v : Word) : Thread :=
  if n < 1024 then { t with regs := Assoc.setD t.regs 0 n v }
  else if n = 1024 then t
  else { t with preds := if v = 0 then t.preds &&& ~~~(BitVec.ofNat 16 (2 ^ (n - 1024)))
                         else t.preds ||| BitVec.ofNat 16 (2 ^ (n - 1024)) }

/-- Write registers in order. -/
def Thread.puts (t : Thread) : List (Nat × Word) → Thread
  | [] => t
  | (n, v) :: ws => Thread.puts (t.put n v) ws

/-- The work identifier of thread i of task j under a launch header: fields from index (R26). -/
def widFields (h : LHdr) (i j : Nat) : List Nat :=
  let go := fun (es : List Nat) (x : Nat) => (es.foldl (fun (acc : List Nat × Nat) e => (acc.1 ++ [acc.2 % e], acc.2 / e)) ([], x)).1
  go (h.ext.take h.tl) i ++ go (h.ext.drop h.tl) j

/-- The 64-bit work identifier: each field above the one before it (R23, R26). -/
def workId (h : LHdr) (i j : Nat) : Nat :=
  ((widFields h i j).zip h.w).foldl (fun (acc : Nat × Nat) e => (acc.1 + e.1 * 2 ^ acc.2, acc.2 + e.2)) (0, 0) |>.1

/-- The vein set slot bound to an ASID and in use on this chip (R307). -/
def State.veinOf (s : State) (asid : Nat) : Option (Nat × VeinSet) :=
  s.veins.find? fun e => e.2.asid == asid && e.2.forming.isNone && e.2.joining.isNone

/-- The value of special operand 1008 + k, whole (R98). -/
def Ctx.special (x : Ctx) (k : Nat) : Nat :=
  match k with
  | 1 => x.r.thr % 64
  | 2 => x.r.thr
  | 3 => x.r.thr / 64
  | 4 => workId x.k.hd x.r.thr x.k.tidx
  | 5 => workId x.k.hd x.r.thr x.k.tidx / 2 ^ 32 % 2 ^ 32
  | 6 => match x.s.veinOf x.k.asid with
         | some (_, v) => v.rank
         | none => 0xFFFFFFFF
  | 7 => x.s.clk.cycles - (x.s.core x.r.core).resetAt
  | 14 => x.k.nthr
  | _ => if 8 ≤ k ∧ k ≤ 13 then (widFields x.k.hd x.r.thr x.k.tidx).getD (k - 8) 0 else 0

/-- The 32-bit value an operand reads (R97, R98). -/
def Ctx.w (x : Ctx) : Opnd → Word
  | .v n => x.t.reg n
  | .sp k => BitVec.ofNat 32 (x.special k)

/-- The 64-bit value an operand reads: the pair, or the special operand's 64-bit value (R63, R98). -/
def Ctx.d (x : Ctx) : Opnd → DWord
  | .v n => x.t.reg (n + 1) ++ x.t.reg n
  | .sp k => BitVec.ofNat 64 (x.special k)

/-- A register of a group that begins at an operand. -/
def Ctx.gi (x : Ctx) (o : Opnd) (i : Nat) : Word :=
  match o with
  | .v n => x.t.reg (n + i)
  | .sp _ => 0

/-- A pair within a group or descriptor. -/
def Ctx.gp (x : Ctx) (o : Opnd) (i : Nat) : DWord := x.gi o (i + 1) ++ x.gi o i

/-- The write of a 32-bit result; nil discards it (R99). -/
def putW (o : Opnd) (v : Word) : List (Nat × Word) :=
  match o with
  | .v n => [(n, v)]
  | .sp _ => []

/-- The write of a 64-bit result to a pair (R63). -/
def putD (o : Opnd) (v : DWord) : List (Nat × Word) :=
  match o with
  | .v n => [(n, v.extractLsb' 0 32), (n + 1, v.extractLsb' 32 32)]
  | .sp _ => []

/-- The write of words to a group. -/
def putG (o : Opnd) (vs : List Word) : List (Nat × Word) :=
  match o with
  | .v n => vs.zipIdx.map fun e => (n + e.2, e.1)
  | .sp _ => []

/-- The write of a predicate. -/
def putP (p : Nat) (b : Bool) : List (Nat × Word) := [(1024 + p, if b then 1 else 0)]

/-- A status word: DONE, CODE and DETAIL (R131). -/
def status (code detail : Nat) : Word := BitVec.ofNat 32 (2 ^ 31 + code % 128 * 2 ^ 24 + detail % 2 ^ 24)

/-- A status whose DETAIL the spec does not state: a free value by opcode and code (log entry 21). -/
def openStatus (op code : Nat) : Word := status code (Config.openDetail op code)

/-- The status codes of R132. -/
def Code.ok : Nat := 0
def Code.peerlost : Nat := 1
def Code.unreach : Nat := 2
def Code.qfull : Nat := 3
def Code.toobig : Nat := 4
def Code.absent : Nat := 5
def Code.collide : Nat := 6
def Code.slotvoid : Nat := 7
def Code.baddesc : Nat := 8
def Code.claim : Nat := 9
def Code.refsat : Nat := 10
def Code.refunder : Nat := 11
def Code.staleinc : Nat := 12
def Code.lag : Nat := 13

/-- Words of bytes, four at a time, little-endian. -/
def wordsOf : Nat → List Byte → List Word
  | 0, _ => []
  | n + 1, bs => BitVec.ofNat 32 (leNat (bs.take 4)) :: wordsOf n (bs.drop 4)

/-- Bytes of words. -/
def bytesOf (ws : List Word) : List Byte := ws.flatMap fun w => leBytes 4 w.toNat

/- ## Checkpoint blocks (R273) -/

/-- The units a checkpoint's fixed state takes: F of R273. -/
def ckptFixed (nthr : Nat) : Nat := (64 * nthr + 4096 + 4095) / 4096

/-- The block of a register of a crew, of a scratchpad byte, and of a kibibyte of a tile. -/
def regBlock (thr n : Nat) : Nat := thr / 64 * 160 + n / 4
def scratchBlock (off : Nat) : Nat := 2 ^ 20 + off / 1024
def tileBlock (tile part : Nat) : Nat := 2 ^ 24 + tile * 16 + part

/-- Blocks are written: each clean one takes a shadow block, and a write that finds none free abandons the checkpoint. -/
def Task.markDirty (k : Task) (blocks : List Nat) : Task :=
  match k.ckpt with
  | none => k
  | some c =>
    let d := c.dirty ++ (blocks.dedup.filter fun b => !c.dirty.contains b)
    { k with ckpt := if d.length ≤ 4 * (k.hd.ckpu - ckptFixed k.nthr) then some { c with dirty := d } else none }

/-- The blocks in which a thread's registers lie. -/
def regBlocks (thr : Nat) (ws : List (Nat × Word)) : List Nat := (ws.filter fun e => decide (e.1 < 1024)).map fun e => regBlock thr e.1

/-- The same of the task in a slot. -/
def State.markDirty (s : State) (core slot : Nat) (blocks : List Nat) : State := s.updTask core slot fun k => k.markDirty blocks

/- ## Memory -/

/-- The base of the scratchpad window (R190). -/
def scratchBase : Nat := 0x01FFF00000000000
/-- The base of the private window (R190). -/
def privBase : Nat := 0x01FFE00000000000
/-- One past the last address of the virtual space (R187). -/
def vaTop : Nat := 2 ^ 57

/-- Flat key of an HBM byte: the owning chip and the 51-bit address (R393). -/
def hbmKey (chip a : Nat) : Nat := chip * 2 ^ 51 + a
/-- Flat key of a byte of host memory. -/
def hostKey (pa : Nat) : Nat := 2 ^ 64 + pa
/-- Flat key of a byte of this chip's replica in a vein set slot. -/
def veinKey (slot off : Nat) : Nat := 2 ^ 65 + slot * 2 ^ 57 + off
/-- Flat key of a byte of an assay region. -/
def assayKey (n off : Nat) : Nat := 2 ^ 66 + n * 2 ^ 36 + off
/-- Flat key of a byte of a thread's private backing (R34). -/
def privKey (uid thr off : Nat) : Nat := 2 ^ 70 + (uid * 2048 + thr) * 2 ^ 20 + off
/-- Flat key of a byte of a firmware slot in flash (R463) and of the recovery staging (R466). -/
def flashKey (slot off : Nat) : Nat := 2 ^ 110 + slot * 2 ^ 32 + off
def stageKey (off : Nat) : Nat := 2 ^ 111 + off

/-- HBM of one chip: four stacks of 48 GiB (R2, R4). -/
def hbmBytes : Nat := 4 * 48 * 2 ^ 30

/-- Read bytes of physical memory. -/
def State.peek (s : State) (key n : Nat) : List Byte := Memory.readN s.mem key n

/-- Write bytes of physical memory, keeping the values they replace (R210) and clearing poison of whole words. -/
def State.poke (s : State) (key : Nat) (bs : List Byte) : State :=
  { s with
    mem := Memory.writeN s.mem key bs
    hist := (bs.zipIdx.map fun e => (key + e.2, s.nextId, Memory.read s.mem (key + e.2))) ++ s.hist
    nextId := s.nextId + 1
    poison := s.poison.filter fun e => !(decide (key ≤ e.1 * 8) && decide (e.1 * 8 + 8 ≤ key + bs.length)) }

/-- Write a little-endian number of n bytes. -/
def State.pokeN (s : State) (key n v : Nat) : State := s.poke key (leBytes n v)

/-- Read a little-endian number of n bytes. -/
def State.peekN (s : State) (key n : Nat) : Nat := leNat (s.peek key n)

/-- Whether any word of a byte range is poisoned (R456). -/
def State.poisoned (s : State) (key n : Nat) : Bool :=
  s.poison.any fun e => decide (e.1 * 8 < key + n) && decide (key < e.1 * 8 + 8)

/-- Poison the words of a byte range. -/
def State.addPoison (s : State) (key n : Nat) : State :=
  { s with
    poison := (List.range (n / 8 + 2)).foldl
      (fun m i => if (key / 8 + i) * 8 < key + n then Assoc.put m (key / 8 + i) () else m) s.poison }

/-- The next free value's counter. -/
def State.useFree (s : State) : Nat × State := (s.free, { s with free := s.free + 1 })

/- ## Homes, L1 copies and peers (R192 to R196, R204, R326) -/

/-- Whose memory a flat key names. -/
inductive Home where
  | own
  | peer (c : Nat)
  | host
  | vein (slot off : Nat)
  | assay
  | priv
  deriving DecidableEq, Repr

/-- The home of a flat key. -/
def State.homeOf (s : State) (key : Nat) : Home :=
  if key < 2 ^ 64 then (if key / 2 ^ 51 = s.chip.toNat then .own else .peer (key / 2 ^ 51))
  else if key < 2 ^ 65 then .host
  else if key < 2 ^ 66 then .vein ((key - 2 ^ 65) / 2 ^ 57) ((key - 2 ^ 65) % 2 ^ 57)
  else if key < 2 ^ 70 then .assay
  else .priv

/-- A sector holds some byte of a range. -/
def L1Sec.touches (x : L1Sec) (lo n : Nat) : Bool := decide (x.key < lo + n) && decide (lo < x.key + 32)

/-- A tracked sector lies in a grain that a write of the range owns (R196). -/
def L1Sec.hitBy (x : L1Sec) (lo n : Nat) : Bool :=
  decide (0 < x.grain) && decide (lo / x.grain ≤ x.key / x.grain) && decide (x.key / x.grain ≤ (lo + n - 1) / x.grain)

/-- A sector with the bytes of a write put into it. -/
def L1Sec.patch (x : L1Sec) (lo : Nat) (bs : List Byte) : L1Sec :=
  { x with bytes := x.bytes.zipIdx.map fun e =>
      let a := x.key + e.2
      if lo ≤ a ∧ a < lo + bs.length then bs.getD (a - lo) 0 else e.1 }

/-- The storing core's own L1 copies are updated (R193). -/
def State.l1Patch (s : State) (core lo : Nat) (bs : List Byte) : State :=
  s.updCore core fun c => { c with l1 := c.l1.map fun e => if e.2.touches lo bs.length then (e.1, e.2.patch lo bs) else e }

/-- A core's tracked copies of the grains a range touches are dropped. -/
def Core.l1Drop (c : Core) (lo n : Nat) : Core := { c with l1 := c.l1.filter fun e => !e.2.hitBy lo n }

/-- A local access at the owner takes a line back from the atomic cache (R245, R327). -/
def State.acacheTake (s : State) (key : Nat) : State := { s with fab := { s.fab with acache := Assoc.del s.fab.acache (key / 512) } }

/-- A write by a master outside the cores' threads: performed at its home, tracked L1 copies dropped. -/
def State.pokeCoh (s : State) (key : Nat) (bs : List Byte) : State :=
  let s1 := s.poke key bs
  { s1 with cores := s1.cores.map fun e => (e.1, e.2.l1Drop key bs.length) }

/-- What this chip holds of a peer; one it has never heard of has had no working route since the chip's TIME began (R326). -/
def State.peerSt (s : State) (c : Nat) : PeerSt :=
  match Assoc.find? s.fab.peers c with
  | some p => p.st
  | none => if 1000 * s.regs.plto ≤ s.clk.time then .lost else .unreachable

/-- A peer that accepts writes: reachable, or held by a reconfiguration (R454). -/
def State.peerOpen (s : State) (c : Nat) : Bool := decide (s.peerSt c = .reachable) || decide (s.peerSt c = .held)

/-- Send bytes to a peer: outstanding until its acknowledgement (R204). -/
def State.sendRemote (s : State) (w : RemoteWr) : State :=
  let (id, s1) := s.fresh
  ({ s1 with rws := Assoc.put s1.rws id w }).send (.remote w.peer id)

/-- The newest byte that writers of a kind have sent to a peer's memory and that is not yet performed there. -/
def State.sentByte (s : State) (mine : RemoteWr → Bool) (key : Nat) : Option Byte :=
  s.rws.foldl (fun b e => if mine e.2 then (match Assoc.find? e.2.cells key with | some x => some x | none => b) else b) none

/- ## Translation (R392 to R396, R432 to R434) -/

/-- The kind of an access: read, write, fetch. -/
inductive Kind where
  | r | w | x
  deriving DecidableEq, Repr

/-- What a translation decides. -/
inductive Xl where
  /-- A byte of this chip's or another's memory, with its class and grain (0: untracked). -/
  | ok (key cls grain : Nat)
  /-- The chip's wake port (R395). -/
  | wake (off : Nat)
  /-- An assay page of a slot with EN = 0: loads return zero (R343). -/
  | zero
  /-- A protection violation. -/
  | prot
  /-- An absent page (R394): whether it is an anonymous level-0 entry, and the entry's key. -/
  | absent (anon : Bool) (pte : Nat)
  /-- The granule's bias is changing: the access waits (R437). -/
  | busy
  /-- No memory stands there. -/
  | hole (key : Nat)
  deriving DecidableEq, Repr

/-- The key of a context table entry (R390; log entry 11). -/
def State.ctxKey (s : State) (asid : Nat) : Nat := hbmKey s.chip.toNat (s.regs.ctxb.toNat + 64 * asid)

/-- A context exists (R391). -/
def State.ctxEn (s : State) (asid : Nat) : Bool := s.peekN (s.ctxKey asid) 8 % 2 == 1

/-- A context's PTROOT, PASID word, HFMT, VQMB, FRLOG and FRBASE (R391). -/
def State.ptroot (s : State) (asid : Nat) : Nat := s.peekN (s.ctxKey asid) 8
def State.pasidWord (s : State) (asid : Nat) : Nat := s.peekN (s.ctxKey asid + 8) 4
def State.hfmt (s : State) (asid : Nat) : Nat := s.peekN (s.ctxKey asid + 0xC) 1
def State.vqmb (s : State) (asid : Nat) : Nat := s.peekN (s.ctxKey asid + 0xD) 1
def State.frlog (s : State) (asid : Nat) : Nat := s.peekN (s.ctxKey asid + 0xE) 1
def State.frbase (s : State) (asid : Nat) : Nat := s.peekN (s.ctxKey asid + 0x10) 8
def State.frwp (s : State) (asid : Nat) : Nat := s.peekN (s.ctxKey asid + 0x18) 8

/-- The outcome of a radix walk: a leaf with its level, an absent entry, or a malformed one (R394). -/
inductive Walk where
  | leaf (pte lvl : Nat)
  | absent (anon : Bool) (key : Nat)
  | bad
  deriving DecidableEq, Repr

/-- The index of a virtual address at a level (R392). -/
def vaIndex (va : Nat) : Nat → Nat
  | 0 => va / 2 ^ 16 % 32
  | l + 1 => va / 2 ^ (21 + 9 * l) % 512

/-- Walk the device page tables from a level down (R392, R394). -/
def State.walk (s : State) (chip va : Nat) : Nat → Nat → Walk
  | 0, tbl =>
    let key := hbmKey chip (tbl + 8 * vaIndex va 0)
    let e := s.peekN key 8
    if e % 2 = 0 then .absent (fld e 10 1 == 1) key else if fld e 1 1 = 0 then .bad else .leaf e 0
  | l + 1, tbl =>
    let key := hbmKey chip (tbl + 8 * vaIndex va (l + 1))
    let e := s.peekN key 8
    if e % 2 = 0 then .absent false key
    else if fld e 1 1 = 1 then (if l + 1 ≤ 2 then .leaf e (l + 1) else .bad)
    else if fld e 51 13 ≠ 0 then .bad
    else s.walk chip va l (fld e 12 39 * 2 ^ 12)

/-- log2 of a page's size by level (R392). -/
def pageBits : Nat → Nat
  | 0 => 16 | 1 => 21 | _ => 30

/-- What a host walk decides: physical address, absent or forbidden. -/
inductive HWalk where
  | ok (pa : Nat)
  | absent
  | bad
  deriving DecidableEq, Repr

/-- The generic host format from a level down (R433, R434): level 0 is the lowest. -/
def State.hwalkG (s : State) (va : Nat) (k : Kind) : Nat → Nat → HWalk
  | 0, tbl =>
    let e := s.peekN (hostKey (tbl + 8 * (va / 2 ^ 12 % 512))) 8
    hostLeaf e 12
  | l + 1, tbl =>
    let e := s.peekN (hostKey (tbl + 8 * (va / 2 ^ (12 + 9 * (l + 1)) % 512))) 8
    if e % 2 = 0 then .absent
    else if fld e 7 1 = 1 then (if l + 1 ≤ 2 then hostLeaf e (12 + 9 * (l + 1)) else .bad)
    else if fld e 2 1 = 0 || (decide (k = .w) && fld e 1 1 == 0) || (decide (k = .x) && fld e 63 1 == 1) then .bad
    else s.hwalkG va k l (fld e 12 40 * 2 ^ 12)
where
  /-- A leaf of the generic format: absent on P, A or D, forbidden on U, W or XD (R434). -/
  hostLeaf (e bits : Nat) : HWalk :=
    if e % 2 = 0 || fld e 5 1 == 0 then .absent
    else if fld e 2 1 == 0 || (decide (k = .w) && fld e 1 1 == 0) || (decide (k = .x) && fld e 63 1 == 1) then .bad
    else if decide (k = .w) && fld e 6 1 == 0 then .absent
    else .ok (fld e 12 40 * 2 ^ 12 / 2 ^ bits * 2 ^ bits + va % 2 ^ bits)

/-- The Sv48 and Sv57 formats from a level down (R432, R434; the entry's layout is RISC-V's, log entry 12). -/
def State.hwalkS (s : State) (va : Nat) (k : Kind) : Nat → Nat → HWalk
  | 0, tbl =>
    let e := s.peekN (hostKey (tbl + 8 * (va / 2 ^ 12 % 512))) 8
    if e % 2 = 0 then .absent
    else if fld e 1 3 = 0 then .bad
    else svLeaf e 0
  | l + 1, tbl =>
    let e := s.peekN (hostKey (tbl + 8 * (va / 2 ^ (12 + 9 * (l + 1)) % 512))) 8
    if e % 2 = 0 then .absent
    else if fld e 1 3 = 0 then
      (if fld e 4 1 + fld e 6 2 + fld e 54 10 = 0 then s.hwalkS va k l (fld e 10 44 * 2 ^ 12) else .bad)
    else svLeaf e (l + 1)
where
  /-- A leaf of the Sv formats. -/
  svLeaf (e l : Nat) : HWalk :=
    if fld e 1 1 = 0 && fld e 2 1 == 1 then .bad
    else if fld e 54 10 ≠ 0 || fld e 10 (9 * l) ≠ 0 then .bad
    else if fld e 4 1 = 0 || (decide (k = .r) && fld e 1 1 == 0) || (decide (k = .w) && fld e 2 1 == 0) ||
        (decide (k = .x) && fld e 3 1 == 0) then .bad
    else if fld e 6 1 = 0 || (decide (k = .w) && fld e 7 1 == 0) then .absent
    else .ok (fld e 10 44 * 2 ^ 12 + va % 2 ^ (12 + 9 * l))

/-- Translate a host-class access (R394, R432, R434). -/
def State.xlHost (s : State) (asid va : Nat) (k : Kind) (grain : Nat) : Xl :=
  let p := s.pasidWord asid
  let root := Assoc.getD s.host.roots 0 (p % 2 ^ 20)
  if fld p 31 1 = 0 then .prot
  else
    let f := s.hfmt asid
    let w :=
      if f = 1 then (if va / 2 ^ 48 = 0 then s.hwalkS va k 3 root else .bad)
      else if f = 2 then s.hwalkS va k 4 root
      else if f = 3 then (if va / 2 ^ 48 = 0 then s.hwalkG va k 3 root else .bad)
      else if f = 4 then s.hwalkG va k 4 root
      else .bad
    match w with
    | .ok pa => if s.host.stale.contains (pa / 4096) then .absent false 0 else .ok (hostKey pa) 1 grain
    | .absent => .absent false 0
    | .bad => .prot

/-- The region slot bound to an ASID whose range holds an address, enabled or not (R340, R341). -/
def acfgEn (c : DWord) : Bool := c.getLsbD 63
def acfgBase (c : DWord) : Nat := fld c.toNat 30 27 * 2 ^ 30
def acfgBytes (c : DWord) : Nat := (fld c.toNat 57 6 + 1) * 2 ^ 30
def acfgAsid (c : DWord) : Nat := fld c.toNat 0 16

/-- ACFGn. -/
def State.acfg (s : State) (n : Nat) : DWord := Assoc.getD s.regs.acfg 0 n

/-- The region slot of this chip whose range for the ASID holds the address: an enabled one, else one that still names the
range (R343). -/
def State.regionAt (s : State) (asid va : Nat) : Option Nat :=
  let holds := fun (n : Nat) =>
    let c := s.acfg n
    acfgAsid c == asid && decide (c ≠ 0) && decide (acfgBase c ≤ va) && decide (va < acfgBase c + acfgBytes c)
  ([0, 1, 2, 3].find? fun n => holds n && acfgEn (s.acfg n)).or ([0, 1, 2, 3].find? holds)

/-- The grain in bytes of a page's coherence; 0 where untracked (R189). -/
def pteGrain (e : Nat) : Nat :=
  if fld e 9 1 = 0 then 0 else if fld e 7 2 = 0 then 32 else if fld e 7 2 = 1 then 128 else 512

/-- The key of a 64 KiB unit of a context. -/
def tlbKey (asid va : Nat) : Nat := asid * 2 ^ 41 + va / 2 ^ 16

/-- The key of a translation that a TLB holds: host pages are 4 KiB and keyed above the others (R432). -/
def xlKey (asid va cls : Nat) : Nat := if cls = 1 then 2 ^ 57 + asid * 2 ^ 45 + va / 2 ^ 12 else tlbKey asid va

/-- The context of a held translation, and the 64 KiB page of it that it lies in. -/
def xlAsid (key : Nat) : Nat := if key < 2 ^ 57 then key / 2 ^ 41 else (key - 2 ^ 57) / 2 ^ 45
def xlPage (key : Nat) : Nat := if key < 2 ^ 57 then key % 2 ^ 41 else (key - 2 ^ 57) % 2 ^ 45 / 16

/-- The physical page that the alias detector compares translations by: 64 KiB of device memory, 4 KiB of the host's (R198). -/
def frameOf (key : Nat) : Nat := if key < 2 ^ 64 then key / 2 ^ 16 else key / 2 ^ 12

/-- The key of a translation of a hart: ASID and 4 KiB page of the virtual address (R439, R441). -/
def hartKey (asid va : Nat) : Nat := asid * 2 ^ 45 + va % 2 ^ 57 / 2 ^ 12

/-- The 4 KiB physical page that a held translation gives an address in it. -/
def heldPage (e : Nat × Nat × Bool) (va : Nat) : Nat := if e.1 < 2 ^ 57 then e.2.1 * 16 + va / 2 ^ 12 % 16 else e.2.1

/-- The leaf and level a lease pins for an address (R396, R398). -/
def State.pinned (s : State) (asid va : Nat) : Option (Nat × Nat) :=
  s.agents.leases.findSome? fun l => (l.2.find? fun e => e.1 == tlbKey asid va).map fun e => e.2

/-- The walk of a context's address: the device keeps a translation it has pinned (R392, R396). -/
def State.walkOf (s : State) (asid va : Nat) : Walk :=
  match s.pinned asid va with
  | some (e, lvl) => .leaf e lvl
  | none =>
    let rt := s.ptroot asid
    s.walk (fld rt 51 13) va 4 (fld rt 12 39 * 2 ^ 12)

/-- Translate one address of a context for a kind of access (R394, R395, R437, R443). -/
def State.translate (s : State) (asid va : Nat) (k : Kind) : Xl :=
  let rt := s.ptroot asid
  if rt % 2 = 0 then .prot
  else
    match s.walkOf asid va with
    | .bad => .prot
    | .absent anon key => .absent anon key
    | .leaf e lvl =>
      let cls := fld e 5 2
      let own := fld e 51 13
      if (decide (cls ≤ 1) && fld e 9 1 == 1 && fld e 7 2 == 3) || (decide (cls ≠ 0) && decide (own ≠ 0)) then .prot
      else if (decide (k = .r) && fld e 2 1 == 0) || (decide (k = .w) && fld e 3 1 == 0) ||
          (decide (k = .x) && fld e 4 1 == 0) then .prot
      else
        match cls with
        | 0 =>
          if fld e 11 1 = 1 then .wake (va % 2 ^ 16)
          else
            let b := pageBits lvl
            let a := fld e 12 39 * 2 ^ 12 / 2 ^ b * 2 ^ b + va % 2 ^ b
            let key := hbmKey own a
            if hbmBytes ≤ a then .hole key
            else if (Assoc.find? s.agents.owner (key / 2 ^ 16)).any (fun o => o != asid) then .prot
            else
              match Assoc.find? s.host.bias (key / 2 ^ 16) with
              | some .todev | some .tohost => .busy
              | _ => .ok key 0 (pteGrain e)
        | 1 => s.xlHost asid va k (pteGrain e)
        | 2 =>
          match s.veinOf asid with
          | some (n, v) => if v.segb ≤ va ∧ va < v.segb + v.segl then .ok (veinKey n (va - v.segb)) 2 32 else .prot
          | none => .prot
        | _ =>
          match s.regionAt asid va with
          | some n => if acfgEn (s.acfg n) then .ok (assayKey n (va - acfgBase (s.acfg n))) 3 0 else .zero
          | none => .prot

/-- The pages that instructions are fetched from: context and address of the header of each block that a thread is in. -/
def State.fetchPages (s : State) : List (Nat × Nat) :=
  (s.threads.filterMap fun e => e.2.blk.bind fun b =>
    (Assoc.find? s.tasks (e.1 / 4096)).map fun k => (k.asid, b.hdr.toNat / 4096 * 4096)).dedup

/-- Another translation that the TLBs hold maps the physical page with the other tracking (R198), or a hart's fill in the ASID
has given the address another page (R443); the fetch of a block that a thread is in holds its page's (log entry 81). -/
def State.aliased (s : State) (asid va cls key : Nat) (trk : Bool) : Bool :=
  (s.tlb.any fun e => e.1 != xlKey asid va cls && e.2.1 == frameOf key && e.2.2 != trk) ||
  (s.harts.any fun e => e.2.tlb.any fun x =>
    (frameOf (x.2.1 * 2 ^ 12) == frameOf key && x.2.2 != trk) || (x.1 == hartKey asid va && x.2.1 != key / 2 ^ 12)) ||
  s.fetchPages.any fun p => tlbKey p.1 p.2 != tlbKey asid va &&
    match s.translate p.1 p.2 .x with
    | .ok key2 cls2 grain => decide (cls2 ≤ 1) && frameOf key2 == frameOf key && decide (0 < grain) != trk
    | _ => false

/-- A claim grants an access at an address; its first and one past its last byte (R61). -/
def claimLo (c : Nat) : Nat := fld c 0 41 * 2 ^ 16
def claimHi (c : Nat) : Nat := claimLo c + (fld c 41 20 + 1) * 2 ^ 16
def claimHolds (c va : Nat) (write : Bool) : Bool :=
  (if write then fld c 61 2 == 2 else fld c 61 2 == 1 || fld c 61 2 == 2) && decide (claimLo c ≤ va) && decide (va < claimHi c)

/-- The claims that grant an access cover a range, one after another; each is passed once. -/
def claimCover (cs : List Nat) (write : Bool) (hi : Nat) : Nat → Nat → Bool
  | 0, _ => false
  | fuel + 1, va =>
    match cs.find? fun c => claimHolds c va write with
    | some c => decide (hi ≤ claimHi c) || claimCover cs write hi fuel (claimHi c)
    | none => false

/-- Whether the claims of a launch grant an access to every byte of a range (R61, R232, R260). -/
def claimed (h : LHdr) (va n : Nat) (write : Bool) : Bool := claimCover (h.clm.take h.nclm) write (va + n) 17 va

/-- Claims bind tasks of launches; the firmware crew slot runs under no launch (R390; log entry 10). -/
def Ctx.claimOk (x : Ctx) (va n : Nat) (write : Bool) : Bool := x.r.slot == fwSlot || claimed x.k.hd va n write

/- ## The deputy log, reports and freezes -/

/-- Append a record to the deputy log (R459). -/
def State.deputy (s : State) (kind unit_ asid arg0 arg1 : Nat) : State :=
  { s with
    dlog := Assoc.put s.dlog (s.dseq % 16384)
      { time := s.clk.time, seqn := s.dseq % 2 ^ 32, kind := kind, inc := s.inc.toNat, unit_ := unit_, asid := asid,
        arg0 := arg0, arg1 := arg1 }
    dseq := s.dseq + 1 }

/-- UNIT of a core: its cluster and its number within the cluster (R459). -/
def coreUnit (core : Nat) : Nat := core / 8 * 256 + core % 8

/-- The trap cause codes of R133. -/
def Cause.code : Cause → Nat
  | .illegal => 1 | .regbound => 2 | .lookahead => 3 | .runlen => 4 | .notheader => 5 | .priv => 6 | .align => 7
  | .claim => 8 | .prot => 9 | .assaywr => 0xA | .strongseg => 0xB | .swtrap => 0xC | .bkpt => 0xD | .ksign => 0xE
  | .stack => 0xF | .engine => 0x10 | .uncorr => 0x11 | .canary => 0x12 | .synonym => 0x13 | .matrixoff => 0x14

/-- Causes whose trap enters a handler when precise and HANDLER = 1 (R404). -/
def Cause.handlerClass : Cause → Bool
  | .claim | .prot | .assaywr | .synonym | .uncorr | .canary => false
  | _ => true

/-- Store bytes in a context, as the device's own store of ORD rel and SCOPE sys: none where it would fault (R408). It is
performed at the byte's home, tracked copies given up; a peer's bytes are sent to it, or dropped where it takes none. -/
def State.devStore (s : State) (asid va : Nat) (bs : List Byte) : Option State :=
  match s.translate asid va .w with
  | .ok key cls _ =>
    if cls ≤ 1 then
      (match s.homeOf key with
       | .peer c =>
         some (if s.peerOpen c then
             s.sendRemote { peer := c, uid := 0, core := coreCount, thrs := [], copy := none, poison := false, cells := bs.zipIdx.map fun e => (key + e.2, e.1) }
           else s)
       | _ => some ((s.acacheTake key).pokeCoh key bs))
    else none
  | _ => none

/-- A read of a word is poisoned: memory's word is (R456), or its owner is a lost peer (R326). -/
def State.lostWord (s : State) (key n : Nat) : Bool :=
  s.poisoned key n || match s.homeOf key with
    | .peer c => decide (s.peerSt c = .lost)
    | _ => false

/-- A read of a word waits for the peer that owns it (R326, R454). -/
def State.awaitsPeer (s : State) (key : Nat) : Bool :=
  match s.homeOf key with
  | .peer c => decide (s.peerSt c = .unreachable) || decide (s.peerSt c = .held)
  | _ => false

/-- Read a number in a context, as the device's own load: none where it would fault or be poisoned (R326, R456). -/
def State.devLoad (s : State) (asid va n : Nat) : Option Nat :=
  match s.translate asid va .r with
  | .ok key _ _ => if s.lostWord key n then none else some (s.peekN key n)
  | .zero | .wake _ => some 0
  | _ => none

/-- An access of the device to a word waits: its granule's bias is changing (R437), the chip's own writes of it are on
their way to a peer (R448), or its owner is a peer that cannot be asked (R326). -/
def State.devBusy (s : State) (asid va : Nat) (k : Kind) : Bool :=
  match s.translate asid va k with
  | .busy => true
  | .ok key _ _ => (decide (k ≠ .w) && s.awaitsPeer key) || (List.range 8).any fun i => (s.sentByte (fun _ => true) (key + i)).isSome
  | _ => false

/-- The atomic cache gives up the line that an access of the device reads (R327). -/
def State.devTake (s : State) (asid va : Nat) (k : Kind) : State :=
  if s.fab.acache.isEmpty then s
  else
    match s.translate asid va k with
    | .ok key _ _ => s.acacheTake key
    | _ => s

/-- A device store that waits is made as soon as its granule's bias stands (R437). -/
def State.post (s : State) (x : DevPost) : State := { s with agents := { s.agents with posts := s.agents.posts ++ [x] } }

/-- Write a 32-byte report into the fault ring of a context and the deputy-log record after it (R408, R460). -/
def State.report (s : State) (core : Nat) (k : Task) (thr : Nat) (pc : DWord) (cause detail out count : Nat) : State :=
  let base := s.frbase k.asid
  let lg := min (s.frlog k.asid) 16
  let rec_ := leBytes 4 k.lnum ++ leBytes 4 detail ++ leBytes 8 k.tidx ++ leBytes 8 pc.toNat ++ leBytes 2 thr ++
    leBytes 1 cause ++ leBytes 1 out ++ leBytes 2 core ++ leBytes 2 (min count 65535)
  let s1 :=
    if lg = 0 ∨ base = 0 then s
    else
      let wp := s.frwp k.asid
      let at_ := base + 32 * (wp % 2 ^ lg)
      let s2 :=
        if s.devBusy k.asid at_ .w then s.post { asid := k.asid, va := at_, bytes := rec_, lost := some (coreUnit core) }
        else match s.devStore k.asid at_ rec_ with
          | some s' => s'
          | none => s.deputy 12 (coreUnit core) k.asid 2 at_
      s2.pokeN (s.ctxKey k.asid + 0x18) 8 (wp + 1)
  s1.deputy 7 (coreUnit core) k.asid k.lnum (cause * 2 ^ 56 + out * 2 ^ 48 + k.tidx % 2 ^ 48)

/- ## Blocks and headers (R35 to R47, R115 to R117) -/

/-- What stands at a code address. -/
inductive HdrAt where
  | ok (w : Nat)
  | bad
  | absent (anon : Bool) (pte : Nat)
  | prot
  /-- The page is mapped with the other tracking in another translation (R198). -/
  | synonym
  | busy
  deriving DecidableEq, Repr

/-- A valid header (R116). -/
def validHeader (w : Nat) : Bool :=
  fld w 57 7 == 127 && decide (1 ≤ fld w 49 8) && decide (fld w 39 10 ≤ 640) && decide (fld w 12 3 ≤ 3) && fld w 0 12 == 0

/-- A byte a task reads: its version's, else one of its own that is on the way to a peer, else memory's (R211, R227). -/
def Task.byte (k : Task) (s : State) (key : Nat) : Byte :=
  match Assoc.find? k.version key with
  | some b => b
  | none => (s.sentByte (fun w => w.uid == k.uid) key).getD (Memory.read s.mem key)

/-- Bytes a task reads. -/
def Task.bytes (k : Task) (s : State) (key : Nat) : Nat → List Byte
  | 0 => []
  | n + 1 => k.byte s key :: k.bytes s (key + 1) n

/-- Fetch the word at a code address in a task's context, with X permission. -/
def State.fetchWord (s : State) (k : Task) (va : Nat) : HdrAt :=
  if vaTop ≤ va then .bad
  else
    match s.translate k.asid va .x with
    | .ok key cls grain =>
      if cls ≤ 1 ∧ s.aliased k.asid va cls key (decide (0 < grain)) then .synonym else .ok (leNat (k.bytes s key 8))
    | .zero | .wake _ => .ok 0
    | .absent a p => .absent a p
    | .busy => .busy
    | .prot | .hole _ => .prot

/-- The header at a transfer target: aligned, inside the space and valid (R116, R145). -/
def State.headerAt (s : State) (k : Task) (va : Nat) : HdrAt :=
  if va % 8 ≠ 0 then .bad
  else
    match s.fetchWord k va with
    | .ok w => if validHeader w then .ok w else .bad
    | h => h

/-- The address a RECONV field names, from its header (R117). -/
def reconvTarget (h : DWord) (w : Nat) : DWord :=
  h + ((BitVec.ofNat 16 (fld w 23 16)).signExtend 64 <<< 3)

/-- Open operations lose what is left of their windows when their block ends (R127). -/
def closeWindows (ops : List Op) : List Op := ops.map fun o => if o.closed then o else { o with win := 0 }

/-- Enter a valid header word w at address h (R37, R46): the hold test comes before the new point is recorded. -/
def Thread.enter (t : Thread) (h : DWord) (w cycles : Nat) (applyReconv : Bool) : Thread :=
  let hold := decide (fld w 12 3 = 3) && decide (t.rpt = h) && decide (t.rpt ≠ 0)
  let rpt1 := if hold then 0 else t.rpt
  { t with
    pc := h + 8
    blk := some { hdr := h, len := fld w 49 8, live := fld w 39 10, fresh := true }
    rpt := if applyReconv ∧ fld w 23 16 ≠ 0 then reconvTarget h w else rpt1
    held := if hold then some cycles else none
    wins := []
    ops := closeWindows t.ops }

/-- The address of the word after a block's last word. -/
def Blk.endPc (b : Blk) : DWord := b.hdr + 8 + BitVec.ofNat 64 (8 * b.len)

/-- The thread stands at the word after its block, or in no block: the next word is a header (R35). -/
def Thread.atHeader (t : Thread) : Bool :=
  match t.blk with
  | none => true
  | some b => decide (t.pc = b.endPc)

/-- Record a trap for a thread, unless one stands already (R126). -/
def Thread.raise (t : Thread) (c : Cause) (detail : Nat) (pc : DWord) (tval : Word) (taddr : DWord) : Thread :=
  match t.trap with
  | some _ => t
  | none => { t with trap := some { cause := c, detail := detail, pc := pc, tval := tval, taddr := taddr, deferred := false } }

/-- Record a deferred cause (R404). -/
def Thread.defer (t : Thread) (c : Cause) (detail : Nat) (pc : DWord) (taddr : DWord) : Thread :=
  { t with deferred := t.deferred ++ [{ cause := c, detail := detail, pc := pc, tval := 0, taddr := taddr, deferred := true }] }

/-- An access that needs the host has a context whose host-class pages are usable (R401). -/
def State.hosten (s : State) (asid : Nat) : Bool := fld (s.pasidWord asid) 31 1 == 1

/-- Open a ticket in the first entry that is not open; none when the table is full (R400). -/
def State.openTicket (s : State) (r : TRef) (op : Nat) (copy : Option (Nat × Nat)) (uid asid va : Nat) (pri : Bool) :
    Option (Nat × State) :=
  let free? := (List.range 4096).find? fun i =>
    match Assoc.find? s.agents.tickets i with
    | some t => !t.open_
    | none => true
  match free? with
  | none => none
  | some i =>
    let gen := match Assoc.find? s.agents.tickets i with
      | some t => (t.gen + 1) % 16
      | none => 0
    let t : Ticket := { gen := gen, open_ := true, served := false, ref := r, op := op, copy := copy, uid := uid, asid := asid, va := va,
                        pri := pri, since := s.clk.time, lnum := none }
    let s1 := { s with agents := { s.agents with tickets := Assoc.put s.agents.tickets i t } }
    some (i, if pri then s1.send (.pri (s.pasidWord asid % 2 ^ 20) (va / 4096)) else s1)

/-- Enter the header where a thread stands, or record why it cannot (R35, R116): absent code opens a ticket and the
thread stays. -/
def State.enterAt (s : State) (r : TRef) (k : Task) (applyReconv : Bool) : State :=
  match s.thread? r with
  | none => s
  | some t =>
    match s.headerAt k t.pc.toNat with
    | .ok w => s.setThread r (t.enter t.pc w s.clk.cycles applyReconv)
    | .bad => s.setThread r (t.raise .notheader 0 t.pc 0 0)
    | .prot => s.setThread r (t.defer .prot 0 t.pc 0)
    | .synonym => s.setThread r (t.defer .synonym 0 t.pc 0)
    | .busy => s
    | .absent anon _ =>
      match t.fetchTicket with
      | some _ => s
      | none =>
        match s.openTicket r 0 none k.uid k.asid t.pc.toNat (!anon && s.hosten k.asid) with
        | some (i, s1) => s1.setThread r { t with fetchTicket := some i }
        | none => s

/-- Whether a thread is expected at a reconvergence point (R47). -/
def Thread.expectedAt (p : DWord) (t : Thread) : Bool := decide (t.rpt = p) && !t.ended && t.held.isNone

/-- The TIME left of a slice that runs since sliceFrom; a task with a halted thread does not use it (R412, R414). -/
def State.sliceLeft (s : State) (core slot : Nat) (k : Task) : Option Nat :=
  if (s.threadsOf core slot).any (fun e => e.2.halted) then k.slice
  else k.slice.map fun n => n - (s.clk.time - k.sliceFrom)

/-- A thread is in a run in progress. -/
def State.inRun (s : State) (core slot thr : Nat) : Bool :=
  s.runs.any fun e => e.2.core == core && e.2.slot == slot && e.2.members.contains thr

/-- The instruction is tracked by a fault ticket, or by a status register that it names (R129, R130). -/
def Op.tracked (o : Op) : Bool :=
  o.ticket.isSome || (o.pend && match o.kind with
    | .engine ds => ds.any fun d => match d with | .v _ => true | .sp _ => false
    | _ => false)

/-- What a handler entry, a save or a halt waits for (R130): a register result in flight, or an instruction that has not
completed with its window open; one tracked by a ticket or a status register is not. MSTAT's result is a plain register
(R296). -/
def Op.inFlight (o : Op) : Bool :=
  !o.closed && !o.tracked &&
    (decide (0 < o.win) ||
      match o.kind with
      | .result _ | .load .. | .strong .. => true
      | .atomic _ _ _ _ _ d => d.isSome
      | .engine ds => ds.any fun d => match d with | .v _ => true | .sp _ => false
      | _ => false)

/-- A thread halts: its task's slice is paused (R412). -/
def State.haltThread (s : State) (r : TRef) : State :=
  (s.updTask r.core r.slot fun k => { k with slice := s.sliceLeft r.core r.slot k, sliceFrom := s.clk.time }).updThread r
    fun t => { t with halted := true, haltReq := false, wins := [] }

/-- A halt that has been asked for takes place: the thread stands between runs, its results in flight written (R130,
R412). -/
def Thread.haltsNow (t : Thread) : Bool := t.haltReq && !t.ended && !t.halted && !(t.ops.any Op.inFlight)

/-- The halts asked for of some threads of a task take place where they can, before any cause is delivered (R412). -/
def State.haltMembers (s : State) (core slot : Nat) (members : List Nat) : State :=
  members.foldl (fun st i => match st.thread? ⟨core, slot, i⟩ with
    | some t => if t.haltsNow && !st.inRun core slot i then st.haltThread ⟨core, slot, i⟩ else st
    | none => st) s

/-- The chip runs: neither held down in Recovery nor off (R466, R471). -/
def State.up (s : State) : Bool := decide (s.plat.sec ≠ .recovery) && decide (s.plat.power ≠ .s3)

/-- The cores run: the chip is up and its arithmetic clock is not stopped (R471). -/
def State.coresRun (s : State) : Bool := s.up && (decide (s.plat.power = .a0) || decide (s.plat.power = .a1))

/-- A power state's number in a deputy-log record of kind 11 (R460; log entry 19); S1, of a cluster, is 2. -/
def powerCode : Power → Nat
  | .a0 => 0
  | .a1 => 1
  | .s2 => 3
  | .s3 => 4

/-- A cluster leaves S1 with a placement on one of its cores, with its record (R460, R471). The cycle counters of its
cores have counted no period of a clock that stood (R98). -/
def State.ungate (s : State) (cluster : Nat) : State :=
  if s.plat.gated.contains cluster then
    let stood := s.clk.cycles - Assoc.getD s.plat.gatedAt s.clk.cycles cluster
    let s1 := (List.range 8).foldl (fun st i => st.updCore (cluster * 8 + i) fun c => { c with resetAt := c.resetAt + stood }) s
    ({ s1 with plat := { s1.plat with
        gated := s1.plat.gated.filter fun c => c != cluster, gatedAt := Assoc.del s1.plat.gatedAt cluster } }).deputy 11
      (cluster * 256) 0 2 (powerCode s.plat.power)
  else s

/-- A hart of the chip, and whether a hart number is one of this chip's: hart n of the package lies on chip n / 32 of
it (R4, R425). -/
def State.hart (s : State) (n : Nat) : Hart := Assoc.getD s.harts Hart.reset n
def State.hartHere (s : State) (n : Nat) : Bool := n / 32 == s.chip.toNat % 4 && s.up
def State.setHart (s : State) (n : Nat) (h : Hart) : State := { s with harts := Assoc.setD s.harts Hart.reset n h }

/-- The held threads of a task whose point no thread is expected to reach (R47). A parked task is not resident, so none of
its threads is looked at. -/
def State.freeHolds (s : State) (core slot : Nat) : List Nat :=
  let ts := s.threadsOf core slot
  (ts.filter fun e => e.2.held.isSome &&
    match e.2.blk with
    | some b => !(ts.any fun u => u.2.expectedAt b.hdr)
    | none => false).map Prod.fst

/-- All those threads are released together (R47). -/
def State.releaseHolds (s : State) (core slot : Nat) : State :=
  (s.freeHolds core slot).foldl (fun st i => st.updThread ⟨core, slot, i⟩ fun t => { t with held := none }) s

/- ## Ending a task, freezing and rolling back (R405 to R411) -/

/-- The copies a task has in flight on its core. -/
def State.copiesOf (s : State) (core uid : Nat) : List (Nat × CopyOp) :=
  (s.core core).copies.filter fun e => e.2.uid == uid

/-- The open tickets of a task. -/
def State.ticketsOf (s : State) (uid : Nat) : List (Nat × Ticket) :=
  s.agents.tickets.filter fun e => e.2.open_ && e.2.uid == uid

/-- Drop a task's matrix operations that have not fired, its grants and its drains (R407). -/
def State.dropEngine (s : State) (core slot uid : Nat) : State :=
  let s1 := s.updCore core fun c =>
    { c with
      mac0 := { c.mac0 with queue := c.mac0.queue.filter fun o => o.uid != uid }
      mac1 := { c.mac1 with queue := c.mac1.queue.filter fun o => o.uid != uid }
      grants := c.grants.filter fun g => g.uid != uid }
  s1.updTask core slot fun k => { k with drains := [] }

/-- The runs of a task end where they stand (R43). -/
def State.dropRuns (s : State) (core slot : Nat) : State :=
  { s with
    runs := s.runs.filter fun e => !(e.2.core == core && e.2.slot == slot)
    cur := s.cur.bind fun i => match Assoc.find? s.runs i with
      | some q => if q.core == core && q.slot == slot then none else some i
      | none => none }

/-- Drop the task's version: its writes leave no trace (R214). -/
def Task.discard (k : Task) : Task := { k with version := [], vpeers := [], vlines := [], owed := [] }

/-- A task is stopped whose commit has begun at peers: what is left of that commit is still to take effect (R213). -/
def State.leaveOwed (s : State) (core : Nat) (k : Task) : State :=
  if k.owed.isEmpty then s
  else { s with fab := { s.fab with owed := s.fab.owed ++ [{ core := core, uid := k.uid, cells := k.owed }] } }

/-- Change a launch record. -/
def State.updLaunch (s : State) (lnum : Nat) (f : Launch → Launch) : State :=
  { s with agents := { s.agents with launches := Assoc.modify s.agents.launches lnum f } }

/-- Set event bits that IDLE waits for on a core (R426). -/
def State.event (s : State) (core bitNo : Nat) : State :=
  s.updCore core fun c => { c with idleEvents := c.idleEvents ||| 2 ^ bitNo }

/-- Set an event bit on every core of the chip. -/
def State.eventAll (s : State) (bitNo : Nat) : State :=
  (List.range coreCount).foldl (fun st c => st.event c bitNo) s

/-- A memory access that has issued and not ended: a task's end waits for it (R19, R152). -/
def Op.openAccess (o : Op) : Bool :=
  match o.kind with
  | .load .. | .store .. | .atomic .. | .pref .. | .cctl .. | .strong .. => true
  | _ => false

/-- An operation that still writes memory when it is performed. -/
def Op.openWrite (o : Op) : Bool :=
  match o.kind with
  | .store .. | .atomic .. | .strong .. => true
  | _ => false

/-- The task has engine operations that have issued and not ended: matrix operations, and skip-buffer operations that wait,
which a task that was stopped has lost (R152, R407). -/
def State.engineBusy (s : State) (core : Nat) (k : Task) : Bool :=
  let c := s.core core
  (c.mac0.queue.any fun o => o.uid == k.uid) || (c.mac1.queue.any fun o => o.uid == k.uid) || !k.drains.isEmpty ||
    (decide (k.ending = some 0) && k.qs.any fun e => (e.2.resv ++ e.2.take).any fun x => x.skop && !x.granted)

/-- An ended task whose accesses, engine operations, copies and tickets are done gives its resources back (R19, R152,
R383). -/
def State.retire (s : State) (core slot : Nat) : State :=
  match s.task? core slot with
  | none => s
  | some k =>
    match k.ending with
    | none => s
    | some out =>
      if !(s.copiesOf core k.uid).isEmpty || !(s.ticketsOf k.uid).isEmpty || s.engineBusy core k ||
          ((s.threadsOf core slot).any fun e => e.2.ops.any Op.openAccess || !e.2.deferred.isEmpty) then s
      else
        let drop := fun (m : Macro) => if m.resident == some k.uid then { m with resident := none } else m
        let s1 := { s with
          tasks := Assoc.del s.tasks (taskKey core slot)
          threads := s.threads.filter fun e => e.1 / 4096 != taskKey core slot }
        let s2 := s1.updCore core fun c => { c with mac0 := drop c.mac0, mac1 := drop c.mac1 }
        (s2.updLaunch k.lnum fun l =>
          { l with ended := l.ended + 1, trapped := if out = 0 then l.trapped else min (l.trapped + 1) 0xFFFFFF }).event core 2

/-- The task ends by trap, kill or context reset: its threads have been stopped (R407). -/
def Task.stopping (k : Task) : Bool := match k.ending with | some (_ + 1) => true | _ => false

/-- Every thread of a task has ended, with no deferred cause of one still to be delivered (R19, R404). -/
def State.allEnded (s : State) (core slot : Nat) : Bool := (s.threadsOf core slot).all fun e => e.2.ended && e.2.deferred.isEmpty

/-- Stop every thread of a task. -/
def State.stopThreads (s : State) (core slot : Nat) : State :=
  { s with
    threads := s.threads.map fun e =>
      if e.1 / 4096 = taskKey core slot then
        (e.1, { e.2 with ended := true, wait := .none, ops := [], wins := [], trap := none, deferred := [], held := none })
      else e }

/-- The lowest live thread of a task, for a report that names no cause (R408). -/
def State.firstLive (s : State) (core slot : Nat) : Nat × DWord :=
  match (s.threadsOf core slot).find? (fun e => !e.2.ended) with
  | some e => (e.1, e.2.pc)
  | none => (0, 0)

/-- A task ends by trap or kill: threads stop, the version is discarded, unfired operations are dropped, the report is
written, and the launch counts it (R407). -/
def State.endTask (s : State) (core slot thr : Nat) (pc : DWord) (cause detail out count : Nat) : State :=
  match s.task? core slot with
  | none => s
  | some k =>
    let s1 := (((s.leaveOwed core k).dropRuns core slot).stopThreads core slot).setTask core slot { k.discard with ending := some out, frozen := none }
    let s2 := (s1.dropEngine core slot k.uid).report core k thr pc cause detail out count
    s2.retire core slot

/-- Kill a task, frozen or not (R407, R425): OUT 3, or OUT 5 for a context reset. -/
def State.killTask (s : State) (core slot out : Nat) : State :=
  let p := s.firstLive core slot
  s.endTask core slot p.1 p.2 0 0 out 0

/-- Freeze a task (R411): its threads stop, its version is discarded, unfired operations are dropped, and a report
with OUT 4 and a deputy-log record are written. -/
def State.freezeTask (s : State) (core slot : Nat) (tr : Option TrapRec) (thr : Nat) (pc : DWord) (count : Nat) : State :=
  match s.task? core slot with
  | none => s
  | some k =>
    let s1 := ((s.leaveOwed core k).dropRuns core slot).setTask core slot { k.discard with frozen := some s.clk.time, ending := none }
    let s2 := (s1.dropEngine core slot k.uid).report core k thr pc (tr.elim 0 fun x => x.cause.code) (tr.elim 0 fun x => x.detail) 4 count
    s2.deputy 3 (coreUnit core) k.asid 0 (core * 2 ^ 52 + slot * 2 ^ 48)

/-- The queue entries of a restored buffer: those of operations that were dropped give up their place, and those of
copies that ended since are complete (R265, R410). -/
def keepEntries (flying : List Nat) (xs : List SkEntry) : List SkEntry :=
  (xs.filter fun x => (x.granted && !x.skop) || (x.granted && x.skop) || flying.contains x.id).map fun x =>
    if x.granted && !x.skop && !flying.contains x.id then { x with done := x.n } else x

/-- A buffer as a rollback restores it. -/
def SkipBuf.restored (flying : List Nat) (b : SkipBuf) : SkipBuf :=
  { b with resv := keepEntries flying b.resv, take := keepEntries flying b.take }

/-- Restore a task to its checkpoint (R410): its state is that of the checkpoint, its threads after their BAR. -/
def State.rollback (s : State) (core slot : Nat) (k : Task) (c : Ckpt) (thr : Nat) (tr : TrapRec) (count : Nat) : State :=
  let k1 : Task := { k.discard with
    spoison := c.spoison
    ks := c.ks, qs := c.qs.map fun e => (e.1, e.2.restored ((s.copiesOf core k.uid).map fun x => x.2.id)), allot := c.allot, scratch := c.scratch, tiles := c.tiles, drains := [], ending := none
    ckpt := some { c with rollbacks := c.rollbacks + 1 } }
  let s1 := (s.dropRuns core slot).setTask core slot k1
  let s2 := s1.dropEngine core slot k.uid
  let back := fun (e : Nat × Thread) =>
    if e.1 / 4096 = taskKey core slot then
      match Assoc.find? c.threads (e.1 % 4096) with
      | some b => (e.1, { e.2 with pc := b.pc, blk := b.blk, csp := b.csp, preds := b.preds, rpt := b.rpt, regs := b.regs,
                                   wait := .none, ops := [], wins := [], trap := none, deferred := [], held := none, ended := false })
      | none => e
    else e
  let s3 := { s2 with threads := s2.threads.map back }
  let s4 := (s3.threadsOf core slot).foldl (fun st e =>
    if !e.2.ended && e.2.atHeader then st.enterAt ⟨core, slot, e.1⟩ k1 true else st) s3
  s4.report core k thr tr.pc tr.cause.code tr.detail 7 count

/-- A task consumes an error (R409, R410): rolled back while its checkpoint is whole and nothing has been committed
since, at most three times to one checkpoint; ended with OUT 6 otherwise. -/
def State.consume (s : State) (core slot thr : Nat) (tr : TrapRec) (count : Nat) : State :=
  match s.task? core slot with
  | none => s
  | some k =>
    match k.ckpt with
    | some c =>
      if c.clean && decide (c.rollbacks < 3) then s.rollback core slot k c thr tr count
      else s.endTask core slot thr tr.pc tr.cause.code tr.detail 6 count
    | none => s.endTask core slot thr tr.pc tr.cause.code tr.detail 6 count

/-- TAKING AN EXCEPTION: a thread enters its task's handler (R405). TPC, TCAUSE, TVAL and TADDR are set, MOD is
cleared and INH set, and the thread enters HDLR with its point as it stood; a HDLR that is no valid header of KIND 2
ends the task (R405, R407). HDLR is read as code: where its page is absent the thread waits on a ticket of the fetch
with its trap pending, and a fetch that violates protection freezes the task (R394, R400, R404). -/
def State.takeTrap (s : State) (r : TRef) (k : Task) (t : Thread) (tr : TrapRec) (count : Nat) : State :=
  match s.headerAt k k.hd.hdlr with
  | .ok w =>
    if fld w 12 3 = 2 then
      let t1 : Thread := { t with
        tpc := tr.pc, tblk := t.blk, tcause := BitVec.ofNat 32 (tr.cause.code * 2 ^ 24 + tr.detail % 2 ^ 24), tval := tr.tval,
        taddr := tr.taddr, modf := false, inh := true, trap := none, wait := .none }
      s.setThread r { (t1.enter (BitVec.ofNat 64 k.hd.hdlr) w s.clk.cycles false) with rpt := t.rpt, held := none }
    else s.endTask r.core r.slot r.thr tr.pc tr.cause.code tr.detail 1 count
  | .bad => s.endTask r.core r.slot r.thr tr.pc tr.cause.code tr.detail 1 count
  | .prot =>
    s.freezeTask r.core r.slot (some { tr with cause := .prot, detail := 0, tval := 0, taddr := 0, deferred := true }) r.thr tr.pc count
  | .synonym =>
    s.freezeTask r.core r.slot (some { tr with cause := .synonym, detail := 0, tval := 0, taddr := 0, deferred := true }) r.thr tr.pc count
  | .busy => s
  | .absent anon _ =>
    match t.fetchTicket with
    | some _ => s
    | none =>
      match s.openTicket r 0 none k.uid k.asid k.hd.hdlr (!anon && s.hosten k.asid) with
      | some (i, s1) => s1.setThread r { t with fetchTicket := some i }
      | none => s

/-- Whether a trap enters the handler rather than ending or freezing (R404, R405). -/
def entersHandler (k : Task) (t : Thread) (tr : TrapRec) : Bool :=
  k.hd.handler && !tr.deferred && tr.cause.handlerClass && !t.inh

/-- Deliver one thread's trap at a run boundary (R404, R405, R407, R410, R411). -/
def State.deliver (s : State) (r : TRef) (tr : TrapRec) (count : Nat) : State :=
  match s.task? r.core r.slot, s.thread? r with
  | some k, some t =>
    if entersHandler k t tr then s.takeTrap r k t tr count
    else
      match tr.cause with
      | .prot | .assaywr | .synonym => s.freezeTask r.core r.slot (some tr) r.thr tr.pc count
      | .uncorr | .canary => s.consume r.core r.slot r.thr tr count
      | _ =>
        let out := if t.inh then 2 else 1
        s.endTask r.core r.slot r.thr tr.pc tr.cause.code tr.detail out count
  | _, _ => s

/-- The cause a thread takes at a boundary: its precise trap, else its first deferred one. -/
def Thread.due (t : Thread) : Option TrapRec :=
  match t.trap with
  | some tr => some tr
  | none => t.deferred.head?

/-- The cause ends the task rather than entering the handler. -/
def endsTask (k : Task) (t : Thread) (tr : TrapRec) : Bool := !entersHandler k t tr

/-- The trap stands: a handler entry until the thread's results in flight are written (R130), and a precise trap that
ends the task until the writes that the thread issued before it have been performed, those on tickets apart (R404,
R407). -/
def trapWaits (k : Task) (t : Thread) (tr : TrapRec) : Bool :=
  if entersHandler k t tr then t.ops.any Op.inFlight
  else !tr.deferred && t.ops.any fun o => o.openWrite && o.ticket.isNone

/-- Deliver the traps of a run's members at its end (R404, R407): handler entries in ascending thread index; where
several threads take task-ending causes, the report names the lowest index and counts the others. The causes of a thread
that is halted, or that halts first, stay pending (R412). -/
def State.deliverAll (s : State) (core slot : Nat) (members : List Nat) : State :=
  match s.task? core slot with
  | none => s
  | some k =>
    let due := members.filterMap fun i =>
      match s.thread? ⟨core, slot, i⟩ with
      | some t => if t.halted || (t.haltReq && !s.inRun core slot i) || (t.ended && t.deferred.isEmpty) || k.frozen.isSome || k.stopping then none
        else t.due.bind fun tr => if trapWaits k t tr then none else some (i, t, tr)
      | none => none
    let enders := due.filter fun e => endsTask k e.2.1 e.2.2
    match enders with
    | e :: rest => s.deliver ⟨core, slot, e.1⟩ e.2.2 rest.length
    | [] => due.foldl (fun st e => st.deliver ⟨core, slot, e.1⟩ e.2.2 0) s

end Machine
end Sys2Proof
end

