-- ==== Sys2Proof/Machine/Operands.lean ====
section
/-! DEFINITION. What registers each instruction reads and writes (R55, R97 to R102, R128), which tiles it names, and
which instructions are privileged, matrix or convergent (R60, R120, R181, R277). -/

namespace Sys2Proof
namespace Machine

/-- The n vector registers an operand names; a special operand names none (R128). -/
def opRegs (o : Opnd) (n : Nat) : List Nat :=
  match o with
  | .v a => List.range' a n
  | .sp _ => []

/-- The registers of an operand at the width of a type. -/
def tyRegs (t : Ty) (o : Opnd) : List Nat := opRegs o (if t.wide then 2 else 1)

/-- The registers of an operand, a pair where wide. -/
def wRegs (wide : Bool) (o : Opnd) : List Nat := opRegs o (if wide then 2 else 1)

/-- A predicate as a register of a dependence; p0 never conflicts (R128). -/
def pReg (p : Nat) : List Nat := if p = 0 then [] else [1024 + p]

/-- Registers of D in an LD or ST by SZ (R237). -/
def szRegs (sz : Nat) (o : Opnd) : List Nat :=
  opRegs o (if sz ≤ 2 then 1 else if sz = 3 then 2 else if sz = 4 then 4 else 8)

/-- All of p1 to p15. -/
def allPreds : List Nat := List.range' 1025 15

/-- One register. -/
def r1 (o : Opnd) : List Nat := opRegs o 1
/-- A pair. -/
def r2 (o : Opnd) : List Nat := opRegs o 2

/-- The registers that a waiting word writes when its wait ends (R119). -/
def Wait.regs : Wait → List Nat
  | .none => []
  | .time _ d => r2 d
  | .bar _ _ _ d | .sig _ d | .phadv _ d | .phwait _ _ _ d | .bwait _ _ d | .fence _ _ _ _ d | .idle _ _ d => r1 d

/-- The registers an instruction reads and writes, guard apart (R128): vector registers by number, predicates above
1024. Events read and write none. -/
def rdwr : Instr → List Nat × List Nat
  | .brx _ a | .callIndirect _ a => (r2 a, [])
  | .brxRel _ a => (r1 a, [])
  | .waittAbs _ d a | .waittRel _ d a => (r2 a, r2 d)
  | .trap _ a _ => (r1 a, [])
  | .kset _ _ (.reg a) => (r1 a, [])
  | .ksign _ d _ | .phadv _ d _ | .bar _ d _ _ | .barNock _ d _ _ | .commit _ d _ | .fenceFull _ d _ _
  | .fenceAcq _ d _ _ | .fenceRel _ d _ _ => ([], r1 d)
  | .phwait _ d a _ _ => (r1 a, r1 d)
  | .iadd _ t _ d a b | .isub _ t _ d a b | .imul _ t _ d a b | .imulh _ t d a b | .idiv _ t _ d a b | .irem _ t d a b
  | .imin _ t d a b | .imax _ t d a b => (tyRegs t a ++ tyRegs t b, tyRegs t d)
  | .imad _ t _ d a b c => (tyRegs t a ++ tyRegs t b ++ tyRegs t c, tyRegs t d)
  | .iabs _ t _ d a | .mov _ t d a | .iaddi _ t _ d a _ => (tyRegs t a, tyRegs t d)
  | .iset _ _ t p a b q => (tyRegs t a ++ tyRegs t b ++ pReg q, pReg p)
  | .iseti _ _ t p a _ => (tyRegs t a, pReg p)
  | .sel _ t d a b q => (tyRegs t a ++ tyRegs t b ++ pReg q, tyRegs t d)
  | .and _ d a b | .or _ d a b | .xor _ d a b | .fmin _ d a b | .fmax _ d a b | .fadd _ _ _ d a b | .fsub _ _ _ d a b
  | .fmul _ _ _ d a b | .fscal _ _ _ d a b | .rot _ _ _ d a b | .hadd2 _ _ _ _ d a b | .hmul2 _ _ _ _ d a b =>
    (r1 a ++ r1 b, r1 d)
  | .logi _ _ _ d a _ | .frcp _ _ _ d a | .fsqrt _ _ _ d a | .ftrig _ _ _ d a | .frsq _ _ d a | .fex2 _ _ d a
  | .flg2 _ _ d a | .fcls _ _ d a | .crdx _ _ d a => (r1 a, r1 d)
  | .shl _ t d a b | .shr _ t d a b => (tyRegs t a ++ r1 b, tyRegs t d)
  | .clz _ w d a | .popc _ w d a => (wRegs w a, r1 d)
  | .brev _ w d a => (wRegs w a, wRegs w d)
  | .bfx _ _ d a c => (r1 a ++ r1 c, r1 d)
  | .bfi _ d a b c | .ffma _ _ _ d a b c | .hfma2 _ _ _ _ d a b c | .dot4 _ _ _ _ d a b c => (r1 a ++ r1 b ++ r1 c, r1 d)
  | .lea _ _ _ d a b => (r2 a ++ r1 b, r2 d)
  | .movi _ w d _ => ([], wRegs w d)
  | .movl _ single d _ => ([], wRegs (!single) d)
  | .plop _ _ p a b => (pReg a ++ pReg b, pReg p)
  | .pmovPack _ d => (allPreds, r1 d)
  | .pmovUnpack _ a => (r1 a, allPreds)
  | .pmovNz _ p a => (r1 a, pReg p)
  | .pmovVal _ d p => (pReg p, r1 d)
  | .fset _ _ p a b q => (r1 a ++ r1 b ++ pReg q, pReg p)
  | .cvt _ dt st _ _ d a => (tyRegs st a, tyRegs dt d)
  | .shfl _ w _ d a b => (wRegs w a ++ r1 b, wRegs w d)
  | .vote _ (.all p q) | .vote _ (.any p q) => (pReg q, pReg p)
  | .vote _ (.ballot d q) => (pReg q, r2 d)
  | .vote _ (.uni p a) => (r1 a, pReg p)
  | .ld _ sz _ _ _ d a _ => (r2 a, szRegs sz d)
  | .st _ sz _ _ _ d a _ => (r2 a ++ szRegs sz d, [])
  | .atom _ op w _ _ d a b => (r2 a ++ opRegs b ((if w then 2 else 1) * (if op = .cas then 2 else 1)), wRegs w d)
  | .red _ _ w _ _ a b => (r2 a ++ wRegs w b, [])
  | .pref _ _ _ a _ | .cctlInv _ a _ | .cctlWb _ a _ | .cctlWbinv _ a _ | .binit _ a _ => (r2 a, [])
  | .copy _ d a b _ => (opRegs a 6 ++ r2 b, r1 d)
  | .copyt _ d a b _ => (opRegs a 12 ++ r2 b, r1 d)
  | .gath _ d a b _ => (opRegs a 10 ++ r2 b, r1 d)
  | .skcfg _ d a b _ => (r1 a ++ r1 b, r1 d)
  | .skopRes _ d b _ | .skopPub _ d b _ | .skopTake _ d b _ | .skopPop _ d b _ => (r1 b, r1 d)
  | .skopState _ d _ => ([], r1 d)
  | .barv _ d a _ | .bwait _ d a _ | .bexp _ d a _ => (r2 a, r1 d)
  | .mload _ _ _ d a _ _ => (opRegs a 4, r1 d)
  | .mma _ _ _ _ _ d _ b _ _ => (r1 b, r1 d)
  | .mdrain _ _ _ _ _ d _ _ _ | .mstatState _ d _ | .mstatPasses _ d _ | .mstatCanary _ d _ | .mstatChecks _ d _ =>
    ([], r1 d)
  | .grow _ d b _ | .shrink _ d b _ => (r1 b, r1 d)
  | .alook _ _ d a b _ | .aname _ _ d a b => (r2 a, r1 d ++ opRegs b 4)
  | .aref _ d a _ | .astatCount _ d a => (opRegs a 4, r1 d)
  | .aldSec _ d a _ => (opRegs a 4, opRegs d 8)
  | .aldAddr _ d a => (opRegs a 4, r2 d)
  | .aswapSwap _ d a r | .aswapCas _ d a r => (opRegs a 8 ++ r1 r, opRegs d 8)
  | .aout _ d a b _ => (r2 a ++ opRegs b 4, r1 d)
  | .astatFree _ d | .astatUsed _ d | .astatPend _ d => ([], r2 d)
  | .astatCollide _ d => ([], r1 d)
  | .astatRoot _ d a => (r1 a, opRegs d 4)
  | .launch _ _ d a => (r2 a, r1 d)
  | .sysrd _ w d _ => ([], wRegs w d)
  | .syswr _ w a _ => (wRegs w a, [])
  | .tstateRd _ d item => ([], wRegs (tstateWide item) d)
  | .tstateWr _ a item => (wRegs (tstateWide item) a, [])
  | .vmembForm _ d a _ | .vmembJoin _ d a _ | .vmembLeave _ d a _ | .vmembEvict _ d a _ | .vmembRot _ d a _
  | .claimMake _ d a | .claimEnd _ d a | .freezeHold _ d a | .freezeKill _ d a | .freezeRelease _ d a
  | .idle _ d a _ => (r2 a, r1 d)
  | .vmembQuery _ d _ => ([], r1 d)
  | .placeTask _ d a | .placeRestore _ d a | .freezeSave _ d a => (opRegs a 4, r1 d)
  | .dlog _ d a => (opRegs a 8, r1 d)
  | _ => ([], [])

/-- The registers a word reads, its guard among them (R128). -/
def reads (i : Instr) : List Nat :=
  (rdwr i).1 ++ (match i.hdr? with | some h => pReg h.g | none => [])

/-- The registers a word writes. -/
def writes (i : Instr) : List Nat := (rdwr i).2

/-- One past the highest accumulator tile a word names (R101, R293); zero where it names none. -/
def tileEnd : Instr → Nat
  | .mma _ _ _ _ _ _ tile _ _ _ => tile + 1
  | .mdrain _ _ _ _ _ _ tile _ _ => tile + 1
  | .mzero _ tile c => tile + c + 1
  | _ => 0

/-- The instructions of the firmware crew slot alone (R120). -/
def privileged : Instr → Bool
  | .syswr .. | .vmembForm .. | .vmembJoin .. | .vmembLeave .. | .vmembEvict .. | .vmembQuery .. | .vmembRot ..
  | .claimMake .. | .claimEnd .. | .placeTask .. | .placeRestore .. | .freezeHold .. | .freezeKill .. | .freezeSave ..
  | .freezeRelease .. | .idle .. | .dlog .. => true
  | _ => false

/-- The matrix instructions (R277). -/
def isMatrix : Instr → Bool
  | .mload .. | .mma .. | .mzero .. | .mdrain .. | .mstatState .. | .mstatPasses .. | .mstatCanary .. | .mstatChecks .. => true
  | _ => false

/-- The convergent instructions (R53). -/
def convergent : Instr → Bool
  | .shfl .. | .vote .. | .crdx .. => true
  | _ => false

/-- The instructions that take an outstanding-transaction entry (R234, R361). -/
def takesEntry : Instr → Bool
  | .ld .. | .st .. | .atom .. | .red .. | .pref .. | .cctlInv .. | .cctlInvall .. | .cctlWb .. | .cctlWbinv ..
  | .aldSec .. | .aldAddr .. => true
  | _ => false

/-- The instructions that take a copy slot (R234, R354). -/
def takesCopySlot : Instr → Bool
  | .copy .. | .copyt .. | .gath .. | .alook .. | .aname .. | .aout .. => true
  | _ => false

/-- The bytes of a word and its literal (R114). -/
def wordBytes : Instr → Nat
  | .movl .. => 16
  | _ => 8

/-- The allotment of a thread's crew (R55). -/
def Task.allotOf (k : Task) (thr : Nat) : Nat := Assoc.getD k.allot 0 (thr / 64)

/-- Some register of the word lies at or above the allotment, or some tile at or above ACCT (R55, R101). -/
def regbound (k : Task) (thr : Nat) (i : Instr) : Bool :=
  (((rdwr i).1 ++ (rdwr i).2).any fun n => decide (n < 1024) && decide (k.allotOf thr ≤ n)) || decide (k.hd.acct < tileEnd i)

/-- Two register lists share a register. -/
def meets (a b : List Nat) : Bool := a.any fun n => b.contains n

/-- The status register an instruction names, where it names one: no register dependence of the lookahead rules (R111,
R128, R129). -/
def statusRegs : Instr → List Nat
  | .copy _ d _ _ _ | .copyt _ d _ _ _ | .gath _ d _ _ _ | .skcfg _ d _ _ _ | .skopRes _ d _ _ | .skopPub _ d _ _
  | .skopTake _ d _ _ | .skopPop _ d _ _ | .skopState _ d _ | .mload _ _ _ d _ _ _ | .mma _ _ _ _ _ d _ _ _ _
  | .mdrain _ _ _ _ _ d _ _ _ | .alook _ _ d _ _ _ | .aname _ _ d _ _ | .aref _ d _ _ | .aout _ d _ _ _
  | .launch _ _ d _ | .vmembForm _ d _ _ | .vmembJoin _ d _ _ | .vmembLeave _ d _ _ | .vmembEvict _ d _ _
  | .vmembRot _ d _ _ | .vmembQuery _ d _ | .claimMake _ d _ | .claimEnd _ d _ | .placeTask _ d _ | .placeRestore _ d _ | .freezeHold _ d _
  | .freezeKill _ d _ | .freezeSave _ d _ | .freezeRelease _ d _ | .dlog _ d _
  | .ksign _ d _ | .grow _ d _ _ | .shrink _ d _ _ | .bar _ d _ _ | .barNock _ d _ _ | .commit _ d _ | .fenceFull _ d _ _
  | .fenceAcq _ d _ _ | .fenceRel _ d _ _ | .phadv _ d _ | .phwait _ d _ _ _ | .idle _ d _ _ => r1 d
  | _ => []

/-- The vector registers and predicates an instruction writes, its status register apart (R128). -/
def lookWrites (i : Instr) : List Nat := (writes i).filter fun n => !(statusRegs i).contains n

/-- The window an instruction of the given lookahead opens (R127). The model's choice: the guard of the instruction itself is among
what it reads, so a later write of it in the window traps (R128; log entry 94). -/
def Win.of (i : Instr) (la : Nat) : List Win := if la = 0 then [] else [{ left := la, wr := lookWrites i, rd := reads i }]

/-- J conflicts with the instruction in whose window it stands (R128). -/
def conflicts (i : Instr) (w : Win) : Bool :=
  meets (lookWrites i) w.rd || meets (reads i) w.wr || meets (lookWrites i) w.wr

/-- One instruction of the windows has been reached; a window that has run out is gone (R127). -/
def tickWins (ws : List Win) : List Win := (ws.filter fun w => decide (1 < w.left)).map fun w => { w with left := w.left - 1 }

end Machine
end Sys2Proof
end

