-- ==== Sys2Proof/Machine/Issue.lean ====
section
/-! DEFINITION. Issuing one word of the current run (R42 to R45, R104, R124 to R129): stalls, guards, the checks every
word meets in the order of R126, the word's own effect for each active thread, and the end of the run. -/

namespace Sys2Proof
namespace Machine

/-- What a word's own effect comes to for one thread. -/
inductive Out where
  /-- The thread goes on at the next word. -/
  | ok (s : State)
  /-- The thread stays at the word: it waits, or it has ended. -/
  | stay (s : State)
  /-- The thread has been transferred. -/
  | moved (s : State)
  /-- The thread traps: cause, DETAIL, TVAL and TADDR. -/
  | trap (c : Cause) (detail : Nat) (tval : Word) (taddr : DWord)

/-- The current run. -/
def State.curRun (s : State) : Option (Nat × Run) :=
  match s.cur with
  | none => none
  | some id => (Assoc.find? s.runs id).map fun q => (id, q)

/-- The context of a member of a run. -/
def State.ctx (s : State) (k : Task) (q : Run) (i : Nat) (t : Thread) : Ctx := { s := s, r := ⟨q.core, q.slot, i⟩, k := k, t := t }

/-- A member that still executes the run's words: it has not ended and has no trap of this run. -/
def Thread.runs (t : Thread) : Bool := !t.ended && t.trap.isNone

/-- The members that still execute, with their threads, in ascending home lane (R233; the lane is the index mod 64, and
a group holds one thread of a lane). -/
def State.live (s : State) (q : Run) : List (Nat × Thread) :=
  q.members.filterMap fun i =>
    match s.thread? ⟨q.core, q.slot, i⟩ with
    | some t => if t.runs then some (i, t) else none
    | none => none

/-- The guard of a word holds for a thread (R104). -/
def Thread.active (t : Thread) (h : Hdr) : Bool := t.pred h.g != h.gn

/-- Operations of a core's threads that hold an outstanding-transaction entry (R234). -/
def Op.entry (o : Op) : Bool :=
  match o.kind with
  | .load .. | .store .. | .atomic .. | .pref .. | .cctl .. | .strong .. => true
  | _ => false

/-- The outstanding-transaction entries a core's threads hold. -/
def State.entries (s : State) (core : Nat) : Nat :=
  ((Assoc.range s.threads (core * 32 * 4096) (core * 32 * 4096 + 32 * 4096)).map fun e =>
    (e.2.ops.filter Op.entry).length).sum

/-- The scoreboard stalls a thread's next word: an operation's window has ended, it waits, its fetch waits on a
ticket, or, where it is active, it touches a pending register (R43, R127, R129). The model's choice: a present member that is not
active stalls no SHFL, though a partner reads its pending register; the old value is handed on (R182; log entry 94). -/
def Thread.stalledOn (t : Thread) (i : Instr) : Bool :=
  decide (t.wait ≠ .none) || t.fetchTicket.isSome ||
  (t.ops.any fun o => !o.closed && o.win == 0) ||
  ((match i.hdr? with | some h => t.active h | none => false) &&
    t.ops.any fun o => o.pend && meets (reads i ++ writes i) o.wr)

/-- The table a word needs has no room for the group's active threads (R234). -/
def State.tableFull (s : State) (q : Run) (i : Instr) (n : Nat) : Bool :=
  (takesEntry i && decide (1024 < s.entries q.core + n)) ||
  (takesCopySlot i && decide (64 < ((s.core q.core).copies.filter fun e => !e.2.again).length + n))

/-- The first cause of the checks that come before a word's own description (R126). -/
def precheck (k : Task) (slot thr : Nat) (t : Thread) (i : Instr) : Option (Cause × Nat) :=
  if !i.wf then some (.illegal, 0)
  else if privileged i && slot != fwSlot then some (.priv, 0)
  else if isMatrix i && k.hd.nomatrix then some (.matrixoff, 0)
  else if regbound k thr i then some (.regbound, 0)
  else if t.wins.any (conflicts i) then some (.lookahead, 0)
  else none

/-- One instruction of a thread's windows has been reached (R127). -/
def tickWin (ops : List Op) : List Op := ops.map fun o => if o.closed then o else { o with win := o.win - 1 }

/-- What issuing a word makes of a member, whatever the word: one more instruction of its open windows is reached, it no
longer stands at its header, and its age is zero (R50, R127). -/
def Thread.issuedAt (t : Thread) (stamp : Nat) : Thread :=
  { t with
    ops := tickWin t.ops, wins := tickWins t.wins, blk := t.blk.map fun b => { b with fresh := false }
    age := 0, overdue := none, issued := stamp }

/-- Every member issues. -/
def State.tickAll (s : State) (q : Run) : State :=
  (s.live q).foldl (fun st e => st.setThread ⟨q.core, q.slot, e.1⟩ (e.2.issuedAt s.nextId)) s.fresh.2

/-- A thread goes on past n bytes; at the end of its block it enters the next header (R35). -/
def State.advance (s : State) (r : TRef) (k : Task) (n : Nat) : State :=
  match s.thread? r with
  | none => s
  | some t =>
    let t1 := { t with pc := t.pc + BitVec.ofNat 64 n }
    let s1 := s.setThread r t1
    if t1.atHeader then s1.enterAt r k true else s1

/-- A word opens its lookahead window (R127). -/
def State.openWin (s : State) (r : TRef) (i : Instr) : State :=
  match i.hdr? with
  | some h => if h.la = 0 then s else s.updThread r fun t => { t with wins := t.wins ++ Win.of i h.la }
  | none => s

/-- The registers that a word's effect has written at once, those it writes and leaves to no operation of the thread: the
blocks they lie in count as written (R129, R273). -/
def State.noteWrites (s : State) (r : TRef) (i : Instr) : State :=
  let late := match s.thread? r with | some t => t.ops.flatMap Op.wr | none => []
  s.markDirty r.core r.slot (((writes i).filter fun n => decide (n < 1024) && !late.contains n).map (regBlock r.thr))

/-- The effect of a word for one active thread: its checks, then its own effect (R126, R134). -/
def State.execOne (st : State) (s0 : State) (k : Task) (q : Run) (i : Instr) (body : Ctx → State → Out) (e : Nat × Thread) : State :=
  let r : TRef := ⟨q.core, q.slot, e.1⟩
  match precheck k q.slot e.1 e.2 i with
  | some (c, d) => st.updThread r fun t => t.raise c d e.2.pc 0 0
  | none =>
    match body (s0.ctx k q e.1 e.2) (st.openWin r i) with
    | .ok st' => (st'.noteWrites r i).advance r k (wordBytes i)
    | .stay st' => st'
    | .moved st' => st'
    | .trap c d tv ta => st.updThread r fun t => t.raise c d e.2.pc tv ta

/-- The thread is ready for the picker (R40), its next word's registers apart. -/
def Thread.idleFree (t : Thread) (k : Task) : Bool :=
  !t.ended && !t.halted && !t.haltReq && !t.atHeader && t.held.isNone && decide (t.wait = .none) && t.fetchTicket.isNone && t.trap.isNone &&
    t.deferred.isEmpty && k.frozen.isNone && k.ending.isNone && k.parked.isNone && k.saving.isNone

/-- The instruction at a thread's program counter, where the bytes there decode (R114: a literal past the block is
none). -/
def State.nextInstr (s : State) (k : Task) (t : Thread) : Option Dec :=
  match t.blk with
  | none => none
  | some b =>
    match s.fetchWord k t.pc.toNat with
    | .ok w =>
      if t.pc + 8 = b.endPc then some (decodeWord w none)
      else
        match s.fetchWord k (t.pc.toNat + 8) with
        | .ok l => some (decodeWord w (some l))
        | _ => some (decodeWord w none)
    | _ => none

/-- The thread is ready (R40): at a convergent instruction it waits for its crew. -/
def State.ready (s : State) (k : Task) (t : Thread) : Bool :=
  t.idleFree k &&
    (match s.nextInstr k t with
     | some (.ok i) => !t.stalledOn i && !convergent i
     | _ => !(t.ops.any fun o => !o.closed && o.win == 0))

/-- d cycles pass: the ready threads of PROGRESS tasks grow older, and one whose age reaches T_fair is overdue from that
cycle on (R50). -/
def State.ages (s : State) (d : Nat) : State :=
  { s with threads := s.threads.map fun (e : Nat × Thread) =>
      let r := refOf e.1
      match s.task? r.core r.slot with
      | some k =>
        if k.hd.progress && s.ready k e.2 then
          let fair := (s.core r.core).tfair
          (e.1, { e.2 with
            age := e.2.age + d
            overdue := match e.2.overdue with
              | some c => some c
              | none => if fair ≤ e.2.age + d then some (s.clk.cycles + (fair - e.2.age)) else none })
        else e
      | none => e }

/-- Twentieths of a cycle in one nanosecond: 1.1 GHz in A0, 0.55 GHz in A1, and a clock that stands below (R8, R471). -/
def Power.rate : Power → Nat
  | .a0 => 22
  | .a1 => 11
  | _ => 0

/-- The clock after d nanoseconds of TIME: while a correction backwards is under way TIME runs slower than the arithmetic
clock, by at most 200 parts in a million, and while one forwards is it runs faster by as much (R8, R451; log entry 104). -/
def Clock.pass (c : Clock) (p : Power) (d : Nat) : Clock :=
  let lost := min c.slew (d / 5000)
  let won := min c.gain (d / 5000)
  let n := c.part + (d + lost - won) * p.rate
  { c with time := c.time + d, slew := c.slew - lost, gain := c.gain - won, cycles := c.cycles + n / 20, part := n % 20 }

/-- d nanoseconds of TIME pass: the clocks run, and the ready threads age by the cycles that have passed. -/
def State.pass (s : State) (d : Nat) : State :=
  let c := s.clk.pass s.plat.power d
  { s.ages (c.cycles - s.clk.cycles) with clk := c }

/-- TIME is at least a deadline. -/
def State.atLeast (s : State) (t : Nat) : State := if t ≤ s.clk.time then s else s.pass (t - s.clk.time)

/-- The cycle count is at least c, where the arithmetic clock runs. -/
def State.cyclesAtLeast (s : State) (c : Nat) : State :=
  let need := (c - s.clk.cycles) * 20 - s.clk.part
  if s.plat.power.rate = 0 ∨ c ≤ s.clk.cycles then s
  else s.pass ((need + s.plat.power.rate - 1) / s.plat.power.rate)

/-- End a run (R43 to R45, R51): halts asked for take place, traps are delivered (R412), held threads are released where no thread is expected, and the
members that are ready at the lowest one's program counter form the task's current group. -/
def State.endRun (s : State) (id : Nat) (q : Run) : State :=
  let s1 := { s with runs := Assoc.del s.runs id, cur := none }
  let s2 := ((s1.haltMembers q.core q.slot q.members).deliverAll q.core q.slot q.members).releaseHolds q.core q.slot
  match s2.task? q.core q.slot with
  | none => s2
  | some k =>
    let rd := (q.members.mergeSort).filterMap fun i =>
      match s2.thread? ⟨q.core, q.slot, i⟩ with
      | some t => if s2.ready k t then some (i, t.pc) else none
      | none => none
    match rd with
    | [] => s2.setTask q.core q.slot { k with curGroup := none }
    | (_, pc) :: _ => s2.setTask q.core q.slot { k with curGroup := some (pc, (rd.filter fun e => e.2 == pc).map Prod.fst) }

/-- Every member takes RUNLEN and the run ends (R125). -/
def State.runlen (s : State) (id : Nat) (q : Run) : State :=
  ((s.live q).foldl (fun st e => st.updThread ⟨q.core, q.slot, e.1⟩ fun t => t.raise .runlen 0 e.2.pc 0 0) s).endRun id q

/-- The word ends its run whatever its B flag (R42, R153, R156, R181). -/
def endsRun (i : Instr) (someActive : Bool) : Bool :=
  match i with
  | .yieldCore .. | .bkpt .. => someActive
  | _ => convergent i

/-- The word is the last instruction of its block (R36). -/
def lastOfBlock (i : Instr) (t : Thread) : Bool :=
  match t.blk with
  | none => false
  | some b => decide (t.pc + BitVec.ofNat 64 (wordBytes i) = b.endPc)

/-- The run goes on after a word, or ends (R42). -/
def State.afterWord (s : State) (id : Nat) (q : Run) (i : Instr) (h : Hdr) (someActive : Bool) : State :=
  let q1 := { q with pc := q.pc + BitVec.ofNat 64 (wordBytes i), len := q.len + 1 }
  match Assoc.find? s.runs id with
  | none => s
  | some _ =>
    if h.b || endsRun i someActive || (s.live q1).isEmpty then s.endRun id q1
    else { s with runs := Assoc.put s.runs id q1 }

/-- Issue one word for the current run: a run that reaches a convergent word ends before it (R181); nothing happens without
a run, or while a member stalls or the word's own condition to issue does not hold (R43, R129); pre is that condition and body the word's own effect. -/
def issueWith (i : Instr) (pre : State → Task → Run → List (Nat × Thread) → Bool) (body : Ctx → State → Out) (s : State) : State :=
  match s.curRun, i.hdr? with
  | some (id, q), some h =>
    match s.task? q.core q.slot with
    | none => s
    | some k =>
      let ms := s.live q
      let acts := ms.filter fun e => e.2.active h
      if convergent i && !q.conv then s.endRun id q
      else if ms.any (fun e => e.2.stalledOn i) then s
      else if 24 ≤ q.len then s.runlen id q
      else if !h.b && (ms.any fun e => lastOfBlock i e.2) then s.runlen id q
      else if s.tableFull q i acts.length || !(acts.isEmpty || pre s k q acts) then s
      else
        let s1 := s.tickAll q
        let s2 := acts.foldl (fun st e => st.execOne s k q i body e) s1
        let s3 := (ms.filter fun e => !e.2.active h).foldl (fun st e => st.advance ⟨q.core, q.slot, e.1⟩ k (wordBytes i)) s2
        s3.afterWord id q i h (!acts.isEmpty)
  | _, _ => s

/-- Issue a word with no condition of its own. -/
def issue (i : Instr) (body : Ctx → State → Out) (s : State) : State := issueWith i (fun _ _ _ _ => true) body s

/-- What an ILLEGAL word comes to for a member for which it is not active: a no-operation of its own length, which for a
MOVL whose literal lies in the block is two words (R114, R123, R124). -/
def illegalNop (w : Nat) (t : Thread) : Instr :=
  if fld w 57 7 == 41 && (match t.blk with | some b => decide (t.pc + 8 ≠ b.endPc) | none => false) then .movl (hdrOf w) false (.sp 15) 0
  else .nop (hdrOf w)

/-- An ILLEGAL word at the current run's program counter: every active member traps; with none active it is a
no-operation whose B flag still counts (R122 to R124). The model's choice: a word of a convergent opcode that is ILLEGAL issues as
an ordinary word does, with no gathering of its crew (R181; log entry 94). -/
def illegalWord (w : Nat) (s : State) : State :=
  match s.curRun with
  | none => s
  | some (id, q) =>
    match s.task? q.core q.slot with
    | none => s
    | some k =>
      let h := hdrOf w
      let ms := s.live q
      let acts := ms.filter fun e => e.2.active h
      let nop := (ms.head?.map fun e => illegalNop w e.2).getD (.nop h)
      if ms.any (fun e => e.2.stalledOn (.nop h)) then s
      else if 24 ≤ q.len then s.runlen id q
      else if !h.b && (ms.any fun e => lastOfBlock (illegalNop w e.2) e.2) then s.runlen id q
      else
        let s1 := s.tickAll q
        let s2 := acts.foldl (fun st e => st.updThread ⟨q.core, q.slot, e.1⟩ fun t => t.raise .illegal 0 e.2.pc 0 0) s1
        let s3 := (ms.filter fun e => !e.2.active h).foldl (fun st e =>
          st.advance ⟨q.core, q.slot, e.1⟩ k (wordBytes (illegalNop w e.2))) s2
        s3.afterWord id q nop h false

/-- The effect of a class S word: its register writes at once (R119). -/
def shortWrites (f : Ctx → List (Nat × Word)) : Ctx → State → Out := fun x st =>
  .ok (st.updThread x.r fun t => t.puts (f x))

/-- Add an operation to a thread. -/
def State.addOp (s : State) (r : TRef) (o : Op) : State := s.updThread r fun t => { t with ops := t.ops ++ [o] }

/-- A new operation of a word: its window and registers (R127, R128). -/
def mkOp (id : Nat) (i : Instr) (pc : DWord) (pend : Bool) (kind : OpKind) : Op :=
  { id := id, pc := pc, win := (match i.hdr? with | some h => h.la | none => 0), closed := false, wr := writes i,
    pend := pend, sync := 0, ticket := none, kind := kind }

/-- The effect of a class L compute word: the result is in flight until it is written (R119, R129). -/
def longWrites (i : Instr) (f : Ctx → List (Nat × Word)) : Ctx → State → Out := fun x st =>
  let (id, st1) := st.fresh
  .ok (st1.addOp x.r (mkOp id i x.t.pc false (.result (f x))))

/-- A thread's registers are written after its word has issued: the blocks they lie in count as written (R273). -/
def State.marksOf (s : State) (r : TRef) (ws : List (Nat × Word)) : State :=
  s.markDirty r.core r.slot (regBlocks r.thr ws)

/-- A thread's operation ends: its registers are written, unless the thread has ended (R129, R152). -/
def State.endOp (s : State) (r : TRef) (id : Nat) (ws : List (Nat × Word)) : State :=
  match s.thread? r with
  | none => s
  | some t =>
    let on := t.ops.any (fun o => o.id == id) && !t.ended
    let s1 := s.setThread r { (if on then t.puts ws else t) with ops := t.ops.filter fun o => o.id != id }
    if on then s1.marksOf r ws else s1

/-- A waiting thread's instruction completes: D is written and the thread goes on (R43). -/
def State.endWait (s : State) (r : TRef) (ws : List (Nat × Word)) : State :=
  match s.task? r.core r.slot with
  | none => s
  | some k => ((s.updThread r fun t => { (t.puts ws) with wait := .none }).marksOf r ws).advance r k 8

end Machine
end Sys2Proof
end

