-- ==== Sys2Proof/Machine/Flags.lean ====
section
/-! DEFINITION. Values as integers, wrap and saturation (R66, R67), the integer conditions (R139) and the truth tables
of predicates (R162). -/

namespace Sys2Proof
namespace Machine

/-- Width in bits of an integer type or of .b32 (R66). -/
def Ty.bits : Ty → Nat
  | .i64 | .n64 => 64
  | .i16 | .n16 | .f16 | .bf16 => 16
  | .i8 | .n8 | .dm8 => 8
  | .i4 => 4
  | _ => 32

/-- The type is signed (R66). -/
def Ty.signed : Ty → Bool
  | .i32 | .i64 | .i16 | .i8 | .i4 => true
  | _ => false

/-- The least value of an integer type (R66). -/
def Ty.lo (t : Ty) : Int := if Ty.signed t then -(2 ^ (Ty.bits t - 1)) else 0

/-- The greatest value of an integer type (R66). -/
def Ty.hi (t : Ty) : Int := if Ty.signed t then 2 ^ (Ty.bits t - 1) - 1 else 2 ^ Ty.bits t - 1

/-- The integer that bits hold under an integer type: Exact of R142. -/
def Ty.exact (t : Ty) (v : Nat) : Int :=
  let m : Nat := v % 2 ^ Ty.bits t
  if Ty.signed t ∧ 2 ^ (Ty.bits t - 1) ≤ m then (m : Int) - 2 ^ Ty.bits t else m

/-- The nearest bound of a type's range to a value outside it. -/
def Ty.clamp (t : Ty) (x : Int) : Int := if x < Ty.lo t then Ty.lo t else if Ty.hi t < x then Ty.hi t else x

/-- Round of R142 for an integer type: wrap modulo 2^n, or clamp with .sat (R67); the n bits. -/
def Ty.round (t : Ty) (x : Int) (sat : Bool) : Nat :=
  ((if sat then Ty.clamp t x else x) % 2 ^ Ty.bits t).toNat

/-- A register of narrow type as it is written: signed narrow types fill with the sign bit, the rest with zero (R64). -/
def Ty.fill (t : Ty) (v : Nat) : Nat :=
  match t with
  | .i8 | .i16 => ((Ty.exact t v) % 2 ^ 32).toNat
  | _ => v % 2 ^ Ty.bits t

/-- The value an operand holds at the width of a type (R142). -/
def Ctx.ty (x : Ctx) (t : Ty) (o : Opnd) : Nat := if t.wide then (x.d o).toNat else (x.w o).toNat

/-- The write of a value at the width of a type. -/
def putTy (t : Ty) (o : Opnd) (v : Nat) : List (Nat × Word) :=
  if t.wide then putD o (BitVec.ofNat 64 v) else putW o (BitVec.ofNat 32 v)

/-- An integer condition (R139). -/
def Cc.holdsInt : Cc → Int → Int → Bool
  | .eq, a, b => decide (a = b)
  | .ne, a, b => decide (a ≠ b)
  | .lt, a, b => decide (a < b)
  | .le, a, b => decide (a ≤ b)
  | .gt, a, b => decide (b < a)
  | .ge, a, b => decide (b ≤ a)
  | .un, _, _ => false
  | .ord, _, _ => false

/-- Bit of a truth table at 2a + b (R162). -/
def truth (tt : Nat) (a b : Bool) : Bool := tt.testBit (2 * (if a then 1 else 0) + (if b then 1 else 0))

/-- IMM20 sign-extended (R106). -/
def imm20 (i : BitVec 20) : Int := i.toInt

end Machine
end Sys2Proof
end

