-- ==== Sys2Proof/Machine/Numbers.lean ====
section
/-! DEFINITION. Exact values and their rounding (R68 to R88): the binary formats, DM8, rounding modes, .sat, and the
correctly rounded functions of R176. -/

namespace Sys2Proof
namespace Machine

/-- An exact value with the tags of R88: NaN, an infinity, or ± n / d with d above zero. -/
inductive FNum where
  | nan
  | inf (neg : Bool)
  | fin (neg : Bool) (n d : Nat)
  deriving DecidableEq, Repr

/-- A binary format: fraction bits and exponent bits (R69 to R71). -/
structure Fmt where
  p : Nat
  eb : Nat
  deriving DecidableEq, Repr

/-- binary16 (R69). -/
def Fmt.half : Fmt := { p := 10, eb := 5 }
/-- bfloat16 (R70). -/
def Fmt.brain : Fmt := { p := 7, eb := 8 }
/-- binary32 (R71). -/
def Fmt.single : Fmt := { p := 23, eb := 8 }

/-- The bias of a format. -/
def Fmt.bias (f : Fmt) : Nat := 2 ^ (f.eb - 1) - 1
/-- The exponent field's maximum. -/
def Fmt.emax (f : Fmt) : Nat := 2 ^ f.eb - 1
/-- Width in bits. -/
def Fmt.width (f : Fmt) : Nat := f.p + f.eb + 1
/-- The denominator over which every finite value of the format is whole. -/
def Fmt.den (f : Fmt) : Nat := 2 ^ (f.bias - 1 + f.p)
/-- The code of positive infinity. -/
def Fmt.infCode (f : Fmt) : Nat := f.emax * 2 ^ f.p
/-- The default NaN (R74). -/
def Fmt.nanCode (f : Fmt) : Nat := f.infCode + 2 ^ (f.p - 1)
/-- A code with its sign bit. -/
def Fmt.signed (f : Fmt) (neg : Bool) (m : Nat) : Nat := if neg then m + 2 ^ (f.p + f.eb) else m

/-- The value a code holds (R72). -/
def Fmt.decode (f : Fmt) (v : Nat) : FNum :=
  let neg := v.testBit (f.p + f.eb)
  let e := v / 2 ^ f.p % 2 ^ f.eb
  let m := v % 2 ^ f.p
  if e = f.emax then (if m = 0 then .inf neg else .nan)
  else if e = 0 then .fin neg m f.den
  else .fin neg ((2 ^ f.p + m) * 2 ^ (e - 1)) f.den

/-- Round the quotient n / d to a whole number (R75): neg is the sign of the value rounded. -/
def roundQuot (rm : Rm) (neg : Bool) (n d : Nat) : Nat :=
  let q := n / d
  let r := n % d
  let up := match rm with
    | .rn => decide (d < 2 * r) || (decide (2 * r = d) && q % 2 == 1)
    | .rz => false
    | .ru => decide (r ≠ 0) && !neg
    | .rd => decide (r ≠ 0) && neg
  if up then q + 1 else q

/-- floor (log2 (n / d)) for n and d above zero. -/
def floorLog2 (n d : Nat) : Int :=
  let e : Int := (Nat.log2 n : Int) - Nat.log2 d
  let below := if 0 ≤ e then decide (n < d * 2 ^ e.toNat) else decide (n * 2 ^ (-e).toNat < d)
  if below then e - 1 else e

/-- The magnitude code of a rounded n / d, which may reach the code of infinity or above it (R75). -/
def Fmt.roundMag (f : Fmt) (rm : Rm) (neg : Bool) (n d : Nat) : Nat :=
  if n = 0 then 0
  else
    let e : Int := max (floorLog2 n d) (1 - (f.bias : Int))
    let q : Int := e - f.p
    let m := if 0 ≤ q then roundQuot rm neg n (d * 2 ^ q.toNat) else roundQuot rm neg (n * 2 ^ (-q).toNat) d
    ((e + f.bias - 1).toNat) * 2 ^ f.p + m

/-- The result of an overflow (R77). -/
def Fmt.overflow (f : Fmt) (rm : Rm) (neg : Bool) : Nat :=
  let toInf := match rm with
    | .rn => true
    | .rz => false
    | .ru => !neg
    | .rd => neg
  if toInf then f.infCode else f.infCode - 1

/-- Round of R142 for a binary format (R74 to R78): the default NaN, overflow by mode, and .sat. -/
def Fmt.round (f : Fmt) (rm : Rm) (sat : Bool) : FNum → Nat
  | .nan => if sat then 0 else f.nanCode
  | .inf neg => f.signed neg (if sat then f.infCode - 1 else f.infCode)
  | .fin neg n d =>
    let m := f.roundMag rm neg n d
    let m1 := if f.infCode ≤ m then f.overflow rm neg else m
    f.signed neg (if sat ∧ f.infCode ≤ m1 then f.infCode - 1 else m1)

/- ## Exact arithmetic -/

/-- The sign of an exact zero (R76). -/
def zeroSign (rm : Rm) (na nb : Bool) (bothZero : Bool) : Bool :=
  if bothZero ∧ na = nb then na else decide (rm = .rd)

/-- An exact sum with the sign rules of zero (R76, R173). -/
def FNum.add (rm : Rm) : FNum → FNum → FNum
  | .nan, _ => .nan
  | _, .nan => .nan
  | .inf a, .inf b => if a = b then .inf a else .nan
  | .inf a, .fin .. => .inf a
  | .fin .., .inf b => .inf b
  | .fin sa na da, .fin sb nb db =>
    let d := if da = db then da else da * db
    let x := if da = db then na else na * db
    let y := if da = db then nb else nb * da
    if sa = sb then (if x + y = 0 then .fin (zeroSign rm sa sb true) 0 d else .fin sa (x + y) d)
    else if x = y then .fin (zeroSign rm sa sb (x == 0)) 0 d
    else if y < x then .fin sa (x - y) d
    else .fin sb (y - x) d

/-- The negation. -/
def FNum.neg : FNum → FNum
  | .nan => .nan
  | .inf a => .inf !a
  | .fin a n d => .fin (!a) n d

/-- An exact product (R88, R173). -/
def FNum.mul : FNum → FNum → FNum
  | .nan, _ => .nan
  | _, .nan => .nan
  | .inf a, .inf b => .inf (a != b)
  | .inf a, .fin b n _ => if n = 0 then .nan else .inf (a != b)
  | .fin a n _, .inf b => if n = 0 then .nan else .inf (a != b)
  | .fin a na da, .fin b nb db => .fin (a != b) (na * nb) (da * db)

/-- The value is a zero. -/
def FNum.isZero : FNum → Bool
  | .fin _ 0 _ => true
  | _ => false

/-- An exact result of zero from operands that are not all zero has the sign that the rounding mode gives it (R76, R173). -/
def FNum.signed (rm : Rm) (ops : List FNum) : FNum → FNum
  | .fin a 0 d => .fin (if ops.all FNum.isZero then a else decide (rm = .rd)) 0 d
  | y => y

/-- The product of a multiply word (R173, R178). -/
def FNum.times (rm : Rm) (a b : FNum) : FNum := (FNum.mul a b).signed rm [a, b]

/-- The exact a × b + c of a fused word (R173, R178). -/
def FNum.fused (rm : Rm) (a b c : FNum) : FNum := (FNum.add rm (FNum.mul a b) c).signed rm [a, b, c]

/-- a < b for values that are no NaN; the zeros are equal. -/
def FNum.lt : FNum → FNum → Bool
  | .nan, _ => false
  | _, .nan => false
  | .inf a, .inf b => a && !b
  | .inf a, .fin .. => a
  | .fin .., .inf b => !b
  | .fin sa na da, .fin sb nb db =>
    let x : Int := if sa then -(na * db : Nat) else (na * db : Nat)
    let y : Int := if sb then -(nb * da : Nat) else (nb * da : Nat)
    decide (x < y)

/-- A floating-point condition (R139). -/
def Cc.holdsFloat (cc : Cc) (a b : FNum) : Bool :=
  let un := decide (a = .nan) || decide (b = .nan)
  let lt := a.lt b
  let gt := b.lt a
  match cc with
  | .eq => !un && !lt && !gt
  | .ne => un || lt || gt
  | .lt => lt
  | .le => !un && !gt
  | .gt => gt
  | .ge => !un && !lt
  | .un => un
  | .ord => !un

/-- The sign tag of a value. -/
def FNum.sign : FNum → Bool
  | .nan => false
  | .inf a => a
  | .fin a _ _ => a

/-- minimumNumber, −0 below +0 (R79). -/
def FNum.minNum : FNum → FNum → FNum
  | .nan, b => b
  | a, .nan => a
  | a, b => if a.lt b then a else if b.lt a then b else if a.sign then a else b

/-- maximumNumber (R79). -/
def FNum.maxNum : FNum → FNum → FNum
  | .nan, b => b
  | a, .nan => a
  | a, b => if a.lt b then b else if b.lt a then a else if a.sign then b else a

/-- a × 2^b (R172, R173): beyond 2000 either way the rounded result no longer changes. -/
def FNum.scale (b : Int) : FNum → FNum
  | .fin s n d => if n = 0 then .fin s n d else if 0 ≤ b then .fin s (n * 2 ^ (min b 2000).toNat) d else .fin s n (d * 2 ^ (min (-b) 2000).toNat)
  | x => x

/-- An integer as an exact value. -/
def FNum.ofInt (x : Int) : FNum := .fin (decide (x < 0)) x.natAbs 1

/- ## DM8 -/

/-- Leading zeros of a 6-bit tail above zero (R81). -/
def dm8Lead (t : Nat) : Nat := 5 - Nat.log2 t

/-- The magnitude of a DM8 code over the common denominator 2^5 × 10^6, the code's sign apart (R81). -/
def dm8Mag (code : Nat) : Nat :=
  let t := code % 64
  if t = 0 then 0
  else
    let z := dm8Lead t
    let w := 5 - z
    let f := t % 2 ^ w
    let e6 := if code.testBit 6 then 6 + z else 5 - z
    (2 ^ w + 9 * f) * 2 ^ (5 - w) * 10 ^ e6

/-- The common denominator of the DM8 values. -/
def dm8Den : Nat := 2 ^ 5 * 10 ^ 6

/-- The value a DM8 code holds (R81). -/
def dm8Decode (v : Nat) : FNum :=
  if v % 128 = 64 then .nan else .fin (v.testBit 7) (dm8Mag v) dm8Den

/-- Distance of two natural numbers. -/
def natDist (a b : Nat) : Nat := (a - b) + (b - a)

/-- The nearer of two grid codes to n / d; on a tie the even code, else the lesser magnitude (R83). -/
def dm8Nearer (n d : Nat) (c e : Nat) : Nat :=
  let dc := natDist (n * dm8Den) (dm8Mag c * d)
  let de := natDist (n * dm8Den) (dm8Mag e * d)
  if dc < de then c else if de < dc then e
  else if c % 2 = 0 ∧ e % 2 = 1 then c else if e % 2 = 0 ∧ c % 2 = 1 then e
  else if dm8Mag c ≤ dm8Mag e then c else e

/-- The positive grid codes above zero. -/
def dm8Codes : List Nat := (List.range' 1 127).filter fun c => c != 64

/-- Conversion into DM8 (R83). -/
def dm8Round : FNum → Nat
  | .nan => 0x40
  | .inf neg => if neg then 0xC1 else 0x41
  | .fin neg n d => (if neg then 128 else 0) + dm8Codes.foldl (dm8Nearer n d) 0

/- ## Conversions by type (R85 to R87) -/

/-- The binary format of a type; .f32 for the types that are none. -/
def Ty.fmt : Ty → Fmt
  | .f16 => Fmt.half
  | .bf16 => Fmt.brain
  | _ => Fmt.single

/-- The type is an integer type. -/
def Ty.isInt : Ty → Bool
  | .f32 | .f16 | .bf16 | .dm8 => false
  | _ => true

/-- Exact of R142 for every type of R85. -/
def Ty.value (t : Ty) (v : Nat) : FNum :=
  match t with
  | .dm8 => dm8Decode (v % 256)
  | .f32 | .f16 | .bf16 => (Ty.fmt t).decode (v % 2 ^ (Ty.fmt t).width)
  | _ => FNum.ofInt (Ty.exact t v)

/-- A floating-point value rounded to an integer and saturated (R86). -/
def Ty.toInt (t : Ty) (rm : Rm) : FNum → Int
  | .nan => 0
  | .inf neg => if neg then Ty.lo t else Ty.hi t
  | .fin neg n d =>
    let q : Int := roundQuot rm neg n d
    Ty.clamp t (if neg then -q else q)

/-- CVT on values (R85 to R87): the bits written to D, filled by R64. -/
def cvtVal (dt st : Ty) (rm : Rm) (sat : Bool) (v : Nat) : Nat :=
  match dt with
  | .dm8 => dm8Round (Ty.value st v)
  | .f32 | .f16 | .bf16 => (Ty.fmt dt).round rm sat (Ty.value st v)
  | _ =>
    if Ty.isInt st then Ty.fill dt (Ty.round dt (Ty.exact st v) sat)
    else Ty.fill dt ((Ty.toInt dt rm (Ty.value st v) % 2 ^ Ty.bits dt).toNat)

/- ## Correctly rounded functions (R176, R177) -/

/-- floor of the square root, bit by bit from 2^k down. -/
def isqrtFrom : Nat → Nat → Nat → Nat
  | 0, _, r => r
  | k + 1, m, r => isqrtFrom k m (if (r + 2 ^ k) * (r + 2 ^ k) ≤ m then r + 2 ^ k else r)

/-- floor of the square root. -/
def isqrt (m : Nat) : Nat := isqrtFrom (Nat.log2 m / 2 + 1) m 0

/-- The square root of n / d to 200 binary places: exact where it is a value of the grid, else a value strictly
between two neighbours of it, on the same side of every rounding boundary. -/
def sqrtVal (n d : Nat) : FNum :=
  let m := n * 4 ^ 200
  let s := isqrt (m / d)
  if s * s * d = m then .fin false s (2 ^ 200) else .fin false (2 * s + 1) (2 ^ 201)

/-- 1 / a (R177). -/
def frcpVal : FNum → FNum
  | .nan => .nan
  | .inf neg => .fin neg 0 1
  | .fin neg n d => if n = 0 then .inf neg else .fin neg d n

/-- 1 / √a (R177). -/
def frsqVal : FNum → FNum
  | .nan => .nan
  | .inf neg => if neg then .nan else .fin false 0 1
  | .fin neg n d => if n = 0 then .inf neg else if neg then .nan else sqrtVal d n

/-- √a (R177). -/
def fsqrtVal : FNum → FNum
  | .nan => .nan
  | .inf neg => if neg then .nan else .inf false
  | .fin neg n d => if n = 0 then .fin neg 0 1 else if neg then .nan else sqrtVal n d

/-- Σ of 2^p / (k · q^k) over odd k, with alternating signs where alt: atan or atanh of 1 / q. -/
def atanTerms (alt : Bool) (q : Nat) : Nat → Nat → Nat → Int
  | 0, _, _ => 0
  | fuel + 1, k, pw =>
    let t : Int := (pw / k : Nat)
    t + (if alt then -1 else 1) * atanTerms alt q fuel (k + 2) (pw / (q * q))

/-- π to p binary places, from below to within 2^12 units. -/
def piFix (p : Nat) : Nat :=
  (16 * atanTerms true 5 p 1 (2 ^ p / 5) - 4 * atanTerms true 239 p 1 (2 ^ p / 239)).toNat

/-- ln 2 to p binary places, from below to within 2^12 units. -/
def ln2Fix (p : Nat) : Nat := (2 * atanTerms false 3 p 1 (2 ^ p / 3)).toNat

/-- Σ over k of y^k / k! in fixed point: the exponential. -/
def expTerms (p y : Nat) : Nat → Nat → Nat → Nat
  | 0, _, _ => 0
  | fuel + 1, k, t => t + expTerms p y fuel (k + 1) (t * y / 2 ^ p / k)

/-- Σ of the alternating series of the sine in fixed point. -/
def sinTerms (p y : Nat) : Nat → Nat → Nat → Int
  | 0, _, _ => 0
  | fuel + 1, k, t => (t : Int) - sinTerms p y fuel (k + 2) (t * y / 2 ^ p * y / 2 ^ p / ((k + 1) * (k + 2)))

/-- Σ of z^k / k over odd k in fixed point: atanh z. -/
def atanhTerms (p z2 : Nat) : Nat → Nat → Nat → Nat
  | 0, _, _ => 0
  | fuel + 1, k, t => t / k + atanhTerms p z2 fuel (k + 2) (t * z2 / 2 ^ p)

/-- The precisions tried in turn, in binary places. -/
def precisions : List Nat := [256, 512, 1024]

/-- Round a value known to lie within 2^24 units of a fixed-point number: the first precision at which both ends round
alike decides; a value that rounds alike at none would be rounded from below (log entry 17). -/
def roundNear (approx : Nat → Bool × Nat) : List Nat → FNum
  | [] => .nan
  | p :: ps =>
    let (neg, x) := approx p
    let lo := x - 2 ^ 24
    let hi := x + 2 ^ 24
    if ps = [] ∨ Fmt.single.roundMag .rn neg lo (2 ^ p) = Fmt.single.roundMag .rn neg hi (2 ^ p) then .fin neg x (2 ^ p)
    else roundNear approx ps

/-- 2^(n / d) for 0 ≤ n < d, in fixed point. -/
def ex2Fix (n d p : Nat) : Nat := expTerms p (ln2Fix p * n / d) p 1 (2 ^ p)

/-- 2^a (R177): the exponent's whole part scales a power between 1 and 2. -/
def fex2Val : FNum → FNum
  | .nan => .nan
  | .inf neg => if neg then .fin false 0 1 else .inf false
  | .fin neg n d =>
    let x : Int := if neg then -(n : Int) else n
    let i : Int := x / d
    let f := (x % d).toNat
    if f = 0 then (FNum.fin false 1 1).scale i
    else if 1000 < i then (FNum.fin false 1 1).scale 1000
    else if i < -1000 then (FNum.fin false 1 1).scale (-1000)
    else roundNear (fun p =>
      (false, if 0 ≤ i then ex2Fix f d p * 2 ^ i.toNat else ex2Fix f d p / 2 ^ (-i).toNat)) precisions

/-- log2 of n / d, sign and magnitude in fixed point: the characteristic plus the logarithm of a value in [1, 2). -/
def lg2Fix (n d p : Nat) : Bool × Nat :=
  let e := floorLog2 n d
  let mn := if 0 ≤ e then n else n * 2 ^ (-e).toNat
  let md := if 0 ≤ e then d * 2 ^ e.toNat else d
  let z := (mn - md) * 2 ^ p / (mn + md)
  let l := 2 * atanhTerms p (z * z / 2 ^ p) p 1 z * 2 ^ p / ln2Fix p
  let t : Int := e * 2 ^ p + l
  (decide (t < 0), t.natAbs)

/-- log2 a (R177). -/
def flg2Val : FNum → FNum
  | .nan => .nan
  | .inf neg => if neg then .nan else .inf false
  | .fin neg n d =>
    if n = 0 then .inf true else if neg then .nan
    else
      let e := floorLog2 n d
      if (if 0 ≤ e then n == d * 2 ^ e.toNat else n * 2 ^ (-e).toNat == d) then FNum.ofInt e
      else roundNear (lg2Fix n d) precisions

/-- ± sin(π · n / d) for 0 ≤ n / d ≤ 1/2. -/
def sinPi (neg : Bool) (n d : Nat) : FNum :=
  if n = 0 then .fin neg 0 1
  else if 2 * n = d then .fin neg 1 1
  else roundNear (fun p => let y := piFix p * n / d; (neg, (sinTerms p y p 1 y).toNat)) precisions

/-- sin(π · a) (R177): an integer gives a zero of a's sign. -/
def ftrigSin : FNum → FNum
  | .nan => .nan
  | .inf _ => .nan
  | .fin neg n d =>
    let r := n % (2 * d)
    let flip := decide (d ≤ r)
    let s := if flip then r - d else r
    if s = 0 then .fin neg 0 1
    else sinPi (neg != flip) (if d < 2 * s then d - s else s) d

/-- cos(π · a) (R177): an odd half gives +0. -/
def ftrigCos : FNum → FNum
  | .nan => .nan
  | .inf _ => .nan
  | .fin _ n d =>
    let r := n % (2 * d)
    let flip := decide (d ≤ r)
    let s := if flip then r - d else r
    if 2 * s = d then .fin false 0 1
    else if 2 * s < d then sinPi flip (d - 2 * s) (2 * d)
    else sinPi (!flip) (2 * s - d) (2 * d)

/- ## Classes and sums -/

/-- FCLS of a code under a type (R175). -/
def fclsVal (t : Ty) (v : Nat) : Nat :=
  match Ty.value t v with
  | .nan => 256
  | .inf neg => if neg then 1 else 128
  | .fin neg n _ =>
    if n = 0 then (if neg then 8 else 16)
    else
      let f := Ty.fmt t
      let sub := decide (t ≠ .dm8) && v / 2 ^ f.p % 2 ^ f.eb == 0
      if neg then (if sub then 4 else 2) else (if sub then 32 else 64)

/-- An .f32 value. -/
def f32 (w : Word) : FNum := Fmt.single.decode w.toNat

/-- RoundF32 (R88). -/
def roundF32 (x : FNum) : Word := BitVec.ofNat 32 (Fmt.single.round .rn false x)

/-- The exact sum of a list, whose zero is +0 (R186 steps 1, 2 and 4). -/
def sumExact (xs : List FNum) : FNum := xs.foldl (FNum.add .rn) (.fin false 0 1)

end Machine
end Sys2Proof
end

