-- ==== Sys2Proof/Machine/Versions.lean ====
section
/-! DEFINITION. Versions and commits (R211 to R214), invalidations and acknowledgement counts (R196), remote writes and
the peer record (R204, R326 to R328), weak vein updates at a commit (R311), and writes by units other than tasks. -/

namespace Sys2Proof
namespace Machine

/-- Contiguous runs of a byte table. -/
def runsOf : Map Byte → List (Nat × List Byte)
  | [] => []
  | (k, b) :: m =>
    match runsOf m with
    | (k2, bs) :: rest => if k2 = k + 1 then (k, b :: bs) :: rest else (k, [b]) :: (k2, bs) :: rest
    | [] => [(k, [b])]

/- ## Invalidations -/

/-- Other cores hold tracked copies of a grain that a range touches. -/
def State.copiesOut (s : State) (core lo n : Nat) : Bool := s.cores.any fun e => e.1 != core && e.2.l1.any fun x => x.2.hitBy lo n

/-- Send an invalidation to every other core whose L1 holds a copy of a grain the range touches; each writer counts
each acknowledgement it expects (R196). -/
def State.invalidate (s : State) (core : Nat) (ws : List TRef) (lo n : Nat) : State :=
  s.cores.foldl (fun st e =>
    if e.1 ≠ core ∧ (e.2.l1.any fun x => x.2.hitBy lo n) then
      let (id, st1) := st.fresh
      ws.foldl (fun st2 w => st2.updThread w fun t => { t with acks := t.acks + 1 })
        { st1 with invs := Assoc.put st1.invs id { core := e.1, lo := lo, n := n, writers := ws } }
    else st) s

/- ## The snoop filter and CXL.cache (R435 to R437) -/

/-- Drop every tracked L1 copy of a range of bytes: untracked host copies are not snooped (R197). -/
def State.l1Recall (s : State) (lo n : Nat) : State :=
  { s with cores := s.cores.map fun c => (c.1, { c.2 with l1 := c.2.l1.filter fun y => !(decide (0 < y.2.grain) && y.2.touches lo n) }) }

/-- The snoop filter's entries, their ways and sets (R435). -/
def sfSets : Nat := 65536
def sfWays : Nat := 16

/-- Make room in the set of a line: with the set full, a victim's copies are recalled first (R435; log entry 77). -/
def State.sfRoom (s : State) (line : Nat) : State :=
  let here := s.host.filter.filter fun e => e.1 % sfSets == line % sfSets
  if here.length < sfWays then s
  else
    let (f, s1) := s.useFree
    match here[Config.victim f % here.length]? with
    | some e => { s1.l1Recall (hostKey (64 * e.1)) 64 with host := { s1.host with filter := Assoc.del s1.host.filter e.1 } }
    | none => s1

/-- A host line is cached through one pair at a time: a fill through a second pair first recalls the copies held through
the first (R435). -/
def State.sfFill (s : State) (asid va key : Nat) : State :=
  let line := (key - 2 ^ 64) / 64
  let e : SfEntry := { asid := asid, va := va / 64 * 64, writable := false }
  match Assoc.find? s.host.filter line with
  | some x =>
    if x.asid = e.asid ∧ x.va = e.va then s
    else { s.l1Recall (hostKey (64 * line)) 64 with host := { s.host with filter := Assoc.put s.host.filter line e } }
  | none =>
    let s1 := s.sfRoom line
    { s1 with host := { s1.host with filter := Assoc.put s1.host.filter line e } }

/-- An access to a granule in HOST obtains its line from the host (R437). -/
def State.cxlAsk (s : State) (key : Nat) (own : Bool) : State :=
  match Assoc.find? s.host.bias (key / 2 ^ 16) with
  | some .host => s.send (.cxlCache (key / 64 * 64) own)
  | _ => s

/-- The pair through which a translation that the TLBs hold reaches a host line. -/
def State.hostPair (s : State) (line : Nat) : Option (Nat × Nat) :=
  (s.tlb.find? fun e => decide (2 ^ 57 ≤ e.1) && e.2.1 == line / 64 + 2 ^ 52 && e.2.2).map fun e =>
    (xlAsid e.1, (e.1 - 2 ^ 57) % 2 ^ 45 * 4096 + line % 64 * 64)

/-- A host line is obtained to be written: its entry says so, and one that a snoop has taken away is entered again (R435,
R436). -/
def State.sfOwnLine (s : State) (line : Nat) : State :=
  let own := fun (st : State) =>
    { st with host := { st.host with filter := Assoc.modify st.host.filter line fun (e : SfEntry) => { e with writable := true } } }
  match Assoc.find? s.host.filter line, s.hostPair line with
  | none, some p => own (s.sfFill p.1 p.2 (hostKey (64 * line)))
  | _, _ => own s

/-- A write of n bytes to host lines, or to a granule in HOST, is made on copies that may be written (R435 to R437). -/
def State.sfOwn (s : State) (key n : Nat) : State :=
  if 2 ^ 64 ≤ key ∧ key < 2 ^ 65 then
    (List.range ((key + n - 1) / 64 - key / 64 + 1)).foldl (fun st i => st.sfOwnLine ((key - 2 ^ 64) / 64 + i)) s
  else s.cxlAsk key true

/-- A write of some threads of one core performed at its home: the core's own copies updated, other copies invalidated,
the line taken back from the atomic cache. -/
def State.pokeFor (s : State) (core : Nat) (ws : List TRef) (key : Nat) (bs : List Byte) : State :=
  ((((s.acacheTake key).poke key bs).sfOwn key bs.length).l1Patch core key bs).invalidate core ws key bs.length

/-- A write of one thread. -/
def State.pokeBy (s : State) (w : TRef) (key : Nat) (bs : List Byte) : State := s.pokeFor w.core [w] key bs

/- ## Peers -/

/-- Enter a peer in a task's record: the first sixteen by name, all of them in the count of distinct ones (R250, R328). -/
def Task.notePeer (k : Task) (c : Nat) : Task :=
  if k.peersSeen.contains c then k
  else
    let k1 := { k with peersSeen := k.peersSeen ++ [c], peerCount := min (k.peersSeen.length + 1) 255 }
    if k.peers.length < 16 then { k1 with peers := k.peers ++ [c] } else { k1 with peerOvf := true }

/-- A store or reduction of a thread is dropped at a peer (R326, R328). -/
def State.dropWrite (s : State) (r : TRef) (c : Nat) : State :=
  (s.updThread r fun t => { t with drop := true }).updTask r.core r.slot fun k => k.notePeer c

/-- A write to the wake port that is no wake write is dropped and counted (R372, R395). -/
def State.portDrop (s : State) : State := { s with plat := { s.plat with portDrops := s.plat.portDrops + 1 } }
def State.portMiss (s : State) (off : Nat) : State := if off < 4096 then s.portDrop else s

/- ## The vein (R311) -/

/-- The greatest entry of a list of numbers; zero for none. -/
def maxOf (xs : List Nat) : Nat := xs.foldl max 0

/-- The sequence a member's next update takes (R311). -/
def VeinSet.nextSeq (v : VeinSet) : Nat := 1 + maxOf v.appl

/-- Commits that carry vein writes, and slot requests, wait: a sweep, a departure's freeze, or the last sequence (R319,
R323). -/
def VeinSet.held (v : VeinSet) : Bool := v.sweep.isSome || !v.frozen.isEmpty || decide (2 ^ 28 - 1 < v.nextSeq)

/-- Set an entry of a vector. -/
def setAt (xs : List Nat) (i v : Nat) : List Nat := xs.zipIdx.map fun e => if e.2 = i then v else e.1

/-- A stamp: rank in [31:28], sequence below (R309). -/
def stampOf (rank seq : Nat) : Nat := rank * 2 ^ 28 + seq

/-- The packets of an update of n sectors (R312). -/
def packetsOf (n : Nat) : Nat := max 1 ((n + 15) / 16)

/-- The packets of an update: up to sixteen sectors each, all with one header and one dependency vector (R312). -/
def updatePackets (u : VUpdate) : List VPacket :=
  (List.range u.packets).map fun i =>
    { vsid := u.vsid, epoch := u.epoch, kind := u.kind, rank := u.rank, wg := u.wg, last := i + 1 == u.packets, seq := u.seq,
      slot := u.slot, dep := u.dep, sectors := (u.sectors.drop (16 * i)).take 16 }

/-- The bytes of a packet, in the layout of R312: the dependency vector takes 28 bits each, dep[0] lowest. -/
def packetBytes (p : VPacket) : List Byte :=
  leBytes 2 p.vsid ++ leBytes 2 p.epoch ++ leBytes 1 p.kind ++ leBytes 1 (p.rank % 16 + if p.wg then 16 else 0) ++
  leBytes 1 p.sectors.length ++ leBytes 1 (if p.last then 1 else 0) ++ leBytes 4 (p.seq % 2 ^ 28) ++ leBytes 8 p.slot ++
  ((List.range 16).flatMap fun i => leBytes 4 ((p.sectors.map Prod.fst).getD i 0)) ++
  leBytes 56 (((List.range 16).map fun i => p.dep.getD i 0 % 2 ^ 28 * 2 ^ (28 * i)).sum) ++ p.sectors.flatMap Prod.snd

/-- Send an update to every other member. -/
def State.sendUpdate (s : State) (v : VeinSet) (u : VUpdate) : State :=
  if 1 < v.members.length then (updatePackets u).foldl (fun st p => st.send (.vein p)) s else s

/-- An update made at this member: one atomic step (R311). Strong updates carry their slot. -/
def State.veinUpdate (s : State) (slot kind slotNo : Nat) (sectors : List (Nat × List Byte)) : State :=
  match Assoc.find? s.veins slot with
  | none => s
  | some v =>
    let seq := v.nextSeq
    let u : VUpdate := { vsid := v.vsid, epoch := v.epoch, kind := kind, rank := v.rank, wg := v.wg, seq := seq,
                         slot := slotNo, dep := v.appl, sectors := sectors, packets := packetsOf sectors.length, whole := true }
    let s1 := sectors.foldl (fun st e => st.pokeCoh (veinKey slot (32 * e.1)) e.2) s
    let v1 := { v with
      appl := setAt v.appl v.rank seq
      stamps := sectors.foldl (fun m e => Assoc.setD m 0 e.1 (stampOf v.rank seq)) v.stamps
      past := v.past ++ [u] }
    let s2 := { s1 with veins := Assoc.put s1.veins slot v1 }
    let s3 := s2.sendUpdate v u
    if 2 ^ 28 - 2 ^ 24 ≤ seq ∧ v.sweep.isNone then
      (if v.banksman = v.rank then { s3 with agenda := s3.agenda ++ [.sweepMarkerReceive slot v.nextSlot] }
       else s3.send (.sweepReq v.vsid))
    else s3

/-- The whole sectors of a set slot that a version touches, as the version holds them (R311). -/
def State.veinSectors (s : State) (ver : Map Byte) (slot : Nat) : List (Nat × List Byte) :=
  let ix := (ver.filterMap fun e => match s.homeOf e.1 with
    | .vein n off => if n = slot then some (off / 32) else none
    | _ => none).dedup
  ix.map fun i => (i, (List.range 32).map fun j =>
    match Assoc.find? ver (veinKey slot (32 * i + j)) with
    | some b => b
    | none => Memory.read s.mem (veinKey slot (32 * i + j)))

/- ## Commit (R212, R213) -/

/-- The set slots a version writes. -/
def State.veinSlots (s : State) (ver : Map Byte) : List Nat :=
  (ver.filterMap fun e => match s.homeOf e.1 with | .vein n _ => some n | _ => none).dedup

/-- The peers a version writes. -/
def State.peerHomes (s : State) (ver : Map Byte) : List Nat :=
  (ver.filterMap fun e => match s.homeOf e.1 with | .peer c => some c | _ => none).dedup

/-- A commit of the task waits: it carries vein writes of a set that holds them (R319, R323). -/
def State.commitHeld (s : State) (k : Task) : Bool :=
  (s.veinSlots k.version).any fun n =>
    match Assoc.find? s.veins n with
    | some v => v.held
    | none => false

/-- The part of a version with a home served by this chip. -/
def State.localPart (s : State) (ver : Map Byte) : Map Byte :=
  ver.filter fun e => match s.homeOf e.1 with | .own | .host | .priv => true | _ => false

/-- The part of a version at one peer. -/
def State.peerPart (s : State) (ver : Map Byte) (c : Nat) : Map Byte :=
  ver.filter fun e => decide (s.homeOf e.1 = .peer c)

/-- The bytes of a commit for one peer: sent, with the tracked copies that other cores of this chip hold of them invalidated
and counted as those of any line (R196), or dropped for the threads that wrote them (R326). -/
def State.commitPeer (s : State) (core slot : Nat) (k : Task) (c : Nat) : State :=
  let thrs := (k.vpeers.filterMap fun e => if e.1 = c then some e.2 else none).dedup
  let cells := s.peerPart k.version c
  if s.peerOpen c then
    (runsOf cells).foldl (fun st e => st.invalidate core (thrs.map fun i => ⟨core, slot, i⟩) e.1 e.2.length)
      (s.sendRemote { peer := c, uid := k.uid, core := core, thrs := thrs, copy := none, poison := false, cells := cells })
  else thrs.foldl (fun st i => st.dropWrite ⟨core, slot, i⟩ c) s

/-- Whom the acknowledgements for a range of a commit are counted on: the threads that wrote in its lines, and the thread
that commits (R196, R212; log entry 76). -/
def Task.writersOf (k : Task) (w : TRef) (lo n : Nat) : List TRef :=
  ((k.vlines.filter fun e => decide (lo / 512 ≤ e.1) && decide (e.1 ≤ (lo + n - 1) / 512)).map
    (fun e => (⟨w.core, w.slot, e.2⟩ : TRef)) ++ [w]).dedup

/-- Commit(): the task's whole version takes effect at this chip in one step, its bytes for peers are sent, and its
vein sectors form one weak update of each set (R212, R213, R311). -/
def State.commit (s : State) (w : TRef) : State :=
  match s.task? w.core w.slot with
  | none => s
  | some k =>
    let s1 := (runsOf (s.localPart k.version)).foldl (fun st e => st.pokeFor w.core (k.writersOf w e.1 e.2.length) e.1 e.2) s
    let s2 := (s.peerHomes k.version).foldl (fun st c => st.commitPeer w.core w.slot k c) s1
    let s3 := (s.veinSlots k.version).foldl (fun st n => st.veinUpdate n 0 0 (s.veinSectors k.version n)) s2
    s3.updTask w.core w.slot fun k1 =>
      { k1.discard with ckpt := k1.ckpt.map fun c => { c with clean := false } }

/-- The peers whose bytes go ahead of a release's commit: all but the one that the released store itself goes to. A store
that releases is part of its own commit (R241), so what the commit makes visible must be so wherever the store's reader
may look, before the commit takes effect (R196, R202, R223, R225): the version's bytes at other peers are sent first, and
no stale tracked copy of its local lines is left (log entry 75). -/
def State.aheadPeers (s : State) (k : Task) (keep : Option Nat) : List Nat :=
  (s.peerHomes k.version).filter fun c => keep != some c

/-- Nothing of a release's commit is left to be done ahead of it. -/
def State.prepared (s : State) (core : Nat) (k : Task) (keep : Option Nat) : Bool :=
  (s.aheadPeers k keep).isEmpty && !((runsOf (s.localPart k.version)).any fun e => s.copiesOut core e.1 e.2.length)

/-- What goes ahead of a release's commit: the stale copies are invalidated, and the bytes of those peers sent. A commit that
has begun so takes effect whatever becomes of its task (R213; log entry 95). -/
def State.prepare (s : State) (w : TRef) (k : Task) (keep : Option Nat) : State :=
  let ps := s.aheadPeers k keep
  let s1 := (runsOf (s.localPart k.version)).foldl
    (fun st e => st.invalidate w.core (k.writersOf w e.1 e.2.length) e.1 e.2.length) s
  let s2 := ps.foldl (fun st c => st.commitPeer w.core w.slot k c) s1
  let rest := k.version.filter fun e => match s.homeOf e.1 with | .peer c => !ps.contains c | _ => true
  s2.updTask w.core w.slot fun k1 =>
    { k1 with
      version := rest
      owed := if ps.isEmpty then k1.owed else rest
      vpeers := k1.vpeers.filter fun e => !ps.contains e.1
      ckpt := if ps.isEmpty then k1.ckpt else k1.ckpt.map fun c => { c with clean := false } }

/-- What is left of a commit that has begun takes effect, once no set holds it (R213, R319, R323). -/
def State.payOwed (s : State) (x : OwedCommit) : State :=
  let s1 := (runsOf (s.localPart x.cells)).foldl (fun st e => st.pokeFor x.core [] e.1 e.2) s
  let s2 := (s.peerHomes x.cells).foldl (fun st c =>
    if st.peerOpen c then
      st.sendRemote { peer := c, uid := x.uid, core := x.core, thrs := [], copy := none, poison := false, cells := s.peerPart x.cells c }
    else st) s1
  (s.veinSlots x.cells).foldl (fun st n => st.veinUpdate n 0 0 (s.veinSectors x.cells n)) s2

/-- Every commit of a stopped task that can take effect does. -/
def State.owedSettle (s : State) : State :=
  let waits := fun (x : OwedCommit) => (s.veinSlots x.cells).any fun n => match Assoc.find? s.veins n with | some v => v.held | none => false
  (s.fab.owed.filter fun x => !waits x).foldl State.payOwed { s with fab := { s.fab with owed := s.fab.owed.filter waits } }

/-- Distinct 512-byte lines of a version (R211). -/
def lineCount (m : Map Byte) : Nat := ((m.map fun e => e.1 / 512).dedup).length

/-- The bytes of a version that this chip's L2 holds: a peer's are at their owner's home (R211). -/
def State.heldHere (s : State) (m : Map Byte) : Map Byte := m.filter fun e => match s.homeOf e.1 with | .peer _ => false | _ => true

/-- Lines of every version that the chip's L2 holds, those of saved tasks among them (R211, R415). -/
def State.verLines (s : State) : Nat :=
  (s.tasks.map fun e => lineCount (s.heldHere e.2.version)).sum +
    (s.agents.saved.map fun e => lineCount (s.heldHere e.2.task.version)).sum

/-- The version quota of a task in 512-byte lines (R211, R391). -/
def State.quota (s : State) (k : Task) : Nat :=
  let q := s.vqmb k.asid
  (if q = 0 then 2 else min q 16) * 2048

/-- Put bytes into a version. -/
def verPut (m : Map Byte) (a : Nat) : List Byte → Map Byte
  | [] => m
  | b :: bs => verPut (Assoc.put m a b) (a + 1) bs

/-- A write would exceed the task's quota or the chip's quarter of L2 (R211, R212). -/
def State.overflows (s : State) (k : Task) (key : Nat) (bs : List Byte) : Bool :=
  let new := verPut k.version key bs
  decide (s.quota k < lineCount new) ||
    decide (98304 < s.verLines - lineCount (s.heldHere k.version) + lineCount (s.heldHere new))

/-- n more lines could exceed the quota or the chip's quarter of L2. -/
def State.overflowsBy (s : State) (k : Task) (n : Nat) : Bool :=
  decide (s.quota k < lineCount k.version + n) || decide (98304 < s.verLines + n)

/-- A write of a thread enters its task's version; an overflow commits first (R211, R213); a write to a peer that
takes none is dropped (R326). -/
def State.verWrite (s : State) (r : TRef) (key : Nat) (bs : List Byte) : State :=
  match s.task? r.core r.slot with
  | none => s
  | some k =>
    let put := fun (st : State) => st.updTask r.core r.slot fun k1 =>
      { k1 with
        version := verPut k1.version key bs
        vlines := ((k1.vlines ++ (List.range ((key + bs.length - 1) / 512 - key / 512 + 1)).map fun i => (key / 512 + i, r.thr))).dedup
        vpeers := match st.homeOf key with
          | .peer c => if k1.vpeers.contains (c, r.thr) then k1.vpeers else k1.vpeers ++ [(c, r.thr)]
          | _ => k1.vpeers }
    match s.homeOf key with
    | .peer c => if s.peerOpen c then put (if s.overflows k key bs then s.commit r else s) else s.dropWrite r c
    | _ => put (if s.overflows k key bs then s.commit r else s)

/- ## What commit points and fences wait for (R196, R204, R212) -/

/-- A store of the thread that has not been performed. -/
def Op.openStore (o : Op) : Bool :=
  match o.kind with
  | .store .. => true
  | _ => false

/-- An access of the thread waits on a ticket: later releases, fences and commit points wait for its replay (R402). -/
def Thread.onTicket (t : Thread) : Bool := t.ops.any fun o => o.ticket.isSome

/-- A thread may commit: its earlier stores have entered the version, none of its accesses is on a ticket, its
acknowledgement count is zero, and no set holds the commit (R196, R212, R402). -/
def State.mayCommit (s : State) (k : Task) (t : Thread) : Bool :=
  !(t.ops.any Op.openStore) && !t.onTicket && t.acks == 0 && !s.commitHeld k

/-- A write of a thread enters the version, or overflows it at a moment when the thread may commit: earlier are the
operations it issued before the write (R211, R212). -/
def State.verFits (s : State) (k : Task) (t : Thread) (earlier : List Op) (key : Nat) (bs : List Byte) : Bool :=
  !s.overflows k key bs || (!(earlier.any Op.openStore) && t.acks == 0 && !s.commitHeld k)

/-- An acknowledgement is expected for some store of the task: what a commit has made visible is visible everywhere on
the chip only when none is (R196, log entry 76). -/
def State.acksOut (s : State) (core slot : Nat) : Bool := (s.threadsOf core slot).any fun e => e.2.acks != 0

/-- A message of a kind has not left yet, for a target that is held (R453, R454). -/
def State.unsent (s : State) (p : OutMsg → Bool) : Bool := s.fab.waits.any fun w => (s.out[w.1]?).any p

/-- An update of the set that a task writes has not been sent on every route (R204). -/
def State.veinUnsent (s : State) (k : Task) : Bool :=
  s.unsent fun m => match m with
    | .vein p => s.veins.any fun (e : Nat × VeinSet) => e.2.vsid == p.vsid && e.2.asid == k.asid
    | _ => false

/-- A remote write of the task, or of a commit of it, is outstanding, or a vein update still to be sent (R204, R274); a copy's
writes are the copy's own (R327). -/
def State.remoteOut (s : State) (k : Task) : Bool := (s.rws.any fun e => e.2.uid == k.uid && e.2.copy.isNone) || s.veinUnsent k

/-- A write of the task, or of a copy of it, has not been sent on its route (R332). -/
def State.writesUnsent (s : State) (k : Task) : Bool :=
  s.veinUnsent k || s.unsent fun m => match m with
    | .remote _ id => (Assoc.find? s.rws id).any fun w => w.uid == k.uid
    | _ => false

/-- The status of a FENCE, BAR or COMMIT of scope fab or sys (R250, R329). -/
def fenceStatus (k : Task) (t : Thread) (bit23 : Bool) : Word :=
  status (if t.lostw then Code.peerlost else if t.drop then Code.unreach else Code.ok) (k.peerCount % 256 + (if bit23 then 2 ^ 23 else 0))

end Machine
end Sys2Proof
end

