-- ==== Sys2Proof/Machine/Access.lean ====
section
/-! DEFINITION. Memory accesses: the checks at issue (R230 to R232), the order in which one thread's accesses are
performed (R202, R225, R402), and performing a load, a store, an atomic, a prefetch or a cache-control operation. -/

namespace Sys2Proof
namespace Machine

/- ## Checks at issue -/

/-- What the checks of R187, R190 and R232 make of an address. -/
inductive Chk where
  | ok (p : Place)
  | bad (c : Cause)
  deriving DecidableEq, Repr

/-- The scratchpad window's extent of a task (R190). -/
def Task.scratchLen (k : Task) : Nat := k.hd.scru * 4096

/-- Alignment, windows and claims of an access of n bytes (R187, R190, R231, R232). -/
def Ctx.check (x : Ctx) (ea n : Nat) (write : Bool) : Chk :=
  if ea % n ≠ 0 then .bad .align
  else if vaTop ≤ ea then .bad .claim
  else if scratchBase ≤ ea then
    (if ea + n ≤ scratchBase + x.k.scratchLen then .ok (.scratch (ea - scratchBase)) else .bad .claim)
  else if privBase ≤ ea then
    (if ea + n ≤ privBase + x.k.hd.privb then .ok (.priv (ea - privBase)) else .bad .stack)
  else if x.claimOk ea n write then .ok .glob
  else .bad .claim

/-- The effective address of an FM word (R230). -/
def Ctx.ea (x : Ctx) (a : Opnd) (off : BitVec 16) : Nat := (x.d a + off.signExtend 64).toNat

/-- The class of the page at an address, where a leaf maps it (R188, R394). -/
def State.pageCls (s : State) (asid va : Nat) : Option Nat :=
  let rt := s.ptroot asid
  if rt % 2 = 0 then none
  else
    match s.walkOf asid va with
    | .leaf e _ => some (fld e 5 2)
    | _ => none

/-- A scope of chip or wider (R200). -/
def Scope.wide : Scope → Bool
  | .task => false
  | _ => true

/-- A scope of fab or sys. -/
def Scope.far : Scope → Bool
  | .fab | .sys => true
  | _ => false

/-- An order with a release part (R202). -/
def Ord.releases : Ord → Bool
  | .rel | .ar | .strong => true
  | _ => false

/-- An order with an acquire part (R202). -/
def Ord.acquires : Ord → Bool
  | .acq | .ar | .strong => true
  | _ => false

/- ## The order of a thread's accesses -/

/-- The access of an operation. -/
def Op.acc? (o : Op) : Option Acc :=
  match o.kind with
  | .load a _ => some a
  | .store a _ => some a
  | .atomic a _ _ _ _ _ => some a
  | .strong a _ _ _ _ _ _ => some a
  | _ => none

/-- The operation is a memory access not yet performed. -/
def Op.openAcc (o : Op) : Bool := o.acc?.isSome

/-- The place and first byte of an access: accesses in different places never overlap. -/
def Acc.at_ (a : Acc) : Nat × Nat :=
  match a.place with
  | .scratch off => (0, off)
  | .priv off => (1, off)
  | .glob => (2, a.va)

/-- Two accesses touch a common byte by their addresses. -/
def Acc.overlaps (a b : Acc) : Bool :=
  decide (a.at_.1 = b.at_.1) && decide (a.at_.2 < b.at_.2 + b.n) && decide (b.at_.2 < a.at_.2 + a.n)

/-- The flat key an access of a context translates to, where its page is present. -/
def State.keyOf (s : State) (asid : Nat) (a : Acc) : Option Nat :=
  match s.translate asid a.va (if a.write then .w else .r) with
  | .ok key _ _ => some key
  | _ => none

/-- Two accesses of a thread are accesses to one location: by their addresses, or, both of scope chip or wider, through
synonyms of one physical byte (R195). -/
def State.sameBytes (s : State) (asid : Nat) (a b : Acc) : Bool :=
  a.overlaps b ||
  (decide (a.place = .glob) && decide (b.place = .glob) && Scope.wide a.scope && Scope.wide b.scope &&
    match s.keyOf asid a, s.keyOf asid b with
    | some x, some y => decide (x < y + b.n) && decide (y < x + a.n)
    | _, _ => false)

/-- A cache-control operation affects the line of an access (R254): it is ordered with accesses of that line alone, an acquire
of another line not among them (log entry 96). -/
def cctlMeets (va fn : Nat) (a : Acc) : Bool := fn == 1 || decide (va / 512 = a.va / 512)

/-- An earlier operation e must be performed before o (R202, R210, R225, R254); one on a ticket holds even an inv load of
its bytes, and where it acquires every later access (R402). -/
def State.mustPrecede (s : State) (asid : Nat) (e o : Op) : Bool :=
  match e.acc?, o.acc? with
  | some a, some b =>
    let tick := e.ticket.isSome
    (s.sameBytes asid a b && (tick || (decide (a.ord ≠ .inv) && decide (b.ord ≠ .inv)))) ||
      (Ord.acquires a.ord && (tick || decide (b.ord ≠ .inv))) || Ord.releases b.ord
  | some a, none =>
    (match o.kind with
     | .cctl va fn => cctlMeets va fn a
     | _ => false)
  | none, some b =>
    (match e.kind with
     | .cctl va fn => cctlMeets va fn b
     | _ => false)
  | none, none => false

/-- The scratchpad ranges a copy reads and writes: those of its descriptor's sides, and on a buffer's side the entries that
it takes or fills (R234, R261). -/
def CopyOp.srcRanges (c : CopyOp) : List (Nat × Nat) :=
  c.src.toList ++ c.list.toList ++ if c.qsrc.isSome then c.moves.map fun m => (m.1 - scratchBase, m.2.2) else []
def CopyOp.dstRanges (c : CopyOp) : List (Nat × Nat) :=
  c.dst.toList ++ if c.qdst.isSome then c.moves.map fun m => (m.2.1 - scratchBase, m.2.2) else []

/-- A copy in flight of the task that issued before an access, or that fetches a staged tile again, holds it (R216, R261). -/
def State.copyHolds (s : State) (core uid opId off n : Nat) (write : Bool) : Bool :=
  (s.copiesOf core uid).any fun e =>
    let hit := fun (r : Nat × Nat) => decide (off < r.1 + r.2) && decide (r.1 < off + n)
    (decide (e.2.id < opId) || e.2.again) && (e.2.dstRanges.any hit || (write && e.2.srcRanges.any hit))

/-- An MLOAD that has not fired holds a later store into its scale range (R289). -/
def State.scaleHolds (s : State) (core uid opId off n : Nat) : Bool :=
  ((s.core core).mac0.queue ++ (s.core core).mac1.queue).any fun o =>
    o.uid == uid && decide (o.id < opId) &&
      match o.instr with
      | .mload .. => decide (off < (o.vals.getD 3 0).toNat + 1024) && decide ((o.vals.getD 3 0).toNat < off + n)
      | _ => false

/-- An ALOOK of a thread that issued before an operation has not ended (R354). -/
def State.alookBefore (s : State) (core uid thr id : Nat) : Bool :=
  (s.copiesOf core uid).any fun e =>
    e.2.thr == thr && decide (e.2.id < id) && (match e.2.alook with | some (_, _, changes) => changes | none => false)

/-- The operation acquires and is not yet performed (R202). -/
def Op.openAcq (o : Op) : Bool := match o.acc? with | some a => Ord.acquires a.ord | none => false

/-- An operation of a thread may be performed: program order allows it, a release has its count and remote writes in
hand (R196, R204), no copy holds it, and an ALOOK before it has ended (R354). -/
def State.mayPerform (s : State) (r : TRef) (k : Task) (t : Thread) (o : Op) : Bool :=
  ((t.ops.takeWhile fun e => e.id != o.id).all fun e => !s.mustPrecede k.asid e o) &&
  !(o.openAcc && s.alookBefore r.core k.uid r.thr o.id) &&
  (match o.acc? with
   | some a =>
     (match a.place with
      | .scratch off => !s.copyHolds r.core k.uid o.id off a.n a.write && !(a.write && s.scaleHolds r.core k.uid o.id off a.n)
      | .priv _ => true
      | .glob =>
        if Ord.releases a.ord && Scope.wide a.scope then
          !s.acksOut r.core r.slot && (!(Scope.far a.scope) || !s.remoteOut k) && !s.commitHeld k
        else true)
   | none => true)

/- ## Where an access goes -/

/-- What translation gives an access. -/
inductive Loc where
  | ok (key cls grain : Nat)
  | wake (off : Nat)
  | zero
  | fault (c : Cause)
  | absent (anon : Bool)
  | wait
  | hole (key : Nat)
  deriving DecidableEq, Repr

/-- Translate an access, with the alias detector and the states of the peer that owns the page (R198, R326, R394). -/
def State.locate (s : State) (asid va : Nat) (k : Kind) : Loc :=
  match s.translate asid va k with
  | .ok key cls grain =>
    if cls = 3 ∧ k = .w then .fault .assaywr
    else if cls ≤ 1 ∧ s.aliased asid va cls key (decide (0 < grain)) then .fault .synonym
    else .ok key cls grain
  | .wake off => .wake off
  | .zero => if k = .w then .fault .assaywr else .zero
  | .prot => .fault .prot
  | .absent anon _ => .absent anon
  | .busy => .wait
  | .hole key => .hole key

/-- The TLB holds the translation of an access that has used it, and the snoop filter records a host line of a tracked
page (R192, R198, R435). -/
def State.fill (s : State) (asid va key cls grain : Nat) : State :=
  let s0 := if cls = 1 ∧ 0 < grain then s.sfFill asid va key else if cls = 0 then s.cxlAsk key false else s
  if cls ≤ 1 then { s0 with tlb := Assoc.put s0.tlb (xlKey asid va cls) (frameOf key, decide (0 < grain)) } else s0

/-- The same of an access that reaches the line's memory: the atomic cache gives the line back first (R327). -/
def State.touch (s : State) (asid va key cls grain : Nat) : State := (s.fill asid va key cls grain).acacheTake key

/-- Every L1 copy of a range goes, tracked or not: the line there is another one from now on (R353). -/
def State.l1Purge (s : State) (lo n : Nat) : State :=
  { s with cores := s.cores.map fun c => (c.1, { c.2 with l1 := c.2.l1.filter fun y => !y.2.touches lo n }) }

/-- The peer whose memory a key names. -/
def State.peerOf (s : State) (key : Nat) : Option Nat :=
  match s.homeOf key with
  | .peer c => some c
  | _ => none

/-- The page is a reachable peer's: the access is forwarded, and its owner's walk decides it (R394). -/
def State.forwarded (s : State) (asid va : Nat) (k : Kind) : Bool :=
  match s.locate asid va k with
  | .ok key _ _ => (s.peerOf key).any fun c => decide (s.peerSt c = .reachable)
  | _ => false

/- ## L1 -/

/-- The key of a sector in an L1, by ASID and virtual address (R192). -/
def l1Key (asid va : Nat) : Nat := asid * 2 ^ 52 + va / 32

/-- Lines, ways and sets of an L1 data cache (R192). -/
def l1Sets : Nat := 64
def l1Ways : Nat := 10

/-- The line and the set a sector's key lies in; the set is the line's number modulo 64 (log entry 77). -/
def l1Line (key : Nat) : Nat := key / 16
def l1Set (key : Nat) : Nat := l1Line key % l1Sets

/-- With no way left for a line, another line of its set is evicted, whichever the device takes (R192; log entry 77). -/
def State.l1Room (s : State) (core key : Nat) : State :=
  let c := s.core core
  let lines := ((c.l1.filter fun e => l1Set e.1 == l1Set key && l1Line e.1 != l1Line key).map fun e => l1Line e.1).dedup
  if lines.length < l1Ways then s
  else
    let (f, s1) := s.useFree
    match lines[Config.victim f % lines.length]? with
    | some x => s1.updCore core fun c => { c with l1 := c.l1.filter fun e => l1Line e.1 != x }
    | none => s1

/-- Fill the sector at an address from its home. -/
def State.l1Fill (s : State) (core asid va key grain : Nat) : State :=
  let base := key - va % 32
  let s1 := s.l1Room core (l1Key asid va)
  s1.updCore core fun c => { c with l1 := Assoc.put c.l1 (l1Key asid va) { bytes := s.peek base 32, key := base, grain := grain } }

/-- Drop the sector at an address. -/
def State.l1Evict (s : State) (core asid va : Nat) : State :=
  s.updCore core fun c => { c with l1 := Assoc.del c.l1 (l1Key asid va) }

/-- The flat key and the bytes an L1 copy holds of an access. -/
def State.l1Read (s : State) (core asid va n : Nat) : Option (Nat × List Byte) :=
  (Assoc.find? (s.core core).l1 (l1Key asid va)).map fun x => (x.key + va % 32, (x.bytes.drop (va % 32)).take n)

/- ## Ending an operation -/

/-- A deferred cause found at an operation: its destination stays pending and nothing is written (R404, R409). -/
def State.failOp (s : State) (r : TRef) (o : Op) (c : Cause) (detail : Nat) : State :=
  s.updThread r fun t =>
    ({ t with ops := t.ops.map fun (e : Op) => if e.id = o.id then { e with kind := .engine [], pend := true, closed := true } else e }).defer
      c detail o.pc 0

/-- An access that writes no register has been performed: a completed instruction's entry goes, one that still waits
for what its completion needs stays (R241, R247). -/
def State.doneOp (s : State) (r : TRef) (o : Op) (sync : Nat) : State :=
  s.updThread r fun t =>
    if sync = 0 then { t with ops := t.ops.filter fun e => e.id != o.id }
    else { t with ops := t.ops.map fun (e : Op) => if e.id = o.id then { e with kind := .engine [], sync := sync } else e }

/-- The registers of a loaded value of n bytes (R237). -/
def loadWrites (d : Opnd) (n : Nat) (bs : List Byte) : List (Nat × Word) :=
  putG d (wordsOf (max 1 (n / 4)) bs)

/-- A thread's loaded data enters its registers. -/
def State.loadDone (s : State) (r : TRef) (o : Op) (d : Opnd) (n : Nat) (bs : List Byte) : State :=
  s.endOp r o.id (loadWrites d n bs)

/-- What performing an access comes to: the new state, no change, or a hole in memory. -/
inductive Perf where
  | done (s : State)
  | wait
  | hole (key : Nat)

/-- Whether a scratchpad range holds poisoned data. -/
def Task.spoisoned (k : Task) (off n : Nat) : Bool :=
  k.spoison.any fun e => decide (e.1 * 8 < off + n) && decide (off < e.1 * 8 + 8)

/- ## Loads -/

/-- The bytes of memory as they stood when the identifier counter stood at cut (R210). -/
def State.peekAt (s : State) (cut key n : Nat) : List Byte :=
  (List.range n).map fun i =>
    (s.hist.foldl (fun (b : Byte) e => if e.1 = key + i ∧ cut ≤ e.2.1 then e.2.2 else b) (Memory.read s.mem (key + i)))

/-- The cut an .inv load takes its value at: between the launch's start and now, by the free choice (R210, log
entry 4). -/
def State.invCut (s : State) (k : Task) : Nat × State :=
  let start := match Assoc.find? s.agents.launches k.lnum with | some l => l.startSeq | none => s.nextId
  let (f, s1) := s.useFree
  (s.nextId - Config.invChoice f % (s.nextId - start + 1), s1)

/-- Some byte of a range that the task's version does not supply is poisoned (R409). -/
def State.readsPoison (s : State) (k : Task) (key n : Nat) : Bool :=
  s.poisoned key n && (List.range n).any fun i => (Assoc.find? k.version (key + i)).isNone && s.poisoned (key + i) 1

/-- Bytes that another writer of this chip has sent to their peer and that are not performed there yet (R204, R448). -/
def State.sentBytes (s : State) (uid key n : Nat) : Bool :=
  (List.range n).any fun i => (s.sentByte (fun w => w.uid != uid) (key + i)).isSome

/-- Stale copies of written bytes are still being given up, for a write that is not the task's own (R196). -/
def State.invOthers (s : State) (uid : Nat) (of : Inv → Bool) (key n : Nat) : Bool :=
  s.invs.any fun (e : Nat × Inv) => of e.2 && decide (e.2.lo < key + n) && decide (key < e.2.lo + e.2.n) &&
    !(e.2.writers.any fun w => (s.task? w.core w.slot).any fun k => k.uid == uid)

/-- A read of bytes at their home goes after what other tasks' writes of them still do: a value that has been read is never
followed by an older one, wherever it is read next (R225, R227; log entry 96). -/
def State.sentOthers (s : State) (uid key n : Nat) : Bool := s.sentBytes uid key n || s.invOthers uid (fun _ => true) key n

/-- A load answered by its core's L1: no translation takes place, and the task's version and its own bytes on the way to a
peer stand over the copy (R192, R203, R211). A bypass-L1 load, and an acquire of scope chip or wider, is not (R203, R240). -/
def State.loadL1 (s : State) (r : TRef) (k : Task) (o : Op) (a : Acc) (d : Opnd) : Perf :=
  if a.hint = 3 ∨ (Ord.acquires a.ord ∧ Scope.wide a.scope) then .wait
  else
    match s.l1Read r.core k.asid a.va a.n with
    | none => .wait
    | some (key, bs) =>
      if s.sentBytes k.uid key a.n || s.invOthers k.uid (fun v => v.writers.any fun w => w.core == r.core) key a.n then .wait
      else if s.readsPoison k key a.n then .done (s.failOp r o .uncorr 0)
      else
        .done (s.loadDone r o d a.n (bs.zipIdx.map fun e =>
          ((Assoc.find? k.version (key + e.2)).orElse fun _ => s.sentByte (fun w => w.uid == k.uid) (key + e.2)).getD e.1))

/-- A global load at a physical key, read at its home with the task's version over it (R192, R203, R210, R211). -/
def State.loadGlobal (s : State) (r : TRef) (k : Task) (o : Op) (a : Acc) (d : Opnd) (key cls grain : Nat) : Perf :=
  if s.sentOthers k.uid key a.n then .wait
  else if s.readsPoison k key a.n then .done (s.failOp r o .uncorr 0)
  else
    let s1 := s.touch k.asid a.va key cls grain
    let s2 := if a.hint = 3 then s1 else s1.l1Fill r.core k.asid a.va key grain
    if a.ord = .inv then
      let (cut, s3) := s2.invCut k
      if cut = s.nextId then .done (s3.loadDone r o d a.n (k.bytes s key a.n))
      else .done (s3.loadDone r o d a.n (s.peekAt cut key a.n))
    else .done (s2.loadDone r o d a.n (k.bytes s key a.n))

/-- Perform a load (R239, R326): the whole of it at once, 128 and 256 bits too (R207; log entry 85). -/
def State.performLoad (s : State) (r : TRef) (k : Task) (o : Op) (a : Acc) (d : Opnd) (fromL1 : Bool) : Perf :=
  match a.place with
  | .scratch off =>
    if k.spoisoned off a.n then .done (s.failOp r o .uncorr 0)
    else .done (s.loadDone r o d a.n (Memory.readN k.scratch off a.n))
  | .priv off =>
    let key := privKey k.uid r.thr off
    if s.readsPoison k key a.n then .done (s.failOp r o .uncorr 0)
    else .done (s.loadDone r o d a.n (k.bytes s key a.n))
  | .glob =>
    if fromL1 then s.loadL1 r k o a d
    else
      match s.locate k.asid a.va .r with
      | .ok key cls grain =>
        (match s.peerOf key with
         | some c =>
           (match s.peerSt c with
            | .reachable => s.loadGlobal r k o a d key cls grain
            | .lost => .done (s.failOp r o .uncorr 0)
            | _ => .wait)
         | none => s.loadGlobal r k o a d key cls grain)
      | .zero | .wake _ => .done (s.loadDone r o d a.n (List.replicate a.n 0))
      | .fault c => .done (s.failOp r o c 0)
      | .absent _ | .wait => .wait
      | .hole key => .hole key

/- ## Stores -/

/-- Write bytes of a task's scratchpad, clearing the poison of whole words. -/
def State.scratchWrite (s : State) (core slot off : Nat) (bs : List Byte) : State :=
  (s.updTask core slot fun k =>
    { k with
      scratch := Memory.writeN k.scratch off bs
      spoison := k.spoison.filter fun e => !(decide (off ≤ e.1 * 8) && decide (e.1 * 8 + 8 ≤ off + bs.length)) }).markDirty
    core slot ((List.range (bs.length / 1024 + 2)).filterMap fun i =>
      if (off / 1024 + i) * 1024 < off + bs.length then some (scratchBlock ((off / 1024 + i) * 1024)) else none)

/-- A global store enters the version (R213, R241). One that releases, of chip scope or wider, commits with what the
version holds: first what goes ahead of that commit is done and waited for (R196, R202, R204, R223), then the store and
the commit take effect in one step; of fab or sys scope it completes when its writes are visible everywhere. -/
def State.storeGlobal (s : State) (r : TRef) (k : Task) (t : Thread) (o : Op) (a : Acc) (data : List Byte) (key cls grain : Nat) :
    Perf :=
  let rel := Ord.releases a.ord && Scope.wide a.scope
  let keep := s.peerOf key
  if !s.verFits k t (t.ops.takeWhile fun e => e.id != o.id) key data then .wait
  else if rel && !s.prepared r.core k keep then .done (s.prepare r k keep)
  else
    let s1 := (s.touch k.asid a.va key cls grain).verWrite r key data
    let s2 := if a.hint = 3 then s1.l1Evict r.core k.asid a.va else s1
    if rel then
      (match s2.task? r.core r.slot with
       | some k2 =>
         if s2.commitHeld k2 then .wait
         else .done ((s2.commit r).doneOp r o (if Scope.far a.scope then 2 else 0))
       | none => .wait)
    else .done (s2.doneOp r o 0)

/-- Perform a store (R239): the whole of it at once (R207; log entry 85). -/
def State.performStore (s : State) (r : TRef) (k : Task) (t : Thread) (o : Op) (a : Acc) (data : List Byte) : Perf :=
  match a.place with
  | .scratch off => .done ((s.scratchWrite r.core r.slot off data).doneOp r o 0)
  | .priv off =>
    let key := privKey k.uid r.thr off
    if !s.verFits k t (t.ops.takeWhile fun e => e.id != o.id) key data then .wait
    else .done ((s.verWrite r key data).doneOp r o 0)
  | .glob =>
    match s.locate k.asid a.va .w with
    | .ok key cls grain => s.storeGlobal r k t o a data key cls grain
    | .wake off => .done ((s.portMiss off).doneOp r o 0)
    | .zero => .done (s.doneOp r o 0)
    | .fault c => .done (s.failOp r o c 0)
    | .absent _ | .wait => .wait
    | .hole key => .hole key

/- ## Atomics (R242 to R245) -/

/-- The new value of an atomic operation (R242, R243). -/
def aopVal (op : Aop) (w64 : Bool) (old b c : Nat) : Nat :=
  let ts : Ty := if w64 then .i64 else .i32
  let m := 2 ^ Ty.bits ts
  match op with
  | .add => (old + b) % m
  | .minI => if Ty.exact ts old ≤ Ty.exact ts b then old else b
  | .maxI => if Ty.exact ts old ≤ Ty.exact ts b then b else old
  | .minN => min old b
  | .maxN => max old b
  | .and => old &&& b
  | .or => old ||| b
  | .xor => old ^^^ b
  | .exch => b
  | .cas => if old = b then c else old
  | .fadd => Fmt.single.round .rn false (FNum.add .rn (Fmt.single.decode old) (Fmt.single.decode b))
  | .inc => if b ≤ old then 0 else old + 1
  | .dec => if old = 0 ∨ b < old then b else old - 1

/-- The operation writes: .cas does so only where the old value is the one compared with (R244). -/
def aopWrites (op : Aop) (old b : Nat) : Bool := decide (op ≠ .cas) || decide (old = b)

/-- The old value enters the destination of an ATOM; a RED's entry goes. -/
def State.atomicDone (s : State) (r : TRef) (o : Op) (w64 : Bool) (d : Option Opnd) (old : Nat) : State :=
  match d with
  | some d => s.endOp r o.id (putTy (wideTy w64) d old)
  | none => if o.closed then s.doneOp r o 0 else s.doneOp r o o.sync

/-- An atomic on this chip's memory, its host memory or a peer's: old and new at the point of performance (R245). Poison
that a reduction meets is not consumed and stays (R232, R409). -/
def State.atomicAt (s : State) (r : TRef) (k : Task) (o : Op) (a : Acc) (op : Aop) (w64 : Bool) (b c : DWord)
    (d : Option Opnd) (key cls grain : Nat) : Perf :=
  let old := s.peekN key a.n
  let new := aopVal op w64 old b.toNat c.toNat
  let writes := aopWrites op old b.toNat && !s.poisoned key a.n
  let s1 := s.touch k.asid a.va key cls grain
  let local_ := fun (st : State) => if writes then st.pokeBy r key (leBytes a.n new) else st.l1Patch r.core key (leBytes a.n old)
  if s.sentOthers k.uid key a.n then .wait
  else if s.poisoned key a.n ∧ d.isSome then .done (s.failOp r o .uncorr 0)
  else
    match s.homeOf key with
    | .vein slot off =>
      (match Assoc.find? s.veins slot with
       | some v =>
         if v.held then .wait
         else if !writes then .done (s1.atomicDone r o w64 d old)
         else
           let base := veinKey slot (off / 32 * 32)
           let sec := Memory.readN (Memory.writeN s.mem key (leBytes a.n new)) base 32
           .done ((s1.veinUpdate slot 0 0 [(off / 32, sec)]).atomicDone r o w64 d old)
       | none => .wait)
    | .peer p =>
      (match s.peerSt p with
       | .reachable =>
         if (List.range a.n).any (fun i => (s.sentByte (fun _ => true) (key + i)).isSome) then .wait
         else .done ((local_ (s.fill k.asid a.va key cls grain)).atomicDone r o w64 d old)
       | .lost =>
         (match d with
          | some _ => .done (s.failOp r o .uncorr 0)
          | none => .done ((s.dropWrite r p).atomicDone r o w64 d old))
       | .unreachable =>
         (match d with
          | some _ => .wait
          | none => .done ((s.dropWrite r p).atomicDone r o w64 d old))
       | .held => .wait)
    | _ => .done ((local_ s1).atomicDone r o w64 d old)

/-- Perform an atomic or a reduction (R245). What has entered the version since its issue, and must be visible with it or
before it, is committed first: all of it for one that releases, and any write of its own bytes (R212, R227). -/
def State.performAtomic (s : State) (r : TRef) (k : Task) (t : Thread) (o : Op) (a : Acc) (op : Aop) (w64 : Bool) (b c : DWord)
    (d : Option Opnd) : Perf :=
  match a.place with
  | .scratch off =>
    let old := leNat (Memory.readN k.scratch off a.n)
    let data := leBytes a.n (aopVal op w64 old b.toNat c.toNat)
    if k.spoisoned off a.n then .done (if d.isSome then s.failOp r o .uncorr 0 else s.atomicDone r o w64 d old)
    else if aopWrites op old b.toNat then .done ((s.scratchWrite r.core r.slot off data).atomicDone r o w64 d old)
    else .done (s.atomicDone r o w64 d old)
  | .priv off =>
    let key := privKey k.uid r.thr off
    let old := leNat (k.bytes s key a.n)
    let data := leBytes a.n (aopVal op w64 old b.toNat c.toNat)
    if s.readsPoison k key a.n then .done (if d.isSome then s.failOp r o .uncorr 0 else s.atomicDone r o w64 d old)
    else if !aopWrites op old b.toNat then .done (s.atomicDone r o w64 d old)
    else if !s.verFits k t (t.ops.takeWhile fun e => e.id != o.id) key data then .wait
    else .done ((s.verWrite r key data).atomicDone r o w64 d old)
  | .glob =>
    match s.locate k.asid a.va .w with
    | .ok key cls grain =>
      let ver := (Ord.releases a.ord && !k.version.isEmpty) || (List.range a.n).any fun i => (Assoc.find? k.version (key + i)).isSome
      if !ver then s.atomicAt r k o a op w64 b c d key cls grain
      else if Ord.releases a.ord && !s.prepared r.core k none then .done (s.prepare r k none)
      else if t.acks != 0 || s.commitHeld k then .wait
      else
        let s1 := s.commit r
        (match s1.task? r.core r.slot with
         | some k1 => s1.atomicAt r k1 o a op w64 b c d key cls grain
         | none => .wait)
    | .wake off => .done ((s.portMiss off).atomicDone r o w64 d 0)
    | .zero => .done (s.atomicDone r o w64 d 0)
    | .fault f => .done (s.failOp r o f 0)
    | .absent _ | .wait => .wait
    | .hole key => .hole key

/- ## Hints and cache control (R251 to R254) -/

/-- The extent of a prefetch (R251). -/
def prefExtent (sz : Nat) : Nat := if sz = 0 then 512 else if sz = 1 then 4096 else 65536

/-- A hint is dropped and counted (R252). -/
def State.dropHint (s : State) (r : TRef) : State :=
  s.updTask r.core r.slot fun k => { k with drophint := min (k.drophint + 1) (2 ^ 32 - 1) }

/-- The starts of the 4 KiB pieces of a prefetch's extent: a page of any class holds each whole (R392, R432). -/
def prefPieces (lo n : Nat) : List Nat := (List.range ((n + 4095) / 4096)).map fun i => lo + 4096 * i

/-- The prefetch is dropped: its address breaks R187 or lies in a window, its extent lies outside the claims, or some page
of it is unmapped or protected, is mapped with the other tracking elsewhere, or is not present at its owner or host
(R198, R252; log entry 78). -/
def State.prefDrops (s : State) (r : TRef) (k : Task) (va sz : Nat) : Bool :=
  let n := prefExtent sz
  let lo := va / n * n
  decide (vaTop ≤ va) || decide (privBase ≤ va) || !(r.slot == fwSlot || claimed k.hd lo n false) ||
    (prefPieces lo n).any fun p =>
      match s.locate k.asid p .r with
      | .ok key _ _ => (match s.peerOf key with | some c => !s.peerOpen c | none => false)
      | .zero | .wake _ | .wait => false
      | _ => true

/-- A piece of the extent stands in a granule whose bias is changing: the fill waits (R437). -/
def State.prefWaits (s : State) (k : Task) (va sz : Nat) : Bool :=
  let n := prefExtent sz
  (prefPieces (va / n * n) n).any fun p => decide (s.locate k.asid p .r = .wait)

/-- A prefetch ends: its lines fill the L1 under .l1; one whose extent has gone since is dropped (R251, R252). -/
def State.performPref (s : State) (r : TRef) (k : Task) (o : Op) (a : Acc) (sz : Nat) : State :=
  let n := prefExtent sz
  let lo := a.va / n * n
  if s.prefDrops r k a.va sz then (s.dropHint r).doneOp r o 0
  else if s.prefWaits k a.va sz then s
  else
    ((prefPieces lo n).foldl (fun st p =>
      match s.locate k.asid p .r with
      | .ok key cls grain =>
        let st0 := st.touch k.asid p key cls grain
        let st1 := if cls = 1 ∧ 0 < grain then
            (List.range (min n 4096 / 64)).foldl (fun st2 i => st2.sfFill k.asid (p + 64 * i) (key + 64 * i)) st0
          else st0
        if a.hint = 1 then
          (List.range (min n 4096 / 32)).foldl (fun st2 i => st2.l1Fill r.core k.asid (p + 32 * i) (key + 32 * i) grain) st1
        else st1
      | _ => st) s).doneOp r o 0

/-- A cache-control operation is performed: the core's L1 copies go; a write-back leaves memory's bytes as they are
(R253, R254). -/
def State.performCctl (s : State) (r : TRef) (k : Task) (o : Op) (va fn : Nat) : State :=
  let keep := fun (key : Nat) =>
    if fn = 1 then key / 2 ^ 52 != k.asid
    else if fn = 2 ∨ vaTop ≤ va then true
    else key / 16 != l1Key k.asid va / 16
  let s1 := s.updCore r.core fun c => { c with l1 := c.l1.filter fun e => keep e.1 }
  s1.endOp r o.id []

end Machine
end Sys2Proof
end

