-- ==== Sys2Proof/Machine/Integer.lean ====
section
/-! DEFINITION. The integer, comparison, predicate, logic, shift, bit-field, move and address instructions
(R157 to R171). -/

namespace Sys2Proof
namespace Machine

/-- The outcome of an instruction that never stops. -/
abbrev Res := Host.Outcome State Fault Refusal

/-- An integer operation on two sources (R158). -/
def int2 (f : Int → Int → Int) (t : Ty) (sat : Bool) (d a b : Opnd) (x : Ctx) : List (Nat × Word) :=
  putTy t d (Ty.round t (f (Ty.exact t (x.ty t a)) (Ty.exact t (x.ty t b))) sat)

/-- IDIV of exact values, before wrap or clamp (R159): zero divisor gives all ones. -/
def idivVal (t : Ty) (sat : Bool) (a b : Int) : Nat :=
  if b = 0 then 2 ^ Ty.bits t - 1 else Ty.round t (Int.tdiv a b) sat

/-- IREM of exact values (R159). -/
def iremVal (a b : Int) : Int := if b = 0 then a else Int.tmod a b

/-- IADD (R158). -/
def execIadd (h : Hdr) (ty : Ty) (sat : Bool) (d a b : Opnd) (s : State) : Res :=
  .next (issue (.iadd h ty sat d a b) (shortWrites (int2 (· + ·) ty sat d a b)) s)

/-- ISUB (R158). -/
def execIsub (h : Hdr) (ty : Ty) (sat : Bool) (d a b : Opnd) (s : State) : Res :=
  .next (issue (.isub h ty sat d a b) (shortWrites (int2 (· - ·) ty sat d a b)) s)

/-- IMUL (R158). -/
def execImul (h : Hdr) (ty : Ty) (sat : Bool) (d a b : Opnd) (s : State) : Res :=
  .next (issue (.imul h ty sat d a b) (shortWrites (int2 (· * ·) ty sat d a b)) s)

/-- IMULH: floor division of the product by 2^n (R157, R158). -/
def execImulh (h : Hdr) (ty : Ty) (d a b : Opnd) (s : State) : Res :=
  .next (issue (.imulh h ty d a b) (shortWrites (int2 (fun p q => (p * q) / 2 ^ Ty.bits ty) ty false d a b)) s)

/-- IMAD (R158). -/
def execImad (h : Hdr) (ty : Ty) (sat : Bool) (d a b c : Opnd) (s : State) : Res :=
  .next (issue (.imad h ty sat d a b c) (shortWrites fun x =>
    putTy ty d (Ty.round ty (Ty.exact ty (x.ty ty a) * Ty.exact ty (x.ty ty b) + Ty.exact ty (x.ty ty c)) sat)) s)

/-- IDIV (R159); class L. -/
def execIdiv (h : Hdr) (ty : Ty) (sat : Bool) (d a b : Opnd) (s : State) : Res :=
  .next (issue (.idiv h ty sat d a b) (longWrites (.idiv h ty sat d a b) fun x =>
    putTy ty d (idivVal ty sat (Ty.exact ty (x.ty ty a)) (Ty.exact ty (x.ty ty b)))) s)

/-- IREM (R159); class L. -/
def execIrem (h : Hdr) (ty : Ty) (d a b : Opnd) (s : State) : Res :=
  .next (issue (.irem h ty d a b) (longWrites (.irem h ty d a b) fun x =>
    putTy ty d (Ty.round ty (iremVal (Ty.exact ty (x.ty ty a)) (Ty.exact ty (x.ty ty b))) false)) s)

/-- IMIN (R158). -/
def execImin (h : Hdr) (ty : Ty) (d a b : Opnd) (s : State) : Res :=
  .next (issue (.imin h ty d a b) (shortWrites (int2 (fun p q => if p ≤ q then p else q) ty false d a b)) s)

/-- IMAX (R158). -/
def execImax (h : Hdr) (ty : Ty) (d a b : Opnd) (s : State) : Res :=
  .next (issue (.imax h ty d a b) (shortWrites (int2 (fun p q => if p ≤ q then q else p) ty false d a b)) s)

/-- IABS (R158, R159). -/
def execIabs (h : Hdr) (ty : Ty) (sat : Bool) (d a : Opnd) (s : State) : Res :=
  .next (issue (.iabs h ty sat d a) (shortWrites fun x =>
    putTy ty d (Ty.round ty ((Ty.exact ty (x.ty ty a)).natAbs : Int) sat)) s)

/-- IADDI (R158). -/
def execIaddi (h : Hdr) (ty : Ty) (sat : Bool) (d a : Opnd) (imm : BitVec 20) (s : State) : Res :=
  .next (issue (.iaddi h ty sat d a imm) (shortWrites fun x =>
    putTy ty d (Ty.round ty (Ty.exact ty (x.ty ty a) + imm20 imm) sat)) s)

/-- ISET (R160). -/
def execIset (h : Hdr) (cc : Cc) (ty : Ty) (p : Nat) (a b : Opnd) (q : Nat) (s : State) : Res :=
  .next (issue (.iset h cc ty p a b q) (shortWrites fun x =>
    putP p (Cc.holdsInt cc (Ty.exact ty (x.ty ty a)) (Ty.exact ty (x.ty ty b)) && x.t.pred q)) s)

/-- ISETI: the immediate is sign-extended, wrapped to n bits and read as the type (R160). -/
def execIseti (h : Hdr) (cc : Cc) (ty : Ty) (p : Nat) (a : Opnd) (imm : BitVec 20) (s : State) : Res :=
  .next (issue (.iseti h cc ty p a imm) (shortWrites fun x =>
    putP p (Cc.holdsInt cc (Ty.exact ty (x.ty ty a)) (Ty.exact ty ((imm20 imm % 2 ^ Ty.bits ty).toNat)))) s)

/-- SEL (R161). -/
def execSel (h : Hdr) (ty : Ty) (d a b : Opnd) (q : Nat) (s : State) : Res :=
  .next (issue (.sel h ty d a b q) (shortWrites fun x => putTy ty d (if x.t.pred q then x.ty ty a else x.ty ty b)) s)

/-- AND (R164). -/
def execAnd (h : Hdr) (d a b : Opnd) (s : State) : Res :=
  .next (issue (.and h d a b) (shortWrites fun x => putW d (x.w a &&& x.w b)) s)

/-- OR (R164). -/
def execOr (h : Hdr) (d a b : Opnd) (s : State) : Res :=
  .next (issue (.or h d a b) (shortWrites fun x => putW d (x.w a ||| x.w b)) s)

/-- XOR (R164). -/
def execXor (h : Hdr) (d a b : Opnd) (s : State) : Res :=
  .next (issue (.xor h d a b) (shortWrites fun x => putW d (x.w a ^^^ x.w b)) s)

/-- The immediate of LOGI (R164). -/
def logiImm (hi : Bool) (imm : BitVec 20) : Word :=
  if hi then imm.zeroExtend 32 <<< 12 else imm.signExtend 32

/-- LOGI (R164). -/
def execLogi (h : Hdr) (op : Lop) (hi : Bool) (d a : Opnd) (imm : BitVec 20) (s : State) : Res :=
  .next (issue (.logi h op hi d a imm) (shortWrites fun x =>
    putW d (match op with
      | .and => x.w a &&& logiImm hi imm
      | .or => x.w a ||| logiImm hi imm
      | .xor => x.w a ^^^ logiImm hi imm)) s)

/-- A left shift: zero when the count reaches the width (R165). -/
def shlVal (n v c : Nat) : Nat := if n ≤ c then 0 else v * 2 ^ c % 2 ^ n

/-- A right shift, arithmetic for a signed type (R165). -/
def shrVal (t : Ty) (v c : Nat) : Nat :=
  let n := Ty.bits t
  let c1 := min c n
  ((Ty.exact t v) / 2 ^ c1 % 2 ^ n).toNat

/-- SHL (R165). -/
def execShl (h : Hdr) (ty : Ty) (d a b : Opnd) (s : State) : Res :=
  .next (issue (.shl h ty d a b) (shortWrites fun x => putTy ty d (shlVal (Ty.bits ty) (x.ty ty a) (x.w b).toNat)) s)

/-- SHR (R165). -/
def execShr (h : Hdr) (ty : Ty) (d a b : Opnd) (s : State) : Res :=
  .next (issue (.shr h ty d a b) (shortWrites fun x => putTy ty d (shrVal ty (x.ty ty a) (x.w b).toNat)) s)

/-- ROT (R165). -/
def execRot (h : Hdr) (ty : Ty) (right : Bool) (d a b : Opnd) (s : State) : Res :=
  .next (issue (.rot h ty right d a b) (shortWrites fun x =>
    putW d (if right then (x.w a).rotateRight ((x.w b).toNat % 32) else (x.w a).rotateLeft ((x.w b).toNat % 32))) s)

/-- Leading zero bits of an n-bit value (R166). -/
def clzVal : Nat → Nat → Nat
  | 0, _ => 0
  | n + 1, v => if v.testBit n then 0 else 1 + clzVal n v

/-- One bits of an n-bit value (R166). -/
def popcVal : Nat → Nat → Nat
  | 0, _ => 0
  | n + 1, v => (if v.testBit n then 1 else 0) + popcVal n v

/-- The n bits of a value in reverse order (R166). -/
def brevVal : Nat → Nat → Nat
  | 0, _ => 0
  | n + 1, v => (if v.testBit 0 then 2 ^ n else 0) + brevVal n (v / 2)

/-- CLZ (R166). -/
def execClz (h : Hdr) (wide : Bool) (d a : Opnd) (s : State) : Res :=
  .next (issue (.clz h wide d a) (shortWrites fun x =>
    putW d (BitVec.ofNat 32 (clzVal (if wide then 64 else 32) (x.ty (wideTy wide) a)))) s)

/-- POPC (R166). -/
def execPopc (h : Hdr) (wide : Bool) (d a : Opnd) (s : State) : Res :=
  .next (issue (.popc h wide d a) (shortWrites fun x =>
    putW d (BitVec.ofNat 32 (popcVal (if wide then 64 else 32) (x.ty (wideTy wide) a)))) s)

/-- BREV (R166). -/
def execBrev (h : Hdr) (wide : Bool) (d a : Opnd) (s : State) : Res :=
  .next (issue (.brev h wide d a) (shortWrites fun x =>
    putTy (wideTy wide) d (brevVal (if wide then 64 else 32) (x.ty (wideTy wide) a))) s)

/-- The position and length of a bit field from its control word (R167). -/
def fieldPos (c : Nat) : Nat := min (c % 256) 32
def fieldLen (c : Nat) : Nat := min (c / 256 % 256) (32 - fieldPos c)

/-- BFX on values (R167). -/
def bfxVal (signed : Bool) (a c : Nat) : Nat :=
  let l := fieldLen c
  let f := a / 2 ^ fieldPos c % 2 ^ l
  if signed ∧ 0 < l ∧ 2 ^ (l - 1) ≤ f then f + (2 ^ 32 - 2 ^ l) else f

/-- BFI on values (R167). -/
def bfiVal (a b c : Word) : Word :=
  let p := fieldPos c.toNat
  let m : Word := BitVec.ofNat 32 ((2 ^ fieldLen c.toNat - 1) * 2 ^ p)
  (a &&& ~~~m) ||| ((b <<< p) &&& m)

/-- BFX (R167). -/
def execBfx (h : Hdr) (signed : Bool) (d a c : Opnd) (s : State) : Res :=
  .next (issue (.bfx h signed d a c) (shortWrites fun x =>
    putW d (BitVec.ofNat 32 (bfxVal signed (x.w a).toNat (x.w c).toNat))) s)

/-- BFI (R167). -/
def execBfi (h : Hdr) (d a b c : Opnd) (s : State) : Res :=
  .next (issue (.bfi h d a b c) (shortWrites fun x => putW d (bfiVal (x.w a) (x.w b) (x.w c))) s)

/-- LEA (R171). -/
def execLea (h : Hdr) (sx : Bool) (sh : Nat) (d a b : Opnd) (s : State) : Res :=
  .next (issue (.lea h sx sh d a b) (shortWrites fun x =>
    putD d (x.d a + ((if sx then (x.w b).signExtend 64 else (x.w b).zeroExtend 64) <<< sh))) s)

/-- MOVI (R169). -/
def execMovi (h : Hdr) (wide : Bool) (d : Opnd) (imm : BitVec 20) (s : State) : Res :=
  .next (issue (.movi h wide d imm) (shortWrites fun _ =>
    if wide then putD d (imm.signExtend 64) else putW d (imm.signExtend 32)) s)

/-- MOVL (R170). -/
def execMovl (h : Hdr) (single : Bool) (d : Opnd) (lit : DWord) (s : State) : Res :=
  .next (issue (.movl h single d lit) (shortWrites fun _ =>
    if single then putW d (lit.extractLsb' 0 32) else putD d lit) s)

/-- MOV (R168). -/
def execMov (h : Hdr) (ty : Ty) (d a : Opnd) (s : State) : Res :=
  .next (issue (.mov h ty d a) (shortWrites fun x => putTy ty d (x.ty ty a)) s)

/-- PLOP (R162). -/
def execPlop (h : Hdr) (tt p a b : Nat) (s : State) : Res :=
  .next (issue (.plop h tt p a b) (shortWrites fun x => putP p (truth tt (x.t.pred a) (x.t.pred b))) s)

/-- PMOV .pack: bit 0 is always 1 (R163). -/
def execPmovPack (h : Hdr) (d : Opnd) (s : State) : Res :=
  .next (issue (.pmovPack h d) (shortWrites fun x => putW d ((x.t.preds ||| 1).zeroExtend 32)) s)

/-- PMOV .unpack: p1 to p15 from bits 1 to 15 (R163). -/
def execPmovUnpack (h : Hdr) (a : Opnd) (s : State) : Res :=
  .next (issue (.pmovUnpack h a) (shortWrites fun x =>
    (List.range' 1 15).flatMap fun i => putP i ((x.w a).getLsbD i)) s)

/-- PMOV .nz (R163). -/
def execPmovNz (h : Hdr) (p : Nat) (a : Opnd) (s : State) : Res :=
  .next (issue (.pmovNz h p a) (shortWrites fun x => putP p (decide (x.w a ≠ 0))) s)

/-- PMOV .val (R163). -/
def execPmovVal (h : Hdr) (d : Opnd) (p : Nat) (s : State) : Res :=
  .next (issue (.pmovVal h d p) (shortWrites fun x => putW d (if x.t.pred p then 1 else 0)) s)

end Machine
end Sys2Proof
end

