-- ==== Sys2Proof/Machine/Sm3.lean ====
section
/-! DEFINITION. The SM3 digest that seals capabilities (R371) and names lines (R342): the algorithm is the published
standard's, which the spec names and does not repeat (log entry 18). -/

namespace Sys2Proof
namespace Machine
namespace Sm3

/-- The initial value. -/
def iv : List Word :=
  [0x7380166F, 0x4914B2B9, 0x172442D7, 0xDA8A0600, 0xA96F30BC, 0x163138AA, 0xE38DEE4D, 0xB0FB0E4E]

/-- The round constant. -/
def tj (j : Nat) : Word := if j < 16 then 0x79CC4519 else 0x7A879D8A

/-- The Boolean functions. -/
def ff (j : Nat) (x y z : Word) : Word := if j < 16 then x ^^^ y ^^^ z else (x &&& y) ||| (x &&& z) ||| (y &&& z)
def gg (j : Nat) (x y z : Word) : Word := if j < 16 then x ^^^ y ^^^ z else (x &&& y) ||| (~~~x &&& z)

/-- The permutations. -/
def p0 (x : Word) : Word := x ^^^ x.rotateLeft 9 ^^^ x.rotateLeft 17
def p1 (x : Word) : Word := x ^^^ x.rotateLeft 15 ^^^ x.rotateLeft 23

/-- The next word of the message expansion; the words stand newest first. -/
def nextW (ws : List Word) : Word :=
  p1 (ws.getD 15 0 ^^^ ws.getD 8 0 ^^^ (ws.getD 2 0).rotateLeft 15) ^^^ (ws.getD 12 0).rotateLeft 7 ^^^ ws.getD 5 0

/-- Expand to 16 + n words, newest first. -/
def expand : Nat → List Word → List Word
  | 0, ws => ws
  | n + 1, ws => expand n (nextW ws :: ws)

/-- The chaining registers. -/
structure Regs where
  a : Word
  b : Word
  c : Word
  d : Word
  e : Word
  f : Word
  g : Word
  h : Word

/-- One round. -/
def round (ws : List Word) (r : Regs) (j : Nat) : Regs :=
  let ss1 := (r.a.rotateLeft 12 + r.e + (tj j).rotateLeft (j % 32)).rotateLeft 7
  let ss2 := ss1 ^^^ r.a.rotateLeft 12
  let w := ws.getD j 0
  let w1 := w ^^^ ws.getD (j + 4) 0
  let tt1 := ff j r.a r.b r.c + r.d + ss2 + w1
  let tt2 := gg j r.e r.f r.g + r.h + ss1 + w
  { a := tt1, b := r.a, c := r.b.rotateLeft 9, d := r.c, e := p0 tt2, f := r.e, g := r.f.rotateLeft 19, h := r.g }

/-- A big-endian word of four bytes. -/
def beWord (bs : List Byte) : Word :=
  BitVec.ofNat 32 (bs.foldl (fun n b => n * 256 + b.toNat) 0)

/-- The 16 words of a block, newest first. -/
def blockWords (bs : List Byte) : List Word :=
  ((List.range 16).map fun i => beWord ((bs.drop (4 * i)).take 4)).reverse

/-- Compress one block. -/
def compress (v : List Word) (bs : List Byte) : List Word :=
  let ws := (expand 52 (blockWords bs)).reverse
  let g := fun i => v.getD i 0
  let r := (List.range 64).foldl (round ws)
    { a := g 0, b := g 1, c := g 2, d := g 3, e := g 4, f := g 5, g := g 6, h := g 7 }
  (v.zip [r.a, r.b, r.c, r.d, r.e, r.f, r.g, r.h]).map fun e => e.1 ^^^ e.2

/-- Bytes of a number, most significant first. -/
def beBytes (n v : Nat) : List Byte := (leBytes n v).reverse

/-- The padded message. -/
def pad (m : List Byte) : List Byte :=
  m ++ [0x80] ++ List.replicate ((119 - m.length % 64) % 64) 0 ++ beBytes 8 (8 * m.length)

/-- Compress n blocks in order. -/
def blocks : Nat → List Word → List Byte → List Word
  | 0, v, _ => v
  | n + 1, v, bs => blocks n (compress v (bs.take 64)) (bs.drop 64)

/-- The 32 bytes of the digest. -/
def digest (m : List Byte) : List Byte :=
  let p := pad m
  (blocks (p.length / 64) iv p).flatMap fun w => beBytes 4 w.toNat

end Sm3
end Machine
end Sys2Proof
end

