-- ==== Sys2Proof/Machine/Queue.lean ====
section
/-! DEFINITION. Queue entries behind the entry cache (R367 to R369), sealed capabilities and wake writes (R370 to R375),
the checks on packets (R377), and completion signals (R383). -/

namespace Sys2Proof
namespace Machine

/-- QTAB's fields (R367). -/
def State.qtabEn (s : State) : Bool := s.regs.qtab.getLsbD 63
def State.qtabPlain (s : State) : Bool := s.regs.qtab.getLsbD 62
def State.qtabLogn (s : State) : Nat := fld s.regs.qtab.toNat 57 5
def State.qtabBase (s : State) : Nat := fld s.regs.qtab.toNat 8 49 * 256

/-- A queue entry from its 256 bytes (R369). -/
def qParse (b : Nat → Nat → Nat) : QEntry :=
  { rbase := b 0 8, logsz := b 8 1, prio := b 9 1 % 8, en := b 0xA 1 % 2 == 1, halt := fld (b 0xA 1) 1 1 == 1,
    dev := fld (b 0xA 1) 2 1 == 1, hcode := b 0xB 1, asid := b 0xC 2, nonce := b 0x10 4 % 2 ^ 21, wpa := b 0x18 8,
    wptr := b 0x20 8, rptr := b 0x28 8, rpa := b 0x30 8, wakes := b 0x38 4, badw := b 0x3C 4, nlau := b 0x40 8, served := 0 }

/-- The bytes of a queue entry. -/
def QEntry.bytes (e : QEntry) : List Byte :=
  leBytes 8 e.rbase ++ leBytes 1 e.logsz ++ leBytes 1 e.prio ++
  leBytes 1 ((if e.en then 1 else 0) + (if e.halt then 2 else 0) + (if e.dev then 4 else 0)) ++ leBytes 1 e.hcode ++
  leBytes 2 e.asid ++ leBytes 2 0 ++ leBytes 4 e.nonce ++ leBytes 4 0 ++ leBytes 8 e.wpa ++ leBytes 8 e.wptr ++
  leBytes 8 e.rptr ++ leBytes 8 e.rpa ++ leBytes 4 e.wakes ++ leBytes 4 e.badw ++ leBytes 8 e.nlau ++ List.replicate 184 0

/-- A queue entry of the table: the cached one, else that of memory (R368). -/
def State.qEntry (s : State) (n : Nat) : Option QEntry :=
  match Assoc.find? s.agents.cache n with
  | some e => some e
  | none =>
    match s.translate 0 (s.qtabBase + 256 * n) .r with
    | .ok key _ _ => some { (qParse fun off len => s.peekN (key + off) len) with served := Assoc.getD s.agents.served 0 n }
    | _ => none

/-- Write an entry back to the table. -/
def State.qWriteBack (s : State) (n : Nat) (e : QEntry) : State :=
  let s1 := { s with agents := { s.agents with
    cache := Assoc.del s.agents.cache n, served := Assoc.setD s.agents.served 0 n e.served } }
  match s1.translate 0 (s1.qtabBase + 256 * n) .w with
  | .ok key _ _ => s1.pokeCoh key e.bytes
  | _ => s1

/-- The entry cache's ways and its sets, indexed by the queue index (R368). -/
def qcWays : Nat := 8
def qcSets : Nat := 512

/-- Make room in an entry's set: with its ways taken by others, one of them is evicted, whichever the device takes (R368; log
entry 77). -/
def State.qRoom (s : State) (n : Nat) : State :=
  let here := s.agents.cache.filter fun e => e.1 % qcSets == n % qcSets && e.1 != n
  if here.length < qcWays then s
  else
    let (f, s1) := s.useFree
    match here[Config.victim f % here.length]? with
    | some e => s1.qWriteBack e.1 e.2
    | none => s1

/-- Put an entry into the entry cache. -/
def State.qPut (s : State) (n : Nat) (e : QEntry) : State :=
  let s1 := s.qRoom n
  { s1 with agents := { s1.agents with cache := Assoc.put s1.agents.cache n e } }

/-- Write the cached entries back to the table and empty the cache (R368). -/
def State.qFlush (s : State) : State := s.agents.cache.foldl (fun st e => st.qWriteBack e.1 e.2) s

/-- The enabled entries: those cached, and those of memory at the indices a caller names. -/
def State.qEnabled (s : State) (n : Nat) : Option QEntry :=
  if s.qtabEn ∧ n < 2 ^ s.qtabLogn then
    match s.qEntry n with
    | some e => if e.en then some e else none
    | none => none
  else none

/-- The index of the enabled device queue of an ASID (R369, R388): at most one stands. -/
def State.devQueue (s : State) (asid : Nat) : Option (Nat × QEntry) :=
  (List.range (if s.qtabEn then 2 ^ min s.qtabLogn 20 else 0)).findSome? fun n =>
    match s.qEnabled n with
    | some e => if e.dev && e.asid == asid then some (n, e) else none
    | none => none

/-- Write the whole sectors of a set's replica that bytes of a copy or of the device touch: one weak update (R215, R219, R311). -/
def State.veinPoke (s : State) (slot off : Nat) (bs : List Byte) : State :=
  let lo := off / 32
  let hi := (off + bs.length + 31) / 32
  let m := Memory.writeN s.mem (veinKey slot off) bs
  s.veinUpdate slot 0 0 ((List.range (hi - lo)).map fun i => (lo + i, Memory.readN m (veinKey slot (32 * (lo + i))) 32))

/-- A device store of ORD rel in a context (R379, R383): one on a set's page is a weak vein write, one on a wake page is
dropped (R395); none where it would fault. -/
def State.devStoreCoh (s : State) (asid va : Nat) (bs : List Byte) : Option State :=
  match s.translate asid va .w with
  | .ok key 2 _ =>
    (match s.homeOf key with
     | .vein slot off => some (s.veinPoke slot off bs)
     | _ => none)
  | .wake off => some (s.portMiss off)
  | _ => s.devStore asid va bs

/-- A device store waits: its granule's bias is changing (R437), or its set holds commits (R319, R323). -/
def State.storeWaits (s : State) (asid va : Nat) : Bool :=
  match s.translate asid va .w with
  | .busy => true
  | .ok key 2 _ =>
    (match s.homeOf key with
     | .vein slot _ => (Assoc.find? s.veins slot).any VeinSet.held
     | _ => false)
  | _ => false

/-- The device stores that waited are made, in order, as far as they can be. -/
def State.postSettle (s : State) : State :=
  s.agents.posts.foldl (fun st x =>
    if st.storeWaits x.asid x.va then st.post x
    else
      match st.devStoreCoh x.asid x.va x.bytes, x.lost with
      | some st1, _ => st1
      | none, some u => st.deputy 12 u x.asid 2 x.va
      | none, none => st) { s with agents := { s.agents with posts := [] } }

/-- Publish RPTR at RPA where one is named (R379). -/
def State.qPublish (s : State) (e : QEntry) : State :=
  if e.rpa = 0 then s
  else if s.storeWaits e.asid e.rpa then s.post { asid := e.asid, va := e.rpa, bytes := leBytes 8 e.rptr, lost := none }
  else (s.devStoreCoh e.asid e.rpa (leBytes 8 e.rptr)).getD s

/-- Halt a queue with a code, and log it (R377, R460). -/
def State.qHalt (s : State) (n : Nat) (e : QEntry) (code : Nat) : State :=
  (s.qPut n { e with halt := true, hcode := code }).deputy 6 0xFF00 e.asid n code

/- ## Capabilities -/

/-- The seal of a capability on this chip (R371). -/
def State.seal (s : State) (cap : BitVec 256) : Nat :=
  let msg := leBytes 8 s.regs.qkey0.toNat ++ leBytes 8 s.regs.qkey1.toNat ++ leBytes 16 cap.toNat ++ leBytes 2 s.chip.toNat
  leNat ((Sm3.digest msg).take 16)

/-- A capability's fields (R370). -/
def capMac (c : BitVec 256) : Nat := fld c.toNat 128 128
def capNonce (c : BitVec 256) : Nat := fld c.toNat 107 21
def capQidx (c : BitVec 256) : Nat := fld c.toNat 87 20
def capOasid (c : BitVec 256) : Nat := fld c.toNat 71 16
def capRights (c : BitVec 256) : Nat := fld c.toNat 63 8
def capLogsz (c : BitVec 256) : Nat := fld c.toNat 57 6
def capBase (c : BitVec 256) : Nat := fld c.toNat 0 57

/-- The bits of a plain wake that must be zero are zero (R375). -/
def plainForm (c : BitVec 256) : Bool := fld c.toNat 107 149 == 0 && fld c.toNat 0 87 == 0

/-- A dropped wake write is counted: at its entry where it names one that exists, else at the port (R373). -/
def State.wakeDrop (s : State) (q : Nat) : State :=
  match (if s.qtabEn ∧ q < 2 ^ s.qtabLogn then s.qEntry q else none) with
  | some e => s.qPut q { e with badw := min (e.badw + 1) (2 ^ 32 - 1) }
  | none => { s with plat := { s.plat with portDrops := s.plat.portDrops + 1 } }

/-- Change the chip's power state, with its record (R460, R471). -/
def State.powerTo (s : State) (p : Power) : State :=
  if s.plat.power = p then s
  else ({ s with plat := { s.plat with power := p } }).deputy 11 0xFF00 0 (powerCode s.plat.power) (powerCode p)

/-- The state of the clock that Vebry and the forces ask for (R471, R474); in Recovery it is A0 (R473). -/
def State.clockFor (s : State) : Power :=
  if (s.plat.capForce || s.plat.thermForce || s.plat.wantA1) && decide (s.plat.sec ≠ .recovery) then .a1 else .a0

/-- The chip leaves S2 (R471, R472): it returns to A0, and to A1 where it is forced there. -/
def State.leaveS2 (s : State) : State :=
  if s.plat.power = .s2 then ((s.powerTo .a0).powerTo s.clockFor).send (.lowPower false) else s

/-- What an accepted wake reads (R374): WPTR from the producer's word, at which a queue that was halted when the wake was
accepted resumes. -/
def State.wakeRead (s0 : State) (q : Nat) (resume : Bool) : State :=
  match s0.qEntry q with
  | none => s0
  | some e =>
    let s := s0.devTake e.asid e.wpa .r
    match (if e.wpa % 8 = 0 then s.devLoad e.asid e.wpa 8 else none) with
    | none => s.qHalt q e 4
    | some w =>
      if resume then
        let e2 := { e with wptr := w, rptr := w, halt := false, hcode := 0 }
        (s.qPut q e2).qPublish e2
      else s.qPut q { e with wptr := w }

/-- An accepted wake (R374): it is counted, and the producer's word is read, as soon as its granule's bias stands and its owner
can be asked (R326, R437); an S2 chip returns to A0 (R472). -/
def State.wakeAccept (s : State) (q : Nat) (e : QEntry) : State :=
  let s0 := ((s.leaveS2).eventAll 0).qPut q { e with wakes := min (e.wakes + 1) (2 ^ 32 - 1) }
  if s0.devBusy e.asid e.wpa .r then
    { s0 with agents := { s0.agents with wakesDue := (s0.agents.wakesDue ++ [(q, e.halt)]).dedup } }
  else s0.wakeRead q e.halt

/-- The accepted wakes that waited read their words. -/
def State.wakeSettle (s : State) : State :=
  s.agents.wakesDue.foldl (fun st x =>
    let waits := match st.qEntry x.1 with | some e => st.devBusy e.asid e.wpa .r | none => false
    if waits then st
    else { st with agents := { st.agents with wakesDue := st.agents.wakesDue.filter fun y => y != x } }.wakeRead x.1 x.2) s

/-- A wake write that carries a capability, from a master of an ASID (R373): the state, and whether the writing master
is frozen. plain: the master may write plain wakes (R375). -/
def State.wake (s : State) (asid : Option Nat) (plain : Bool) (cap : BitVec 256) : State × Bool :=
  let q := capQidx cap
  let isPlain := plain && s.qtabPlain && plainForm cap
  let e? := s.qEnabled q
  if !isPlain && capMac cap != s.seal cap then (s.wakeDrop q, true)
  else
    match e? with
    | none => (s.wakeDrop q, false)
    | some e =>
      if capRights cap / 4 ≠ 0 then (s.wakeDrop q, false)
      else if !isPlain && (decide (asid ≠ some (capOasid cap)) || capOasid cap != e.asid) then (s.wakeDrop q, true)
      else if !isPlain && (capNonce cap != e.nonce || capLogsz cap != e.logsz || capBase cap != e.rbase) then
        (s.wakeDrop q, false)
      else if (!isPlain && capRights cap % 2 == 0) || e.dev then (s.wakeDrop q, false)
      else if e.halt && (isPlain || fld (capRights cap) 1 1 == 0) then (s.wakeDrop q, false)
      else (s.wakeAccept q e, false)

/- ## Packets (R376, R377, R381) -/

/-- What the entry cache makes of the packet at RPTR. -/
inductive Packet where
  | none
  | halt (code : Nat)
  | pad (len : Nat)
  | launch
  deriving DecidableEq, Repr

/-- The address of the byte at a pointer. -/
def QEntry.addr (e : QEntry) (p : Nat) : Nat := e.rbase + p % 2 ^ e.logsz

/-- The bytes between the pointers, mod 2^64. -/
def QEntry.fill (e : QEntry) : Nat := (e.wptr + 2 ^ 64 - e.rptr) % 2 ^ 64

/-- The check of the packet at RPTR, in the order of R377. A header word that cannot be read halts with PKT_PTR; a packet in
a granule whose bias changes, or of a peer that cannot be asked, waits (R326, R437). -/
def State.packetAt (s : State) (e : QEntry) : Packet :=
  if e.wptr % 64 ≠ 0 ∨ 2 ^ e.logsz < e.fill then .halt 4
  else if e.fill < 64 ∨ s.devBusy e.asid (e.addr e.rptr) .r then .none
  else
    match s.devLoad e.asid (e.addr e.rptr) 8 with
    | none => .halt 4
    | some h =>
      let len := fld h 8 8
      let kind := fld h 0 8
      if len = 0 ∨ 2 ^ e.logsz < len * 64 ∨ (kind = 1 ∧ len ≠ 5) then .halt 2
      else if (kind ≠ 1 ∧ kind ≠ 2) ∨ h / 2 ^ 16 ≠ 0 then .halt 3
      else if 2 ^ e.logsz < e.rptr % 2 ^ e.logsz + len * 64 then .halt 1
      else if e.fill < len * 64 then .none
      else if kind = 2 then .pad (len * 64)
      else if (List.range 40).any fun i => s.devBusy e.asid (e.addr e.rptr + 8 * i) .r then .none
      else .launch

/-- Bytes of a context read by the device, one translation for each byte's 8-byte word: none where a word would fault or is
poisoned. -/
def State.devBytes (s : State) (asid va n : Nat) : Option (List Byte) :=
  (List.range (n / 8)).foldl (fun acc i =>
    match acc, s.translate asid (va + 8 * i) .r with
    | some bs, .ok key _ _ => if s.lostWord key 8 then none else some (bs ++ s.peek key 8)
    | some bs, .zero | some bs, .wake _ => some (bs ++ List.replicate 8 0)
    | _, _ => none) (some [])

/-- A launch header from its 288 bytes (R57 to R61). -/
def hdrParse (b : Nat → Nat → Nat) : LHdr :=
  let shape := b 0x18 8
  let crews := b 0x50 8
  let part := b 0x58 8
  let flags := b 0x64 4
  { entc := b 0 8, entp := b 8 8, hdlr := b 0x10 8, tl := fld shape 36 3,
    w := (List.range 6).map fun i => fld shape (6 * i) 6, ext := (List.range 6).map fun i => b (0x20 + 8 * i) 8,
    allp := fld crews 32 10, allc := fld crews 16 10, crwp := fld crews 8 6, crwc := fld crews 0 6,
    ckpu := fld part 24 9, acct := fld part 18 6, scru := fld part 9 9, regu := fld part 0 9, privb := b 0x60 4,
    handler := fld flags 3 1 == 1, rolesplit := fld flags 2 1 == 1, nomatrix := fld flags 1 1 == 1,
    progress := fld flags 0 1 == 1, tslice := b 0x68 4, drain := b 0x6C 4, save := b 0x70 4, prio := b 0x74 1 % 8,
    nclm := b 0x75 1, ndep := b 0x76 1, csig := b 0x78 8, dsig := (List.range 4).map fun i => b (0x80 + 8 * i) 8,
    clm := (List.range 16).map fun i => b (0xA0 + 8 * i) 8 }

/-- The reader of numbers in a byte list. -/
def rdBytes (bs : List Byte) (off n : Nat) : Nat := leNat ((bs.drop off).take n)

/-- Write a launch's completion signal (R383): none where CSIG is 0; one that cannot be stored is logged. One rejected for a
misaligned CSIG gets its status at that address all the same (log entry 83). -/
def State.signal (s : State) (l : Launch) (lnum : Nat) (st : Word) : State :=
  if l.hd.csig = 0 then s
  else
    match s.devStoreCoh l.asid l.hd.csig (leBytes 8 (lnum * 2 ^ 32 + st.toNat)) with
    | some s1 => s1.eventAll 1
    | none => s.deputy 12 0xFF00 l.asid 1 l.hd.csig

end Machine
end Sys2Proof
end

