-- ==== Sys2Proof/Machine/MemoryI.lean ====
section
/-! DEFINITION. LD, ST, ATOM, RED, FENCE, PREF and CCTL (R236 to R254), and the events by which accesses are performed
and acknowledged (R129, R196, R199, R204, R234, R241). -/

namespace Sys2Proof
namespace Machine

/-- The outcome of performing an access: a hole in physical memory is a fault. -/
def Perf.res (s : State) : Perf → Res
  | .done s1 => .next s1
  | .wait => .next s
  | .hole key => .fault (.noSuchMemory key)

/-- The trap of a failed check: TADDR for the causes that record it (R421). -/
def chkTrap (c : Cause) (ea : Nat) : Out := .trap c 0 0 (BitVec.ofNat 64 ea)

/- ## Strong operations at issue (R205, R222, R246, R316) -/

/-- A member is lagging (R322). -/
def VeinSet.lagging (v : VeinSet) : Bool :=
  decide (65536 < (v.sump.map fun u => u.packets).sum) || decide (8192 < v.seenSlot - v.applSlot)

/-- Ask for a slot: the banksman itself takes the request as its next event (R315). -/
def State.askSlot (s : State) (slot : Nat) (v : VeinSet) : State :=
  if v.banksman = v.rank then { s with agenda := s.agenda ++ [.slotRequest slot v.rank] }
  else s.send (.slotReq v.vsid v.rank)

/-- A strong operation orders its thread's accesses as an ar access of scope fab and is a commit point: every earlier
access has been performed before it asks for a slot (R205, R212, R402). -/
def State.mayStrong (s : State) (k : Task) (t : Thread) : Bool := s.mayCommit k t && !(t.ops.any Op.openAcc)

/-- Issue a strong operation: LAG at once on a lagging member, PROT where the page's permissions or the set's segment do
not allow the access, else a slot is requested (R232, R315, R316). -/
def strongIssue (i : Instr) (a : Acc) (data : List Byte) (op : Option Aop) (w64 : Bool) (b c : DWord) (d : Option Opnd)
    (x : Ctx) (st : State) : Out :=
  match st.veinOf x.k.asid with
  | none => chkTrap .strongseg a.va
  | some (slot, v) =>
    if v.lagging then
      .ok (st.updThread x.r fun t =>
        { t.puts (match d with | some d => putG d (List.replicate (max 1 (a.n / 4)) 0) | none => []) with
          sstat := status Code.lag 0 })
    else
      let st1 := st.commit x.r
      let (id, st2) := st1.fresh
      let o := mkOp id i x.t.pc false (.strong a data op w64 b c d)
      let st3 := st2.addOp x.r o
      match st.locate x.k.asid a.va (if a.write then .w else .r) with
      | .fault f => .ok (st3.failOp x.r o f 0)
      | _ =>
      let so : StrongOp := { ref := x.r, op := id, slot := none, performed := false, acks := [], requested := !v.held }
      match Assoc.find? st3.veins slot with
      | none => .ok st3
      | some v1 =>
        let st4 := { st3 with veins := Assoc.put st3.veins slot { v1 with strongs := v1.strongs ++ [so] } }
        .ok (if v.held then st4 else st4.askSlot slot v1)

/-- The strong form's segment check: the page must be a vein page (R232, R239). -/
def isVeinPage (x : Ctx) (p : Place) (ea : Nat) : Bool := decide (p = .glob) && decide (x.s.pageCls x.k.asid ea = some 2)

/- ## LD and ST -/

/-- LD at issue (R238, R239). -/
def ldBody (i : Instr) (sz : Nat) (ord : Ord) (scope : Scope) (hint : Nat) (d a : Opnd) (off : BitVec 16) (x : Ctx)
    (st : State) : Out :=
  let ea := x.ea a off
  match x.check ea (2 ^ sz) false with
  | .bad c => chkTrap c ea
  | .ok p =>
    let acc : Acc := { va := ea, n := 2 ^ sz, place := p, write := false, read := true, ord := ord, scope := scope, hint := hint }
    if ord = .strong then
      (if isVeinPage x p ea then strongIssue i acc [] none (decide (sz = 3)) 0 0 (some d) x st else chkTrap .strongseg ea)
    else
      let (id, st1) := st.fresh
      .ok (st1.addOp x.r (mkOp id i x.t.pc false (.load acc d)))

/-- LD. -/
def execLd (h : Hdr) (sz : Nat) (ord : Ord) (scope : Scope) (hint : Nat) (d a : Opnd) (off : BitVec 16) (s : State) : Res :=
  .next (issueWith (.ld h sz ord scope hint d a off)
    (fun st k _ acts => decide (ord ≠ .strong) || acts.all fun e => st.mayStrong k e.2)
    (ldBody (.ld h sz ord scope hint d a off) sz ord scope hint d a off) s)

/-- The bytes an ST takes from its source registers (R238). -/
def stData (x : Ctx) (d : Opnd) (n : Nat) : List Byte :=
  match d with
  | .v _ => (bytesOf ((List.range (max 1 (n / 4))).map fun i => x.gi d i)).take n
  | .sp k => leBytes n (x.special k)

/-- The wake port stands at an address (R395). -/
def isWakePort (x : Ctx) (p : Place) (ea : Nat) : Bool :=
  decide (p = .glob) && (match x.s.translate x.k.asid ea .w with | .wake off => decide (off < 4096) | _ => false)

/-- A wake write by a task is performed: as a store of ORD rel and scope sys it goes after all that its commit must make
visible (R372, R395), and commits; a bad seal freezes the task (R373, R411). -/
def State.wakeStore (s : State) (r : TRef) (k : Task) (t : Thread) (o : Op) (data : List Byte) : Perf :=
  if (t.ops.takeWhile fun e => e.id != o.id).any (fun e => e.openAcc || e.ticket.isSome) || s.acksOut r.core r.slot || s.remoteOut k ||
      s.commitHeld k then .wait
  else if !s.prepared r.core k none then .done (s.prepare r k none)
  else
    let (s1, frozen) := (s.commit r).wake (some k.asid) (r.slot == fwSlot) (BitVec.ofNat 256 (leNat data))
    .done (if frozen then s1.failOp r o .prot 0 else s1.doneOp r o 0)

/-- ST at issue (R238, R239, R241). No later word of the thread issues before a wake write has been performed (R395). -/
def stBody (i : Instr) (sz : Nat) (ord : Ord) (scope : Scope) (hint : Nat) (d a : Opnd) (off : BitVec 16) (x : Ctx)
    (st : State) : Out :=
  let ea := x.ea a off
  match x.check ea (2 ^ sz) true with
  | .bad c => chkTrap c ea
  | .ok p =>
    let data := stData x d (2 ^ sz)
    let acc : Acc := { va := ea, n := 2 ^ sz, place := p, write := true, read := false, ord := ord, scope := scope, hint := hint }
    if ord = .strong then
      (if isVeinPage x p ea then strongIssue i acc data none (decide (sz = 3)) 0 0 none x st else chkTrap .strongseg ea)
    else if decide (sz = 5) && isWakePort x p ea then
      let (id, st1) := st.fresh
      .ok (st1.addOp x.r { mkOp id i x.t.pc false (.store acc data) with win := 0 })
    else
      let (id, st1) := st.fresh
      let o := mkOp id i x.t.pc false (.store acc data)
      .ok (st1.addOp x.r { o with closed := !(Ord.releases ord && Scope.wide scope && decide (p = .glob)) })

/-- The group's strong stores wait for what a commit point waits for (R212); a store that releases, and a wake write, wait
until no access of their thread is on a ticket (R402). -/
def stPre (sz : Nat) (ord : Ord) (scope : Scope) (a : Opnd) (off : BitVec 16) (st : State) (k : Task) (q : Run) (acts : List (Nat × Thread)) :
    Bool :=
  acts.all fun e =>
    let x := st.ctx k q e.1 e.2
    let ea := x.ea a off
    match x.check ea (2 ^ sz) true with
    | .bad _ => true
    | .ok p =>
      if ord = .strong then st.mayStrong k e.2
      else if decide (sz = 5) && isWakePort x p ea then !e.2.onTicket
      else !(Ord.releases ord && Scope.wide scope && decide (p = .glob)) || !e.2.onTicket

/-- ST. -/
def execSt (h : Hdr) (sz : Nat) (ord : Ord) (scope : Scope) (hint : Nat) (d a : Opnd) (off : BitVec 16) (s : State) : Res :=
  .next (issueWith (.st h sz ord scope hint d a off) (stPre sz ord scope a off)
    (stBody (.st h sz ord scope hint d a off) sz ord scope hint d a off) s)

/- ## ATOM and RED -/

/-- The swap value of .cas: the register or pair after B (R243). -/
def casSwap (x : Ctx) (w64 : Bool) (b : Opnd) : DWord :=
  if w64 then x.gp b 2 else (x.gi b 1).zeroExtend 64

/-- The operand value of an atomic at its width. -/
def aopArg (x : Ctx) (w64 : Bool) (b : Opnd) : DWord := if w64 then x.d b else (x.w b).zeroExtend 64

/-- An atomic at issue: on global memory it is a commit point, and one of SCOPE task is as one of SCOPE chip (R244, R245,
R247). -/
def atomicBody (i : Instr) (op : Aop) (w64 : Bool) (ord : Ord) (scope : Scope) (d : Option Opnd) (a b : Opnd) (x : Ctx)
    (st : State) : Out :=
  let ea := (x.d a).toNat
  let n := if w64 then 8 else 4
  let arg := aopArg x w64 b
  let swap := if op = .cas then casSwap x w64 b else 0
  match x.check ea n true with
  | .bad c => chkTrap c ea
  | .ok p =>
    let wide := if p = .glob ∧ scope = .task then Scope.chip else scope
    let acc : Acc := { va := ea, n := n, place := p, write := true, read := true, ord := ord, scope := wide, hint := 0 }
    if ord = .strong then
      (if isVeinPage x p ea then strongIssue i acc [] (some op) w64 arg swap d x st else chkTrap .strongseg ea)
    else
      let st1 := if p = .glob then st.commit x.r else st
      let (id, st2) := st1.fresh
      let far := decide (p = .glob) && Ord.releases ord && Scope.far scope
      let o := mkOp id i x.t.pc false (.atomic acc op w64 arg swap d)
      .ok (st2.addOp x.r { o with closed := decide (d = none) && !far, sync := if decide (d = none) && far then 2 else 0 })

/-- Every active thread whose atomic goes to global memory may commit (R212). -/
def atomicPre (ord : Ord) (a : Opnd) (st : State) (k : Task) (q : Run) (acts : List (Nat × Thread)) : Bool :=
  acts.all fun e =>
    let ea := ((st.ctx k q e.1 e.2).d a).toNat
    decide (privBase ≤ ea) || (if ord = .strong then st.mayStrong k e.2 else st.mayCommit k e.2)

/-- ATOM. -/
def execAtom (h : Hdr) (op : Aop) (w64 : Bool) (ord : Ord) (scope : Scope) (d a b : Opnd) (s : State) : Res :=
  .next (issueWith (.atom h op w64 ord scope d a b) (atomicPre ord a)
    (atomicBody (.atom h op w64 ord scope d a b) op w64 ord scope (some d) a b) s)

/-- RED. -/
def execRed (h : Hdr) (op : Aop) (w64 : Bool) (ord : Ord) (scope : Scope) (a b : Opnd) (s : State) : Res :=
  .next (issueWith (.red h op w64 ord scope a b) (atomicPre ord a)
    (atomicBody (.red h op w64 ord scope a b) op w64 ord scope none a b) s)

/- ## FENCE (R248 to R250) -/

/-- The engine operations of a task that have issued and not reached their completion events (R249): its copies, its
waiting skip-buffer operations and its matrix operations. -/
def State.engineOps (s : State) (core : Nat) (k : Task) : List Nat :=
  let c := s.core core
  let mine := fun (os : List EngOp) => (os.filter fun o => o.uid == k.uid).map fun o => o.id
  (((s.copiesOf core k.uid).filter fun e => !e.2.again).map fun e => e.2.id) ++
  (k.qs.flatMap fun e => ((e.2.resv ++ e.2.take).filter fun x => x.skop && !x.granted).map fun x => x.id) ++
  mine c.mac0.queue ++ mine c.mac1.queue ++ (k.drains.map fun o => o.id)

/-- Put a thread into the wait of a FENCE, with the engine operations issued before it. -/
def fenceBody (kind : Nat) (scope : Scope) (eng : Bool) (d : Opnd) (x : Ctx) (st : State) : Out :=
  .stay (st.updThread x.r fun t =>
    { t with wait := .fence kind scope (if eng then st.engineOps x.r.core x.k else []) false d })

/-- FENCE .full. -/
def execFenceFull (h : Hdr) (d : Opnd) (scope : Scope) (eng : Bool) (s : State) : Res :=
  .next (issue (.fenceFull h d scope eng) (fenceBody 0 scope eng d) s)

/-- FENCE .acq. -/
def execFenceAcq (h : Hdr) (d : Opnd) (scope : Scope) (eng : Bool) (s : State) : Res :=
  .next (issue (.fenceAcq h d scope eng) (fenceBody 1 scope eng d) s)

/-- FENCE .rel. -/
def execFenceRel (h : Hdr) (d : Opnd) (scope : Scope) (eng : Bool) (s : State) : Res :=
  .next (issue (.fenceRel h d scope eng) (fenceBody 2 scope eng d) s)

/- ## PREF and CCTL -/

/-- PREF: completes at issue; its entry stays until the fill ends; a hint that is dropped is counted and holds none (R251,
R252). -/
def execPref (h : Hdr) (sz hint : Nat) (a : Opnd) (off : BitVec 16) (s : State) : Res :=
  .next (issue (.pref h sz hint a off) (fun x st =>
    if st.prefDrops x.r x.k (x.ea a off) sz then .ok (st.dropHint x.r) else
    let acc : Acc := { va := x.ea a off, n := 1, place := .glob, write := false, read := true, ord := .inv, scope := .task, hint := hint }
    let (id, st1) := st.fresh
    .ok (st1.addOp x.r { mkOp id (.pref h sz hint a off) x.t.pc false (.pref acc sz) with closed := true })) s)

/-- A cache-control word at issue (R254). -/
def cctlBody (i : Instr) (fn : Nat) (va : Ctx → Nat) (x : Ctx) (st : State) : Out :=
  let (id, st1) := st.fresh
  .ok (st1.addOp x.r (mkOp id i x.t.pc false (.cctl (va x) fn)))

/-- CCTL .inv. -/
def execCctlInv (h : Hdr) (a : Opnd) (off : BitVec 16) (s : State) : Res :=
  .next (issue (.cctlInv h a off) (cctlBody (.cctlInv h a off) 0 fun x => x.ea a off) s)

/-- CCTL .invall. -/
def execCctlInvall (h : Hdr) (s : State) : Res :=
  .next (issue (.cctlInvall h) (cctlBody (.cctlInvall h) 1 fun _ => 0) s)

/-- CCTL .wb. -/
def execCctlWb (h : Hdr) (a : Opnd) (off : BitVec 16) (s : State) : Res :=
  .next (issue (.cctlWb h a off) (cctlBody (.cctlWb h a off) 2 fun x => x.ea a off) s)

/-- CCTL .wbinv. -/
def execCctlWbinv (h : Hdr) (a : Opnd) (off : BitVec 16) (s : State) : Res :=
  .next (issue (.cctlWbinv h a off) (cctlBody (.cctlWbinv h a off) 3 fun x => x.ea a off) s)

/- ## Events -/

/-- An operation of a thread with its task: what the completion events act on. -/
def State.opOf (s : State) (r : TRef) (id : Nat) : Option (Task × Thread × Op) :=
  match s.task? r.core r.slot, s.thread? r with
  | some k, some t => (t.ops.find? fun o => o.id == id).map fun o => (k, t, o)
  | _, _ => none

/-- The event acts on an operation that is in flight and may be performed now; anything else leaves the machine as it
is. A frozen task's accesses stand still. -/
def onOp (r : TRef) (id : Nat) (f : Task → Thread → Op → Perf) (s : State) : Res :=
  match s.opOf r id with
  | some (k, t, o) =>
    if o.ticket.isNone && k.frozen.isNone && s.mayPerform r k t o then (f k t o).res s else .next s
  | none => .next s

/-- REGISTER_RESULT_WRITE (R129). -/
def execRegisterResultWrite (r : TRef) (op : Nat) (s : State) : Res :=
  match s.opOf r op with
  | some (_, _, o) =>
    (match o.kind with
     | .result ws => .next (s.endOp r op ws)
     | _ => .next s)
  | none => .next s

/-- A load's or ATOM's data returns (R241, R247). -/
def loadReturn (r : TRef) (op : Nat) (fromL1 : Bool) (s : State) : Res :=
  onOp r op (fun k t o =>
    match o.kind with
    | .load a d => s.performLoad r k o a d fromL1
    | .atomic a aop w64 b c (some d) => if fromL1 then .wait else s.performAtomic r k t o a aop w64 b c (some d)
    | _ => .wait) s

/-- A store, reduction, prefetch or cache-control operation is performed (R234). -/
def performReturn (r : TRef) (op : Nat) (s : State) : Res :=
  onOp r op (fun k t o =>
    match o.kind with
    | .store a data =>
      (match a.place, s.locate k.asid a.va .w with
       | .glob, .wake off => if off < 4096 ∧ a.n = 32 then s.wakeStore r k t o data else s.performStore r k t o a data
       | _, _ => s.performStore r k t o a data)
    | .atomic a aop w64 b c none => s.performAtomic r k t o a aop w64 b c none
    | .pref a sz => .done (s.performPref r k o a sz)
    | .cctl va fn => .done (s.performCctl r k o va fn)
    | _ => .wait) s

/-- INVALIDATION_ACK: the copies are gone and the count of each writer falls (R196). -/
def execInvalidationAck (id : Nat) (s : State) : Res :=
  match Assoc.find? s.invs id with
  | none => .next s
  | some v =>
    let s1 := { s with invs := Assoc.del s.invs id }
    let s2 := s1.updCore v.core fun c => c.l1Drop v.lo v.n
    .next (v.writers.foldl (fun st w => st.updThread w fun t => { t with acks := t.acks - 1 }) s2)

/-- Nothing sent to the peer before a write is still outstanding: the ordered class delivers writes in order (R448). -/
def State.oldestTo (s : State) (id peer : Nat) : Bool := s.rws.all fun e => e.2.peer != peer || decide (id ≤ e.1)

/-- REMOTE_WRITE_ACK: a peer has performed the bytes (R204): in the order they were sent, tracked copies given up, and the
copies of the core they left updated (R193); bytes on a ticket wait for its replay (R403). -/
def execRemoteWriteAck (id : Nat) (s : State) : Res :=
  match Assoc.find? s.rws id with
  | none => .next s
  | some w =>
    if !s.oldestTo id w.peer || s.agents.tickets.any (fun t => t.2.waiting && t.2.op == id) then .next s
    else
      let s1 := { s with rws := Assoc.del s.rws id }
      .next ((runsOf w.cells).foldl (fun st e =>
        let st1 := (st.l1Patch w.core e.1 e.2).pokeCoh e.1 e.2
        if w.poison then st1.addPoison e.1 e.2.length else st1) s1)

/-- DIRECTORY_RECALL_ALL: every L1 gives the line up; conflicting written data is a machine check that poisons it
(R199, R460). -/
def execDirectoryRecallAll (asid line : Nat) (conflict : Bool) (s : State) : Res :=
  let va := line * 512
  let s1 := { s with cores := s.cores.map fun e =>
    (e.1, { e.2 with l1 := e.2.l1.filter fun x => x.1 / 16 != l1Key asid va / 16 }) }
  if conflict then
    let s2 := s1.deputy 2 0xFF00 asid (Config.homeSlice asid line) va
    match s2.translate asid va .r with
    | .ok key _ _ => .next (s2.addPoison key 512)
    | _ => .next s2
  else .next s1

end Machine
end Sys2Proof
end

