-- ==== Sys2Proof/Machine/Skip.lean ====
section
/-! DEFINITION. Skip buffers (R265 to R267) and barrier objects (R268 to R270). -/

namespace Sys2Proof
namespace Machine

/- ## Skip buffers -/

/-- A skip buffer at release (R265). -/
def SkipBuf.reset : SkipBuf := { base := 0, esz := 0, cnt := 0, rsv := 0, pub := 0, crs := 0, con := 0, resv := [], take := [] }

/-- Skip buffer q of a task. -/
def Task.q (k : Task) (n : Nat) : SkipBuf := Assoc.getD k.qs SkipBuf.reset n

/-- Replace a skip buffer. -/
def Task.setQ (k : Task) (n : Nat) (b : SkipBuf) : Task := { k with qs := Assoc.setD k.qs SkipBuf.reset n b }

/-- Change a skip buffer of a task. -/
def State.updQ (s : State) (core slot n : Nat) (f : SkipBuf → SkipBuf) : State :=
  s.updTask core slot fun k => k.setQ n (f (k.q n))

/-- Room and available entries (R265). -/
def SkipBuf.room (b : SkipBuf) : Nat := b.cnt - (b.rsv - b.con).toNat
def SkipBuf.avail (b : SkipBuf) : Nat := (b.pub - b.crs).toNat

/-- The first reservation, or take, not yet granted. -/
def firstWaiting (xs : List SkEntry) : Option SkEntry := xs.find? fun x => !x.granted

/-- Mark an entry granted. -/
def grantEntry (xs : List SkEntry) (id : Nat) : List SkEntry :=
  xs.map fun x => if x.id = id then { x with granted := true } else x

/-- Mark an entry complete. -/
def completeEntry (xs : List SkEntry) (id : Nat) : List SkEntry :=
  xs.map fun x => if x.id = id then { x with done := x.n } else x

/-- Leave a queue without having taken or reserved (R265). -/
def dropEntry (xs : List SkEntry) (id : Nat) : List SkEntry := xs.filter fun x => x.id != id

/-- The entries of the reservations or takes at the head of a queue that are complete, and what is left of it (R265): one
that SKOP has marked in part stays, with its count (R267; log entry 20). -/
def splitDone : List SkEntry → Nat × List SkEntry
  | [] => (0, [])
  | x :: xs =>
    if x.granted ∧ x.done = x.n then let r := splitDone xs; (x.n + r.1, r.2)
    else (0, x :: xs)

/-- PUB and CON advance over what is complete, in order (R265). -/
def SkipBuf.advance (b : SkipBuf) : SkipBuf :=
  let p := splitDone b.resv
  let c := splitDone b.take
  { b with pub := b.pub + BitVec.ofNat 32 p.1, resv := p.2, con := b.con + BitVec.ofNat 32 c.1, take := c.2 }

/-- Grant a reservation: RSV rises. -/
def SkipBuf.reserve (b : SkipBuf) (id n : Nat) : SkipBuf :=
  { b with rsv := b.rsv + BitVec.ofNat 32 n, resv := grantEntry b.resv id }

/-- Grant a take: CRS rises. -/
def SkipBuf.takeOne (b : SkipBuf) (id n : Nat) : SkipBuf :=
  { b with crs := b.crs + BitVec.ofNat 32 n, take := grantEntry b.take id }

/-- A new entry of a queue. -/
def newEntry (id n : Nat) (skop : Bool) : SkEntry := { id := id, n := n, granted := false, done := 0, skop := skop }

/-- An engine operation of a task ends: its status enters the D of every thread's operation of that identifier. -/
def State.endEngine (s : State) (core slot id : Nat) (st : Word) : State :=
  (s.threadsOf core slot).foldl (fun a e =>
    match e.2.ops.find? (fun o => o.id == id) with
    | some o => (match o.kind with
                 | .engine ds => a.endOp ⟨core, slot, e.1⟩ id (ds.flatMap fun d => putW d st)
                 | _ => a)
    | none => a) s

/-- Grant the oldest waiting SKOP reservation or take that the buffer can serve now (R265, R267). -/
def State.grantSkop (s : State) (core slot q : Nat) : State :=
  match s.task? core slot with
  | none => s
  | some k =>
    let b := k.q q
    let old := fun (p : Word) => status Code.ok (p.toNat % max 1 b.cnt)
    match firstWaiting b.resv with
    | some x =>
      if x.skop ∧ x.n ≤ b.room then (s.setTask core slot (k.setQ q (b.reserve x.id x.n))).endEngine core slot x.id (old b.rsv)
      else grantTake k b old
    | none => grantTake k b old
where
  /-- The take side. -/
  grantTake (k : Task) (b : SkipBuf) (old : Word → Word) : State :=
    match firstWaiting b.take with
    | some x =>
      if x.skop ∧ x.n ≤ b.avail then (s.setTask core slot (k.setQ q (b.takeOne x.id x.n))).endEngine core slot x.id (old b.crs)
      else s
    | none => s

/-- SKIP_BUFFER_GRANT (R265, R267). -/
def execSkipBufferGrant (core slot q : Nat) (s : State) : Res := .next (s.grantSkop core slot q)

/-- A copy in flight names a buffer. -/
def State.copyNames (s : State) (core uid q : Nat) : Bool :=
  (s.copiesOf core uid).any fun e => decide (e.2.qsrc = some q) || decide (e.2.qdst = some q)

/-- The status of an SKCFG, and the buffer it leaves (R266). -/
def skcfgEffect (k : Task) (b : SkipBuf) (named : Bool) (base geo : Nat) : Word × SkipBuf :=
  let cnt := fld geo 0 12
  let esz := fld geo 12 12
  if b.rsv ≠ b.con ∨ b.crs ≠ b.con ∨ named ∨ b.resv ≠ [] ∨ b.take ≠ [] then (status Code.baddesc 0x010002, b)
  else if base % 32 ≠ 0 then (status Code.baddesc 0, b)
  else if geo / 2 ^ 24 ≠ 0 ∨ (decide (cnt = 0) != decide (esz = 0)) ∨ 2048 < cnt ∨ 2048 < esz ∨
      k.scratchLen < base + cnt * esz * 32 then (status Code.baddesc 1, b)
  else (openStatus 94 Code.ok, { SkipBuf.reset with base := base, esz := esz, cnt := cnt })

/-- SKCFG (R266). -/
def execSkcfg (h : Hdr) (d a b : Opnd) (q : Nat) (s : State) : Res :=
  .next (issue (.skcfg h d a b q) (fun x st =>
    match st.task? x.r.core x.r.slot with
    | none => .ok st
    | some k =>
      let e := skcfgEffect k (k.q q) (st.copyNames x.r.core k.uid q) (x.w a).toNat (x.w b).toNat
      .ok ((st.updQ x.r.core x.r.slot q fun _ => e.2).updThread x.r fun t => t.puts (putW d e.1))) s)

/-- The misuse of an SKOP on its buffer, before its function (R267): unconfigured, or n out of range. -/
def skopBad (b : SkipBuf) (n : Nat) : Option Nat :=
  if b.cnt = 0 then some 0x010000 else if n = 0 ∨ b.cnt < n then some 0x010001 else none

/-- Entries of a queue that SKOP has been granted and that are still open. -/
def openSkop (xs : List SkEntry) : Nat := ((xs.filter fun x => x.skop && x.granted).map fun x => x.n - x.done).sum

/-- Complete n entries of SKOP, the oldest first. -/
def fillSkop : List SkEntry → Nat → List SkEntry
  | [], _ => []
  | x :: xs, n =>
    if x.skop && x.granted then
      let m := min n (x.n - x.done)
      { x with done := x.done + m } :: fillSkop xs (n - m)
    else x :: fillSkop xs n

/-- The thread's status is written at once. -/
def putStatus (x : Ctx) (st : State) (d : Opnd) (w : Word) : Out := .ok (st.updThread x.r fun t => t.puts (putW d w))

/-- The waiting forms of SKOP: D is pending until the grant (R267). -/
def skopWait (i : Instr) (d b : Opnd) (q : Nat) (take : Bool) (x : Ctx) (st : State) : Out :=
  match st.task? x.r.core x.r.slot with
  | none => .ok st
  | some k =>
    let n := (x.w b).toNat
    match skopBad (k.q q) n with
    | some e => putStatus x st d (status Code.baddesc e)
    | none =>
      let (id, st1) := st.fresh
      let st2 := st1.addOp x.r { mkOp id i x.t.pc true (.engine [d]) with closed := true }
      let st3 := st2.updQ x.r.core x.r.slot q fun b =>
        if take then { b with take := b.take ++ [newEntry id n true] } else { b with resv := b.resv ++ [newEntry id n true] }
      .ok (st3.grantSkop x.r.core x.r.slot q)

/-- The completing forms of SKOP (R267). -/
def skopMark (d b : Opnd) (q : Nat) (take : Bool) (x : Ctx) (st : State) : Out :=
  match st.task? x.r.core x.r.slot with
  | none => .ok st
  | some k =>
    let n := (x.w b).toNat
    let q0 := k.q q
    match skopBad q0 n with
    | some e => putStatus x st d (status Code.baddesc e)
    | none =>
      if openSkop (if take then q0.take else q0.resv) < n then putStatus x st d (status Code.baddesc 0x010001)
      else
        let q1 := if take then { q0 with take := fillSkop q0.take n } else { q0 with resv := fillSkop q0.resv n }
        putStatus x (st.updQ x.r.core x.r.slot q fun _ => q1.advance) d (openStatus 95 Code.ok)

/-- The active threads' earlier scratchpad accesses have been performed (R267, R268). -/
def scratchQuiet (_ : State) (_ : Task) (_ : Run) (acts : List (Nat × Thread)) : Bool :=
  acts.all fun e => !(e.2.ops.any fun o => match o.acc? with
    | some a => (match a.place with | .scratch _ => true | _ => false)
    | none => false)

/-- SKOP .res. -/
def execSkopRes (h : Hdr) (d b : Opnd) (q : Nat) (s : State) : Res :=
  .next (issue (.skopRes h d b q) (skopWait (.skopRes h d b q) d b q false) s)

/-- SKOP .pub. -/
def execSkopPub (h : Hdr) (d b : Opnd) (q : Nat) (s : State) : Res :=
  .next (issueWith (.skopPub h d b q) scratchQuiet (skopMark d b q false) s)

/-- SKOP .take. -/
def execSkopTake (h : Hdr) (d b : Opnd) (q : Nat) (s : State) : Res :=
  .next (issue (.skopTake h d b q) (skopWait (.skopTake h d b q) d b q true) s)

/-- SKOP .pop. -/
def execSkopPop (h : Hdr) (d b : Opnd) (q : Nat) (s : State) : Res :=
  .next (issueWith (.skopPop h d b q) scratchQuiet (skopMark d b q true) s)

/-- SKOP .state. -/
def execSkopState (h : Hdr) (d : Opnd) (q : Nat) (s : State) : Res :=
  .next (issue (.skopState h d q) (fun x st =>
    match st.task? x.r.core x.r.slot with
    | none => .ok st
    | some k =>
      let b := k.q q
      putStatus x st d (if b.cnt = 0 then status Code.baddesc 0x010000
                        else status Code.ok (b.avail % 4096 * 4096 + b.room % 4096))) s)

/- ## Barrier objects -/

/-- A barrier object (R268). -/
structure BarObj where
  arr : Word
  exp : Word
  pend : Word
  phase : Word
  deriving DecidableEq, Repr

/-- Read a barrier object of a task's scratchpad. -/
def Task.barObj (k : Task) (off : Nat) : BarObj :=
  let g := fun i => BitVec.ofNat 32 (leNat (Memory.readN k.scratch (off + 4 * i) 4))
  { arr := g 0, exp := g 1, pend := g 2, phase := g 3 }

/-- Write a barrier object. -/
def State.putBar (s : State) (core slot off : Nat) (o : BarObj) : State :=
  s.scratchWrite core slot off (bytesOf [o.arr, o.exp, o.pend, o.phase])

/-- Evaluate an object: the phase advances where nothing is awaited (R268). -/
def BarObj.eval (o : BarObj) : BarObj :=
  if o.arr = 0 ∧ o.pend = 0 then { o with phase := o.phase + 1, arr := o.exp } else o

/-- Threads of a task that wait on an object whose phase has the parity they wait for go on: at the first moment it has it
(R270). -/
def State.barWake (s : State) (core slot off : Nat) : State :=
  match s.task? core slot with
  | none => s
  | some k =>
    let o := k.barObj off
    (s.threadsOf core slot).foldl (fun st e =>
      match e.2.wait with
      | .bwait a p d => if a = off ∧ o.phase.getLsbD 0 ≠ p then st.endWait ⟨core, slot, e.1⟩ (putW d o.phase) else st
      | _ => st) s

/-- An update of an object by a barrier instruction or a copy's completion (R268). -/
def State.barUpdate (s : State) (core slot off : Nat) (o : BarObj) : State := (s.putBar core slot off o).barWake core slot off

/-- The object's offset in the scratchpad window, or the trap of its address (R270). -/
def Ctx.barAddr (x : Ctx) (a : Opnd) : Except (Cause × Nat) Nat :=
  let ea := (x.d a).toNat
  if ea % 16 ≠ 0 then .error (.align, 0)
  else if scratchBase ≤ ea ∧ ea + 16 ≤ scratchBase + x.k.scratchLen then .ok (ea - scratchBase)
  else .error (.engine, 3)

/-- An instruction on an object: its address is checked, and one that reads poisoned words consumes them: reads gives the first
of the object's bytes that it reads, all to the object's end, none where it reads none (R270, R409). -/
def onBar (a : Opnd) (reads : Option Nat) (f : Nat → BarObj → Out) (x : Ctx) (st : State) : Out :=
  match x.barAddr a with
  | .error (c, d) => .trap c d 0 (if c = .align then x.d a else 0)
  | .ok off =>
    match st.task? x.r.core x.r.slot with
    | none => .ok st
    | some k =>
      if reads.any (fun lo => k.spoisoned (off + lo) (16 - lo)) then .stay (st.updThread x.r fun t => t.defer .uncorr 0 x.t.pc 0)
      else f off (k.barObj off)

/-- BINIT. -/
def execBinit (h : Hdr) (a : Opnd) (n : Nat) (s : State) : Res :=
  .next (issueWith (.binit h a n) scratchQuiet (fun x st =>
    onBar a none (fun off _ => .ok (st.barUpdate x.r.core x.r.slot off
      { arr := BitVec.ofNat 32 n, exp := BitVec.ofNat 32 n, pend := 0, phase := 0 })) x st) s)

/-- BARV. -/
def execBarv (h : Hdr) (d a : Opnd) (n : Nat) (s : State) : Res :=
  .next (issueWith (.barv h d a n) scratchQuiet (fun x st =>
    onBar a (some 0) (fun off o =>
      if o.arr.toNat < n then .trap .engine 1 0 0
      else .ok ((st.barUpdate x.r.core x.r.slot off { o with arr := o.arr - BitVec.ofNat 32 n }.eval).updThread x.r
        fun t => t.puts (putW d o.phase))) x st) s)

/-- BEXP. -/
def execBexp (h : Hdr) (d a : Opnd) (n : Nat) (s : State) : Res :=
  .next (issueWith (.bexp h d a n) scratchQuiet (fun x st =>
    onBar a (some 0) (fun off o =>
      if o.arr = 0 then .trap .engine 1 0 0
      else if (2 : Int) ^ 31 - 1 < o.pend.toInt + 16 * n then .trap .engine 2 0 0
      else
        let o1 : BarObj := { o with arr := o.arr - 1, pend := o.pend + BitVec.ofNat 32 (16 * n) }
        .ok ((st.barUpdate x.r.core x.r.slot off o1.eval).updThread x.r fun t => t.puts (putW d o.phase))) x st) s)

/-- BWAIT: the phase already reached ends the wait at once (R270). -/
def execBwait (h : Hdr) (d a : Opnd) (p : Bool) (s : State) : Res :=
  .next (issueWith (.bwait h d a p) scratchQuiet (fun x st =>
    onBar a (some 12) (fun off o =>
      if o.phase.getLsbD 0 != p then .ok (st.updThread x.r fun t => t.puts (putW d o.phase))
      else .stay (st.updThread x.r fun t => { t with wait := .bwait off p d })) x st) s)

end Machine
end Sys2Proof
end

