-- ==== Sys2Proof/Machine/Copy.lean ====
section
/-! DEFINITION. The copies: descriptors and their checks (R255 to R259, R498), issue (R260), the transfer and its
completion events (R261 to R264). -/

namespace Sys2Proof
namespace Machine

/- ## Descriptors (R256, R257) -/

/-- A copy's descriptor: kind 0 COPY, 1 COPYT, 2 GATH. -/
structure CpDesc where
  kind : Nat
  src : Nat
  dst : Nat
  flags : Nat
  n0 : Nat
  n1 : Nat
  n2 : Nat
  e : Nat
  ss1 : Int
  ss2 : Int
  ds1 : Int
  ds2 : Int
  list : Nat
  nrow : Nat
  sstr : Int
  rowb : Nat
  deriving DecidableEq, Repr

/-- COPY's descriptor at register A. -/
def copyDesc (x : Ctx) (a : Opnd) : CpDesc :=
  { kind := 0, src := (x.gp a 0).toNat, dst := (x.gp a 2).toNat, flags := (x.gi a 5).toNat, n0 := (x.gi a 4).toNat, n1 := 1,
    n2 := 1, e := 1, ss1 := 0, ss2 := 0, ds1 := 0, ds2 := 0, list := 0, nrow := 0, sstr := 0, rowb := 0 }

/-- COPYT's descriptor. A reserved ESIZE is taken as 2^ESIZE bytes in the alignment checks, which come first (R498; log entry
86). -/
def copytDesc (x : Ctx) (a : Opnd) : CpDesc :=
  { kind := 1, src := (x.gp a 0).toNat, dst := (x.gp a 2).toNat, flags := (x.gi a 4).toNat, n0 := (x.gi a 5).toNat,
    n1 := (x.gi a 6).toNat, n2 := (x.gi a 7).toNat, e := 2 ^ fld (x.gi a 4).toNat 5 3, ss1 := (x.gi a 8).toInt,
    ss2 := (x.gi a 9).toInt, ds1 := (x.gi a 10).toInt, ds2 := (x.gi a 11).toInt, list := 0, nrow := 0, sstr := 0, rowb := 0 }

/-- GATH's descriptor. -/
def gathDesc (x : Ctx) (a : Opnd) : CpDesc :=
  { kind := 2, src := (x.gp a 0).toNat, dst := (x.gp a 2).toNat, flags := (x.gi a 5).toNat, n0 := 0, n1 := 1, n2 := 1, e := 1,
    ss1 := 0, ss2 := 0, ds1 := 0, ds2 := 0, list := (x.gp a 6).toNat, nrow := (x.gi a 8).toNat, sstr := (x.gi a 9).toInt,
    rowb := (x.gi a 4).toNat }

/-- The bytes a copy moves (R257). -/
def CpDesc.total (c : CpDesc) : Nat := if c.kind = 2 then c.nrow * c.rowb else c.n0 * c.n1 * c.n2 * c.e

/-- The FLAGS register's offset (R498). -/
def CpDesc.flagReg (c : CpDesc) : Nat := if c.kind = 1 then 4 else 5
/-- RO and EXPD (R256). -/
def CpDesc.ro (c : CpDesc) : Bool := c.flags.testBit 0
def CpDesc.expd (c : CpDesc) : Bool := c.flags.testBit 1

/-- The lowest and one past the highest address of a strided side. -/
def CpDesc.extent (c : CpDesc) (base : Nat) (s1 s2 : Int) : Int × Int :=
  let t1 := s1 * (c.n1 - 1 : Nat)
  let t2 := s2 * (c.n2 - 1 : Nat)
  (base + min 0 t1 + min 0 t2, base + c.n0 * c.e + max 0 t1 + max 0 t2)

/-- The range of the source side, of the destination side and of the index list. -/
def CpDesc.srcRange (c : CpDesc) : Int × Int := if c.kind = 2 then (c.src, c.src) else c.extent c.src c.ss1 c.ss2
def CpDesc.dstRange (c : CpDesc) : Int × Int :=
  if c.kind = 2 then ((c.dst : Int), (c.dst : Int) + c.total) else c.extent c.dst c.ds1 c.ds2
def CpDesc.listRange (c : CpDesc) : Int × Int := ((c.list : Int), (c.list : Int) + 4 * c.nrow)

/-- A range leaves the scratchpad's extent or touches the private window (R258): it reaches the windows' part of the
space without lying in the scratchpad window. So does one beyond both windows' extents or between the windows (log entry 87). -/
def badRange (k : Task) (r : Int × Int) : Bool :=
  decide (r.1 < r.2) && decide ((privBase : Int) < r.2) && decide (r.1 < (vaTop : Int)) &&
    !(decide ((scratchBase : Int) ≤ r.1) && decide (r.2 ≤ (scratchBase : Int) + k.scratchLen))

/-- The q of a copy's side, and whether Q is the destination. -/
def QSide.q? : QSide → Option Nat
  | .none => none
  | .to q => some q
  | .from q => some q

/-- The barrier object an operand names (R255). -/
def barOf (x : Ctx) (b : Opnd) : Option Nat := if b = Opnd.zero then none else some (x.d b).toNat

/-- The DETAILs of every case of R498 that holds. -/
def CpDesc.faults (c : CpDesc) (k : Task) (bar : Option Nat) (q : QSide) : List Nat :=
  let esize := fld c.flags 5 3
  let isQ := (QSide.q? q).isSome
  let toQ := match q with | .to _ => true | _ => false
  let fromQ := match q with | .from _ => true | _ => false
  let t := c.total
  let mis := fun (v : Int) => decide (v % c.e ≠ 0)
  let on := fun (b : Bool) (v : Nat) => if b then [v] else []
  on (decide (c.flags / 256 ≠ 0) || c.flags.testBit 2 || decide (4 < esize) || (c.kind != 1 && esize != 0)) c.flagReg ++
  on (c.ro && (isQ || !(decide (scratchBase ≤ c.dst) && decide (c.dst < vaTop)) || decide (privBase ≤ c.src))) c.flagReg ++
  on (c.expd && bar.isNone) c.flagReg ++
  on (c.kind == 0 && (c.n0 == 0 || c.n0 % 16 != 0)) 4 ++
  on (c.kind == 2 && (c.rowb == 0 || c.rowb % 16 != 0 || decide (65536 < c.rowb))) 4 ++
  on (c.kind == 1 && c.n0 == 0) 5 ++ on (c.kind == 1 && c.n1 == 0) 6 ++ on (c.kind == 1 && c.n2 == 0) 7 ++
  on (c.kind == 2 && (c.nrow == 0 || decide (65536 < c.nrow))) 8 ++
  on (if c.kind = 1 then mis c.src else decide (c.src % 16 ≠ 0)) 0 ++
  on (c.kind == 2 && decide (privBase ≤ c.src)) 0 ++
  on (if c.kind = 1 then mis c.dst else decide (c.dst % 16 ≠ 0)) 2 ++
  on (c.kind == 1 && mis c.ss1) 8 ++ on (c.kind == 1 && mis c.ss2) 9 ++ on (c.kind == 1 && mis c.ds1) 10 ++
  on (c.kind == 1 && mis c.ds2) 11 ++
  on (c.kind == 2 && c.list % 4 != 0) 6 ++
  on (decide (2 ^ 32 - 16 < t) || (bar.isSome && decide (2 ^ 31 - 1 < t))) (if c.kind = 1 then 5 else 4) ++
  on (!fromQ && badRange k c.srcRange) 0 ++ on (!toQ && badRange k c.dstRange) 2 ++
  on (c.kind == 2 && badRange k c.listRange) 6 ++
  on (fromQ && c.src != 0) 0 ++ on (toQ && c.dst != 0) 2 ++
  on (fromQ && c.ss1 != 0) 8 ++ on (fromQ && c.ss2 != 0) 9 ++ on (toQ && c.ds1 != 0) 10 ++ on (toQ && c.ds2 != 0) 11 ++
  (match QSide.q? q with
   | none => []
   | some n =>
     let b := k.q n
     if b.cnt = 0 then [0x010000]
     else on (decide (t % (b.esz * 32) ≠ 0) || decide (b.cnt < t / (b.esz * 32))) 0x010001) ++
  (match bar with
   | none => []
   | some o => on (decide (o % 16 ≠ 0) || !(decide (scratchBase ≤ o) && decide (o + 16 ≤ scratchBase + k.scratchLen))) 0x030000)

/-- The least of a list. -/
def leastOf : List Nat → Option Nat
  | [] => none
  | x :: xs => some (xs.foldl min x)

/-- The DETAIL of a malformed copy; none where it is well-formed (R498). -/
def CpDesc.bad (c : CpDesc) (k : Task) (bar : Option Nat) (q : QSide) : Option Nat := leastOf (c.faults k bar q)

/-- The entries a copy takes of its buffer. -/
def CpDesc.entries (c : CpDesc) (k : Task) (q : QSide) : Nat :=
  match QSide.q? q with
  | some n => c.total / max 1 ((k.q n).esz * 32)
  | none => 0

/- ## Moves -/

/-- The rows of a copy as (source, destination, length): each row is contiguous on both sides. -/
def CpDesc.rows (c : CpDesc) : List (Int × Int × Nat) :=
  if c.kind = 2 then [((0 : Int), (c.dst : Int), c.total)]
  else
    (List.range c.n2).flatMap fun i2 => (List.range c.n1).map fun i1 =>
      ((c.src : Int) + c.ss1 * i1 + c.ss2 * i2, (c.dst : Int) + c.ds1 * i1 + c.ds2 * i2, c.n0 * c.e)

/-- The address of byte pos of entries that begin at a pointer (R265). -/
def SkipBuf.addr (b : SkipBuf) (first pos : Nat) : Nat :=
  let n := max 1 (b.esz * 32)
  scratchBase + b.base + (first + pos / n) % 2 ^ 32 % max 1 b.cnt * n + pos % n

/-- Cut a linear range at entry boundaries. -/
def cutEntries (b : SkipBuf) (first : Nat) : Nat → Nat → Nat → Nat → List (Nat × Nat × Nat)
  | 0, _, _, _ => []
  | fuel + 1, other, pos, len =>
    if len = 0 then []
    else
      let n := max 1 (b.esz * 32)
      let m := min len (n - pos % n)
      (other, b.addr first pos, m) :: cutEntries b first fuel (other + m) (pos + m) (len - m)

/-- Rows packed one after another on the buffer's side: (other side, buffer side, length). -/
def packRows (b : SkipBuf) (first : Nat) : List (Nat × Nat) → Nat → List (Nat × Nat × Nat)
  | [], _ => []
  | (other, len) :: rs, pos => cutEntries b first (len + 1) other pos len ++ packRows b first rs (pos + len)

/-- The moves of a copy whose buffer's entries begin at a pointer (R257, R258). -/
def CpDesc.moves (c : CpDesc) (k : Task) (q : QSide) (first : Nat) : List (Nat × Nat × Nat) :=
  match q with
  | .none => c.rows.map fun r => (r.1.toNat, r.2.1.toNat, r.2.2)
  | .to n => packRows (k.q n) first (c.rows.map fun r => (r.1.toNat, r.2.2)) 0
  | .from n => (packRows (k.q n) first (c.rows.map fun r => (r.2.1.toNat, r.2.2)) 0).map fun m => (m.2.1, m.1, m.2.2)

/-- The scratchpad range of a side, for the range scoreboard (R234). -/
def scratchRange (r : Int × Int) : Option (Nat × Nat) :=
  if (scratchBase : Int) ≤ r.1 ∧ r.1 < r.2 then some ((r.1 - scratchBase).toNat, (r.2 - r.1).toNat) else none

/- ## Issue (R259, R260) -/

/-- The threads that a word's served sum serves, and the sum (R259). -/
def served (cnt : Nat) : List (Nat × Nat) → Nat → List Nat × Nat
  | [], sum => ([], sum)
  | (i, n) :: xs, sum =>
    if sum + n ≤ cnt then let r := served cnt xs (sum + n); (i :: r.1, r.2) else ([], sum)

/-- The well-formed copies of a group, thread and entries, in ascending home lane. -/
def wellFormedCopies (st : State) (k : Task) (q : Run) (acts : List (Nat × Thread)) (mk : Ctx → CpDesc) (b : Opnd) (qs : QSide) :
    List (Nat × Nat) :=
  acts.filterMap fun e =>
    let x := st.ctx k q e.1 e.2
    let c := mk x
    if (c.bad k (barOf x b) qs).isNone then some (e.1, c.entries k qs) else none

/-- A copy's destination is global memory. -/
def CpDesc.globDst (c : CpDesc) (qs : QSide) : Bool :=
  (match qs with | .to _ => false | _ => true) && decide (c.dst < privBase)

/-- The word may issue: its buffer can serve the served sum, and its commits can be made (R212, R259). -/
def copyPre (mk : Ctx → CpDesc) (b : Opnd) (qs : QSide) (st : State) (k : Task) (q : Run) (acts : List (Nat × Thread)) : Bool :=
  let ok := wellFormedCopies st k q acts mk b qs
  (match qs with
   | .none => true
   | .to n => let buf := k.q n
              ok.isEmpty || ((firstWaiting buf.resv).isNone && decide ((served buf.cnt ok 0).2 ≤ buf.room))
   | .from n => let buf := k.q n
                ok.isEmpty || ((firstWaiting buf.take).isNone && decide ((served buf.cnt ok 0).2 ≤ buf.avail))) &&
  acts.all fun e =>
    let x := st.ctx k q e.1 e.2
    let c := mk x
    !(c.globDst qs && (c.bad k (barOf x b) qs).isNone) || st.mayCommit k e.2

/-- A global range is granted by the claims (R260). -/
def rangeClaimed (x : Ctx) (r : Int × Int) (write : Bool) : Bool :=
  if r.1 < (privBase : Int) ∨ (vaTop : Int) ≤ r.1 then
    decide (0 ≤ r.1) && decide (r.2 ≤ (privBase : Int)) && x.claimOk r.1.toNat (r.2 - r.1).toNat write
  else true

/-- The first free copy slot of a core (R234). -/
def State.freeCopySlot (s : State) (core : Nat) : Nat :=
  ((List.range 64).find? fun i => (Assoc.find? (s.core core).copies i).isNone).getD 0

/-- A deferred cause of a thread, ended or not; a task that ends by trap or kill takes no further cause (R404). -/
def State.deferOr (s : State) (r : TRef) (c : Cause) (detail : Nat) (pc : DWord) : State :=
  match s.task? r.core r.slot with
  | some k => if k.stopping then s else s.updThread r fun t => t.defer c detail pc 0
  | none => s

/-- One thread's copy at issue (R260). A GATH's index list outside the claims gives CLAIM, DETAIL 0, as a source does (log entry
87). -/
def copyIssue (i : Instr) (h : Hdr) (mk : Ctx → CpDesc) (d b : Opnd) (qs : QSide) (x : Ctx) (st : State) : Out :=
  let c := mk x
  let bar := barOf x b
  let put := fun (w : Word) => Out.ok (st.updThread x.r fun t => t.puts (putW d w))
  match st.task? x.r.core x.r.slot with
  | none => .ok st
  | some k =>
    match c.bad x.k bar qs with
    | some e => put (status Code.baddesc e)
    | none =>
      let mine := match x.s.curRun with
        | some (_, q) =>
          let acts := (x.s.live q).filter fun e => e.2.active h
          (match QSide.q? qs with
           | some n => (served (x.k.q n).cnt (wellFormedCopies x.s x.k q acts mk b qs) 0).1.contains x.r.thr
           | none => true)
        | none => true
      if !mine then put (status Code.baddesc 0x010001)
      else
        let fromQ := match qs with | .from _ => true | _ => false
        let toQ := match qs with | .to _ => true | _ => false
        let bad? :=
          if !fromQ && c.kind != 2 && !rangeClaimed x c.srcRange false then some 0
          else if c.kind == 2 && !rangeClaimed x c.listRange false then some 0
          else if !toQ && !rangeClaimed x c.dstRange true then some 1
          else none
        match bad? with
        | some e => .ok ((st.updThread x.r fun t => t.puts (putW d (status Code.claim e))).updThread x.r fun t =>
            t.defer .claim e x.t.pc 0)
        | none =>
          let glob := c.globDst qs
          let st1 := if glob then st.commit x.r else st
          let st2 := match bar with
            | some o =>
              if c.expd then st1
              else
                let off := o - scratchBase
                let ob := k.barObj off
                st1.putBar x.r.core x.r.slot off { ob with pend := ob.pend + BitVec.ofNat 32 c.total }
            | none => st1
          let (id, st3) := st2.fresh
          let n := c.entries k qs
          let entry := { newEntry id n false with granted := true }
          let st4 := match qs with
            | .none => st3
            | .to q => st3.updQ x.r.core x.r.slot q fun bf => { bf with rsv := bf.rsv + BitVec.ofNat 32 n, resv := bf.resv ++ [entry] }
            | .from q => st3.updQ x.r.core x.r.slot q fun bf => { bf with crs := bf.crs + BitVec.ofNat 32 n, take := bf.take ++ [entry] }
          let first := match qs with
            | .none => 0
            | .to q => (k.q q).rsv.toNat
            | .from q => (k.q q).crs.toNat
          let op : CopyOp :=
            { id := id, uid := k.uid, slot := x.r.slot, thr := x.r.thr, pc := x.t.pc, d := d, moves := c.moves k qs first,
              gather := if c.kind = 2 then some (c.list, c.src, c.rowb, c.nrow, c.sstr, 0) else none, total := c.total,
              bar := bar.map fun o => o - scratchBase,
              qsrc := match qs with | .from q => some q | _ => none,
              qdst := match qs with | .to q => some q | _ => none,
              src := if fromQ then none else scratchRange c.srcRange, dst := if toQ then none else scratchRange c.dstRange,
              globDst := glob, ro := c.ro, aout := none, alook := none, ticket := none
              list := if c.kind = 2 then scratchRange c.listRange else none
              hint := fld c.flags 3 2, order := Config.copyOrder st4.free, rows := []
              moved := 0, dirt := false, row := none, bad := [], done := none, again := false, tile := none }
          let slot := st4.freeCopySlot x.r.core
          let st5 := st4.useFree.2.updCore x.r.core fun co => { co with copies := Assoc.put co.copies slot op }
          .ok (st5.addOp x.r (mkOp id i x.t.pc true (.engine [d])))

/-- COPY. -/
def execCopy (h : Hdr) (d a b : Opnd) (q : QSide) (s : State) : Res :=
  .next (issueWith (.copy h d a b q) (copyPre (fun x => copyDesc x a) b q)
    (copyIssue (.copy h d a b q) h (fun x => copyDesc x a) d b q) s)

/-- COPYT. -/
def execCopyt (h : Hdr) (d a b : Opnd) (q : QSide) (s : State) : Res :=
  .next (issueWith (.copyt h d a b q) (copyPre (fun x => copytDesc x a) b q)
    (copyIssue (.copyt h d a b q) h (fun x => copytDesc x a) d b q) s)

/-- The side of a gather's buffer: the destination (R255). -/
def gathSide : Option Nat → QSide
  | some q => .to q
  | none => .none

/-- GATH. -/
def execGath (h : Hdr) (d a b : Opnd) (q : Option Nat) (s : State) : Res :=
  .next (issueWith (.gath h d a b q) (copyPre (fun x => gathDesc x a) b (gathSide q))
    (copyIssue (.gath h d a b q) h (fun x => gathDesc x a) d b (gathSide q)) s)

/- ## The transfer (R261 to R263) -/

/-- What reading or writing part of a copy comes to. -/
inductive Xfer where
  /-- The bytes read, and whether any was poisoned. -/
  | got (bs : List Byte) (poison : Bool)
  /-- The state after a write. -/
  | put (s : State)
  /-- The copy ends with a status; frozen: as a frozen master. -/
  | stop (code detail : Nat) (frozen : Bool)
  | absent (va : Nat) (anon : Bool)
  | wait
  | hole (key : Nat)

/-- The unit of an absent address that one ticket stands for: a 4 KiB page of the host's, else 64 KiB (R400, R432). -/
def State.unitKey (s : State) (asid va : Nat) : Nat := xlKey asid va ((s.pageCls asid va).getD 0)

/-- Read part of a copy's source, within one page: it sees the task's version (R261). bad: the units whose service has
failed; their bytes are poisoned (R263, R401). -/
def State.copyRead (s : State) (k : Task) (va n : Nat) (bad : List Nat) : Xfer :=
  if scratchBase ≤ va then .got (Memory.readN k.scratch (va - scratchBase) n) (k.spoisoned (va - scratchBase) n)
  else
    match s.locate k.asid va .r with
    | .ok key _ _ =>
      (match s.peerOf key with
       | some c =>
         (match s.peerSt c with
          | .reachable => if s.sentOthers k.uid key n then .wait else .got (k.bytes s key n) (s.readsPoison k key n)
          | .lost => .stop Code.peerlost 0 false
          | .unreachable => .stop Code.unreach 0 false
          | .held => .wait)
       | none => .got (k.bytes s key n) (s.readsPoison k key n))
    | .zero | .wake _ => .got (List.replicate n 0) false
    | .fault .synonym => .stop Code.baddesc 0x020003 true
    | .fault _ => .stop Code.baddesc 0x020001 true
    | .absent anon => if bad.contains (s.unitKey k.asid va) then .got (List.replicate n 0) true else .absent va anon
    | .wait => .wait
    | .hole key => .hole key

/-- The TLB holds the translation of a copy's read (R198). -/
def State.copyTouch (s : State) (asid va : Nat) : State :=
  if privBase ≤ va then s
  else
    match s.locate asid va .r with
    | .ok key cls grain => if (s.peerOf key).isSome then s.fill asid va key cls grain else s.touch asid va key cls grain
    | _ => s

/-- Poison words of a scratchpad range. -/
def Task.addSpoison (k : Task) (off n : Nat) : Task :=
  let ws := (List.range (n / 8 + 2)).filter fun i => decide ((off / 8 + i) * 8 < off + n)
  { k with spoison := ws.foldl (fun m i => Assoc.put m (off / 8 + i) ()) k.spoison }

/-- Write part of the destination of the copy in a slot, within one page: not versioned (R215). The core's own L1 copies
are updated and tracked ones given up (R193); a peer's bytes are sent to it in the ordered class (R327). -/
def State.copyWrite (s : State) (core slot cslot : Nat) (k : Task) (va : Nat) (bs : List Byte) (poison : Bool) (bad : List Nat) : Xfer :=
  if scratchBase ≤ va then
    let s1 := s.scratchWrite core slot (va - scratchBase) bs
    .put (if poison then s1.updTask core slot fun k1 => k1.addSpoison (va - scratchBase) bs.length else s1)
  else
    match s.locate k.asid va .w with
    | .ok key cls grain =>
      let done := fun (st : State) =>
        Xfer.put (if poison then (st.touch k.asid va key cls grain).addPoison key bs.length else st.touch k.asid va key cls grain)
      (match s.homeOf key with
       | .peer c =>
         (match s.peerSt c with
          | .reachable =>
            .put ((s.fill k.asid va key cls grain).sendRemote
              { peer := c, uid := k.uid, core := core, thrs := [], copy := some cslot, poison := poison,
                cells := bs.zipIdx.map fun e => (key + e.2, e.1) })
          | .lost => .stop Code.peerlost 0 false
          | .unreachable => .stop Code.unreach 0 false
          | .held => .wait)
       | .vein n off =>
         (match Assoc.find? s.veins n with
          | some v => if v.held then .wait else done (s.veinPoke n off bs)
          | none => .stop Code.baddesc 0x020000 true)
       | _ => done ((s.l1Patch core key bs).pokeCoh key bs))
    | .zero => .put s
    | .wake o => .put (s.portMiss o)
    | .fault .assaywr => .stop Code.baddesc 0x020002 true
    | .fault .synonym => .stop Code.baddesc 0x020003 true
    | .fault _ => .stop Code.baddesc 0x020000 true
    | .absent anon => if bad.contains (s.unitKey k.asid va) then .put s else .absent va anon
    | .wait => .wait
    | .hole key => .hole key

/-- A macro of a core. -/
def Core.mac (c : Core) (mb : Bool) : Macro := if mb then c.mac1 else c.mac0

/-- Change a macro. -/
def State.updMac (s : State) (core : Nat) (mb : Bool) (f : Macro → Macro) : State :=
  s.updCore core fun c => if mb then { c with mac1 := f c.mac1 } else { c with mac0 := f c.mac0 }

/-- The tile a task holds for a macro. -/
def Task.mt (k : Task) (mb : Bool) : Option BTile := if mb then k.mt1 else k.mt0

/-- Set it. -/
def Task.setMt (k : Task) (mb : Bool) (t : Option BTile) : Task := if mb then { k with mt1 := t } else { k with mt0 := t }

/-- Bytes of an element of the B formats (R288). -/
def bBytes : BFmt → Nat
  | .dm8 | .i8 => 1
  | _ => 2

/-- Bytes of a weight tile are put into its cells (R288, R302). -/
def Task.tilePut (k : Task) (mb : Bool) (off : Nat) (bs : List Byte) : Task :=
  match k.mt mb with
  | none => k
  | some t =>
    let e := bBytes t.fmt
    k.setMt mb (some { t with
      cells := (List.range (bs.length / e)).foldl
        (fun m i => Assoc.setD m 0 (off / e + i) (BitVec.ofNat 16 (leNat ((bs.drop (i * e)).take e)))) t.cells })

/-- Cut a move into parts of at most 8 bytes that lie in one aligned word on both sides. -/
def cutMove : Nat → Nat × Nat × Nat → List (Nat × Nat × Nat)
  | 0, _ => []
  | fuel + 1, (a, b, n) =>
    if n = 0 then []
    else
      let m := min n (min (8 - a % 8) (8 - b % 8))
      (a, b, m) :: cutMove fuel (a + m, b + m, n - m)

/-- The parts of an operation's moves, in ascending order. -/
def CopyOp.cuts (c : CopyOp) : List (Nat × Nat × Nat) := c.moves.flatMap fun m => cutMove (m.2.2 + 1) m

/-- Put a part with the parts of its destination word. -/
def addWord : List (Nat × List (Nat × Nat × Nat)) → Nat × Nat × Nat → List (Nat × List (Nat × Nat × Nat))
  | [], p => [(p.2.1 / 8, [p])]
  | w :: ws, p => if w.1 = p.2.1 / 8 then (w.1, w.2 ++ [p]) :: ws else w :: addWord ws p

/-- Elements of a list in the order that a number picks: every order is some number's. -/
def pickOrder {α : Type} : Nat → Nat → List α → List α
  | 0, _, xs => xs
  | fuel + 1, n, xs =>
    match xs[n % xs.length]? with
    | some x => x :: pickOrder fuel (n / xs.length) (xs.eraseIdx (n % xs.length))
    | none => []

/-- The words of a copy's destination in the order in which they move, each with its parts: no word is written in part (R208,
R215). -/
def CopyOp.words (c : CopyOp) : List (List (Nat × Nat × Nat)) :=
  let ws := (c.cuts.foldl addWord []).map Prod.snd
  pickOrder ws.length c.order ws

/-- The parts of a copy in the order in which they move. -/
def CopyOp.parts (c : CopyOp) : List (Nat × Nat × Nat) := c.words.flatten

/-- The transfer so far: the state, whether poisoned data was carried, the first row outside the claims, and what the indices
read have given. -/
structure XferSt where
  s : State
  poison : Bool
  row : Option Nat
  rows : Map GRow

/-- How some parts of a transfer end: after n of them. -/
inductive XferEnd where
  | done (x : XferSt)
  | stop (x : XferSt) (code detail : Nat) (frozen : Bool)
  | absent (x : XferSt) (n : Nat) (va : Nat) (anon : Bool)
  | wait (x : XferSt) (n : Nat)
  | hole (key : Nat)

/-- The source of a gathered row: its index is read once, as any word a copy reads (R257, R260). -/
def XferSt.gatherRow (x : XferSt) (k : Task) (claims : Nat → Nat → Bool) (g : Nat × Nat × Nat × Nat × Int × Nat) (j : Nat)
    (bad : List Nat) : Except Xfer (XferSt × GRow) :=
  let (list, table, rowb, _, sstr, _) := g
  match Assoc.find? x.rows j with
  | some r => .ok (x, r)
  | none =>
    let keep := fun (r : GRow) => Except.ok ({ x with s := x.s.copyTouch k.asid (list + 4 * j), rows := Assoc.put x.rows j r }, r)
    match x.s.copyRead k (list + 4 * j) 4 bad with
    | .got _ true => keep .poisoned
    | .got bs false =>
      let a := (table : Int) + leNat bs * 16 * sstr
      keep (if 0 ≤ a ∧ a + rowb ≤ privBase ∧ claims a.toNat rowb then .at_ a.toNat else .unread)
    | e => .error e

/-- One part of the transfer of a copy. -/
def State.xferPart (x : XferSt) (core cslot : Nat) (c : CopyOp) (claims : Task → Nat → Nat → Bool) (m : Nat × Nat × Nat) : XferEnd :=
  match x.s.task? core c.slot with
  | none => .done x
  | some k =>
    if k.uid ≠ c.uid then .done x
    else
      let put := fun (x : XferSt) (st : State) (bs : List Byte) (p : Bool) (row : Option Nat) =>
        match (match c.tile with
          | some mb => Xfer.put (st.updTask core c.slot fun k1 => k1.tilePut mb m.2.1 bs)
          | none => st.copyWrite core c.slot cslot k m.2.1 bs p c.bad) with
        | .put s1 =>
          let s2 := if c.hint = 3 ∧ m.2.1 < privBase then s1.l1Evict core k.asid m.2.1 else s1
          XferEnd.done { x with s := s2, poison := x.poison || p, row := x.row.or row }
        | .stop code d f => .stop x code d f
        | .absent va anon => .absent x 0 va anon
        | .wait => .wait x 0
        | .hole key => .hole key
        | .got _ _ => .done x
      let from_ := fun (x : XferSt) (va : Nat) =>
        match x.s.copyRead k va m.2.2 c.bad with
        | .got bs p => put x (x.s.copyTouch k.asid va) bs p none
        | .stop code d f => .stop x code d f
        | .absent va anon => .absent x 0 va anon
        | .wait => .wait x 0
        | .hole key => .hole key
        | .put _ => .done x
      match c.gather with
      | none => from_ x m.1
      | some g =>
        let j := m.1 / g.2.2.1
        (match x.gatherRow k (claims k) g j c.bad with
         | .ok (x1, .at_ a) => from_ x1 (a + m.1 % g.2.2.1)
         | .ok (x1, .unread) => put x1 x1.s (List.replicate m.2.2 0) false (some j)
         | .ok (x1, .poisoned) => put x1 x1.s (List.replicate m.2.2 0) true none
         | .error (.stop code d f) => .stop x code d f
         | .error (.absent va anon) => .absent x 0 va anon
         | .error (.hole key) => .hole key
         | .error _ => .wait x 0)

/-- Run the parts of one word; the first that cannot go on decides. -/
def runWord (core cslot : Nat) (c : CopyOp) (claims : Task → Nat → Nat → Bool) : List (Nat × Nat × Nat) → XferSt → XferEnd
  | [], x => .done x
  | m :: ms, x =>
    match State.xferPart x core cslot c claims m with
    | .done x1 => runWord core cslot c claims ms x1
    | e => e

/-- Run words of a transfer in order, each whole or not at all; the first that cannot go on decides, after n parts. What has
been read of a gather's indices stays read. -/
def runXfer (core cslot : Nat) (c : CopyOp) (claims : Task → Nat → Nat → Bool) : Nat → List (List (Nat × Nat × Nat)) → XferSt → XferEnd
  | _, [], x => .done x
  | n, w :: ws, x =>
    match runWord core cslot c claims w x with
    | .done x1 => runXfer core cslot c claims (n + w.length) ws x1
    | .absent y _ va anon => .absent { x with rows := y.rows } n va anon
    | .wait y _ => .wait { x with rows := y.rows } n
    | .stop y code d f => .stop { x with rows := y.rows } code d f
    | .hole key => .hole key

/-- The read claims a copy's rows are checked against; the firmware crew slot has none to be checked (log entry 10). -/
def rowClaims (slot : Nat) (k : Task) (va n : Nat) : Bool := slot == fwSlot || claimed k.hd va n false

/-- The words that stand after a number of parts. -/
def wordsAfter : Nat → List (List (Nat × Nat × Nat)) → List (List (Nat × Nat × Nat))
  | _, [] => []
  | n, w :: ws => if w.length ≤ n then wordsAfter (n - w.length) ws else w :: ws

/-- The words of a copy still to move. -/
def CopyOp.left (c : CopyOp) : List (List (Nat × Nat × Nat)) := wordsAfter c.moved c.words

/-- Move the next n words of a copy. -/
def State.copyRun (s : State) (core cslot : Nat) (c : CopyOp) (n : Nat) : XferEnd :=
  runXfer core cslot c (rowClaims c.slot) 0 (c.left.take n) { s := s, poison := c.dirt, row := c.row, rows := c.rows }

/-- Two scratchpad ranges overlap. -/
def rangesMeet (a b : Nat × Nat) : Bool := decide (a.1 < b.1 + b.2) && decide (b.1 < a.1 + a.2)

/-- The read-only records after a copy (R263): a record ends when a later copy's destination overlaps it. -/
def Task.roAfter (k : Task) (c : CopyOp) : Task :=
  let kept := k.ro.filter fun x => !(c.dstRanges.any fun r => rangesMeet x.dst r)
  match c.dst with
  | none => { k with ro := kept }
  | some r =>
    { k with ro := if c.ro ∧ kept.length < 32 then kept ++ [{ moves := c.moves, gather := c.gather, dst := r }] else kept }

/-- The completion events of a copy (R217, R262): the barrier object, the skip buffer, then the status. The fetch of a staged
tile again has none. -/
def State.copyEnd (s : State) (core cslot : Nat) (c : CopyOp) (st : Word) : State :=
  let s1 := s.updCore core fun co => { co with copies := Assoc.del co.copies cslot }
  match s1.task? core c.slot with
  | none => s1
  | some k =>
    if k.uid ≠ c.uid ∨ c.again then s1
    else
      let s2 := match c.bar with
        | some off =>
          let o := k.barObj off
          let o1 : BarObj := { o with pend := o.pend - BitVec.ofNat 32 c.total }
          s1.barUpdate core c.slot off o1.eval
        | none => s1
      let s3 := match c.qdst with
        | some q => s2.updQ core c.slot q fun b => SkipBuf.advance { b with resv := completeEntry b.resv c.id }
        | none => s2
      let s4 := match c.qsrc with
        | some q => s3.updQ core c.slot q fun b => SkipBuf.advance { b with take := completeEntry b.take c.id }
        | none => s3
      let s5 := (s4.updTask core c.slot fun k1 => k1.roAfter c).endEngine core c.slot c.id st
      s5.retire core c.slot

/-- A copy that meets a violation is frozen: reported as a frozen master, and it completes (R263, R411, R425). -/
def State.copyFreeze (s : State) (core slot cslot asid : Nat) : State :=
  s.deputy 3 (coreUnit core) asid 4 (4 * 2 ^ 60 + core * 2 ^ 52 + slot * 2 ^ 48 + cslot)

/-- Earlier stores and acquires of the issuing thread are performed, and an earlier ALOOK of it has ended, before the copy
reads (R225, R261, R354). -/
def State.copyReady (s : State) (core : Nat) (c : CopyOp) : Bool :=
  match s.thread? ⟨core, c.slot, c.thr⟩ with
  | some t =>
    c.again || (!(t.ops.any fun o => decide (o.id < c.id) && (o.openWrite || o.openAcq)) && !s.alookBefore core c.uid c.thr c.id)
  | none => true

/-- Change the copy in a slot. -/
def State.setCopy (s : State) (core cslot : Nat) (c : CopyOp) : State :=
  s.updCore core fun co => { co with copies := Assoc.put co.copies cslot c }

/-- Writes of the copy in a slot that its peers have not acknowledged. -/
def State.copySent (s : State) (core cslot uid : Nat) : List RemoteWr :=
  (s.rws.filter fun e => e.2.core == core && e.2.copy == some cslot && e.2.uid == uid).map fun e => e.2

/-- The whole of a copy is moved: it completes, or waits for the acknowledgements of its writes at peers (R327). -/
def State.copyMoved (s : State) (core cslot : Nat) (c : CopyOp) (st : Word) : State :=
  if (s.copySent core cslot c.uid).isEmpty then s.copyEnd core cslot c st
  else s.setCopy core cslot { c with done := some st }

/-- A copy whose moves are done: it completes with the last acknowledgement, or with UNREACH where a peer that has not
acknowledged has become unreachable (R326). -/
def State.copyAcked (s : State) (core cslot : Nat) (c : CopyOp) (st : Word) : State :=
  let ws := s.copySent core cslot c.uid
  if ws.isEmpty then s.copyEnd core cslot c st
  else if ws.any fun w => decide (s.peerSt w.peer = .unreachable) then s.copyEnd core cslot c (status Code.unreach 0)
  else s

/-- Who takes a cause that the fetch of a tile again meets (R216, R302; log entry 58): the thread that bound the MMA at the
head of the macro's queue, where it is the task's, else the task's lowest live thread. -/
def State.againVictim (s : State) (core : Nat) (c : CopyOp) : Nat × DWord :=
  let head := c.tile.bind fun mb => ((s.core core).mac mb).queue.head?
  match head with
  | some o => if o.uid = c.uid then (o.opt, o.pc) else s.firstLive core c.slot
  | none => s.firstLive core c.slot

/-- A cause that the fetch of a tile again meets. -/
def State.againTrap (s : State) (core : Nat) (c : CopyOp) (cause : Cause) (detail : Nat) : State :=
  let p := s.againVictim core c
  s.deferOr ⟨core, c.slot, p.1⟩ cause detail p.2

/-- A tile has been fetched again: a weight tile is resident, unless another task's operation is at the head of its macro's
queue; poisoned weights are consumed (R302). -/
def State.againDone (s : State) (core cslot : Nat) (c : CopyOp) (poison : Bool) : State :=
  let s1 := s.copyEnd core cslot c 0
  match c.tile with
  | none => s1
  | some mb =>
    if poison then s1.againTrap core c .uncorr 0
    else if ((s1.core core).mac mb).queue.head?.any fun o => o.uid != c.uid then s1
    else s1.updMac core mb fun m => { m with resident := some c.uid }

/-- Fetch a tile of a task again (R216, R302): a copy of the device's own, beside the copy slots. -/
def State.startAgain (s : State) (core slot : Nat) (k : Task) (moves : List (Nat × Nat × Nat))
    (gather : Option (Nat × Nat × Nat × Nat × Int × Nat)) (dst : Option (Nat × Nat)) (tile : Option Bool) : State :=
  let (id, s1) := s.fresh
  let p := s.firstLive core slot
  s1.setCopy core (64 + id)
    { id := id, uid := k.uid, slot := slot, thr := p.1, pc := p.2, d := Opnd.nil, moves := moves, gather := gather,
      total := (moves.map fun m => m.2.2).sum, bar := none, qsrc := none, qdst := none, src := none, dst := dst, globDst := false,
      ro := false, aout := none, alook := none, ticket := none, list := none,
      hint := 0, order := 0, rows := [], moved := 0, dirt := false, row := none, bad := [],
      done := none, again := true, tile := tile }

/-- How many words a copy moves at once: all that are left, or fewer, by a free choice (R215, R261; log entry 33). -/
def State.copyStep (s : State) (c : CopyOp) : Nat × State :=
  let left := c.left.length
  if left ≤ 1 then (left, s)
  else
    let (f, s1) := s.useFree
    (1 + Config.copyStep f % left, s1)

/-- The transfer of a copy, some parts at a time, and its completion (R260 to R263). -/
def State.copyFinish (s : State) (core cslot : Nat) (c : CopyOp) : Res :=
  match s.task? core c.slot with
  | none => .next (s.updCore core fun co => { co with copies := Assoc.del co.copies cslot })
  | some k =>
    match c.done with
    | some st => .next (s.copyAcked core cslot c st)
    | none =>
      let (n, s0) := s.copyStep c
      let goOn := fun (x : XferSt) (m : Nat) =>
        x.s.setCopy core cslot { c with moved := c.moved + m, dirt := x.poison, row := x.row, rows := x.rows }
      match s0.copyRun core cslot c n with
      | .done x =>
        if n < c.left.length then .next (goOn x (c.left.take n).flatten.length)
        else
          (match x.row with
           | some j =>
             if c.again then .next ((x.s.againTrap core c .claim j).againDone core cslot c x.poison)
             else .next ((x.s.deferOr ⟨core, c.slot, c.thr⟩ .claim j c.pc).copyMoved core cslot c (status Code.claim j))
           | none =>
             if c.again then .next (x.s.againDone core cslot c x.poison)
             else .next (x.s.copyMoved core cslot c (status Code.ok (if x.poison then 1 else 0))))
      | .stop x code detail frozen =>
        if c.again then .next ((x.s.againTrap core c (if frozen then .prot else .uncorr) 0).copyEnd core cslot c 0)
        else .next ((if frozen then x.s.copyFreeze core c.slot cslot k.asid else x.s).copyEnd core cslot c (status code detail))
      | .absent x m _ _ | .wait x m =>
        .next (if m = 0 ∧ x.rows = c.rows then s else goOn x m)
      | .hole key => .fault (.noSuchMemory key)

end Machine
end Sys2Proof
end

