-- ==== Sys2Proof/Machine/Sync.lean ====
section
/-! DEFINITION. BAR and COMMIT (R271 to R274): the rendezvous and its checkpoint; and the waits of FENCE, BAR, COMMIT,
BWAIT and far releases, which end by themselves once what they wait for is done (R249, R270). -/

namespace Sys2Proof
namespace Machine

/-- BAR with a checkpoint. -/
def execBar (h : Hdr) (d : Opnd) (scope : Scope) (eng : Bool) (s : State) : Res :=
  .next (issue (.bar h d scope eng) (fun x st =>
    .stay (st.updThread x.r fun t => { t with wait := .bar false scope eng d })) s)

/-- BAR .nock. -/
def execBarNock (h : Hdr) (d : Opnd) (scope : Scope) (eng : Bool) (s : State) : Res :=
  .next (issue (.barNock h d scope eng) (fun x st =>
    .stay (st.updThread x.r fun t => { t with wait := .bar true scope eng d })) s)

/-- COMMIT (R274): kind 3 of a fence's wait. -/
def execCommit (h : Hdr) (d : Opnd) (eng : Bool) (s : State) : Res :=
  .next (issue (.commit h d eng) (fenceBody 3 .fab eng d) s)

/-- A register result is ready to be written when the engine operations named have reached their completion events
(R249 step 3). -/
def State.engDone (s : State) (core : Nat) (k : Task) (eng : List Nat) : Bool :=
  let now := s.engineOps core k
  eng.all fun i => !now.contains i

/-- A wait of kind below 8 has not committed yet; 8 is added when it has (R249). -/
def committedKind : Nat := 8

/-- One step of a FENCE's, BAR's or COMMIT's wait: first the commit, then the status (R249, R250, R274, R329). -/
def State.fenceStep (s : State) (r : TRef) (k : Task) (t : Thread) (kind : Nat) (scope : Scope) (eng : List Nat)
    (bit23 : Bool) (d : Opnd) : State :=
  let far := Scope.far scope
  if kind < committedKind then
    let earlier := if kind = 3 then t.ops.any Op.openStore || t.onTicket || !s.engDone r.core k eng else t.ops.any Op.openAcc
    if earlier then s
    else
      let next := fun (st : State) => st.updThread r fun t1 => { t1 with wait := .fence (kind + committedKind) scope eng bit23 d }
      if Scope.wide scope then (if !s.acksOut r.core r.slot && !s.commitHeld k then next (s.commit r) else s) else next s
  else
    let ready := (!(Scope.wide scope) || !s.acksOut r.core r.slot) && (!far || !s.remoteOut k) && s.engDone r.core k eng
    if !ready then s
    else
      let w := if far then fenceStatus k t bit23 else status Code.ok (if bit23 then 2 ^ 23 else 0)
      (s.updThread r fun t1 => if far then { t1 with drop := false, lostw := false } else t1).endWait r (putW d w)

/-- An instruction whose commit is visible everywhere completes (R213): a release store that has been performed is done; a
reduction that is still to be performed completes and goes on (R247). -/
def State.opSync (s : State) (r : TRef) (k : Task) (t : Thread) : State :=
  if (t.ops.any fun o => o.sync != 0) && !s.acksOut r.core r.slot && !s.remoteOut k then
    s.setThread r { t with
      ops := (t.ops.filter fun o => o.sync == 0 || o.openAcc).map fun (o : Op) =>
        if o.sync = 0 then o else { o with sync := 0, closed := true } }
  else s

/-- BWAIT ends when the phase's low bit differs from P (R270). -/
def State.bwaitStep (s : State) (r : TRef) (k : Task) (t : Thread) (off : Nat) (p : Bool) (d : Opnd) : State :=
  if k.spoisoned (off + 12) 4 then (if t.deferred.isEmpty then s.setThread r (t.defer .uncorr 0 t.pc 0) else s)
  else
    let o := k.barObj off
    if o.phase.getLsbD 0 != p then s.endWait r (putW d o.phase) else s

/-- The waits of one thread that end by themselves. -/
def State.threadSettle (s : State) (r : TRef) : State :=
  match s.task? r.core r.slot, s.thread? r with
  | some k, some t =>
    if k.frozen.isSome || k.ending.isSome || t.ended then s
    else
      let s1 := match t.wait with
        | .fence kind scope eng b d => s.fenceStep r k t kind scope eng b d
        | .bwait off p d => s.bwaitStep r k t off p d
        | _ => s
      (match s1.thread? r with
       | some t1 => s1.opSync r k t1
       | none => s1)
  | _, _ => s

/-- A thread waits at a BAR. -/
def Thread.atBar (t : Thread) : Bool :=
  match t.wait with
  | .bar .. => true
  | _ => false

/-- The fixed state of a thread a checkpoint keeps: it resumes at the word after its BAR (R273, R410). -/
def Thread.ck (t : Thread) : CkThread :=
  { pc := t.pc + 8, blk := t.blk, csp := t.csp, preds := t.preds, rpt := t.rpt, regs := t.regs }

/-- Take a checkpoint of a task (R273). -/
def State.takeCkpt (s : State) (core slot : Nat) (k : Task) : State :=
  let c : Ckpt :=
    { threads := ((s.threadsOf core slot).filter fun e => !e.2.ended).map fun e => (e.1, e.2.ck)
      ks := k.ks, qs := k.qs, allot := k.allot, scratch := k.scratch, spoison := k.spoison, tiles := k.tiles, dirty := [], rollbacks := 0,
      clean := true }
  s.setTask core slot { k with ckpt := some c }

/-- The rendezvous of a task's BARs (R272): every live thread waits at one, and none is parked, halted or held. -/
def State.barStep (s : State) (core slot : Nat) : State :=
  match s.task? core slot with
  | none => s
  | some k =>
    let ts := (s.threadsOf core slot).filter fun e => !e.2.ended
    match ts with
    | [] => s
    | (i0, _) :: _ =>
      if !(ts.all fun e => e.2.atBar && !e.2.halted && e.2.held.isNone && !(e.2.ops.any Op.openAcc) && e.2.acks == 0) ||
          k.frozen.isSome || k.ending.isSome || k.parked.isSome || s.commitHeld k then s
      else
        let ck := (ts.any fun e => match e.2.wait with | .bar nock .. => !nock | _ => false) && decide (ckptFixed k.nthr ≤ k.hd.ckpu)
        let s1 := s.commit ⟨core, slot, i0⟩
        let s2 := if ck then
            (match s1.task? core slot with
             | some k1 => s1.takeCkpt core slot k1
             | none => s1)
          else s1
        let all := s.engineOps core k
        ts.foldl (fun st e =>
          match e.2.wait with
          | .bar _ scope eng d =>
            st.updThread ⟨core, slot, e.1⟩ fun t =>
              { t with wait := .fence committedKind scope (if eng then all else []) ck d }
          | _ => st) s2

/-- Every wait of the chip's threads that has ended by itself is ended, tasks in order, threads in order. -/
def State.syncSettle (s : State) : State :=
  let s1 := s.tasks.foldl (fun st e => st.barStep (e.1 / 32) (e.1 % 32)) s
  s1.threads.foldl (fun st e => st.threadSettle (refOf e.1)) s1

end Machine
end Sys2Proof
end

