-- ==== Sys2Proof/Machine/Matrix.lean ====
section
/-! DEFINITION. Convergence registers (R279 to R285), the matrix engine (R275 to R303, R89 to R95) and GROW and SHRINK
(R304 to R306). -/

namespace Sys2Proof
namespace Machine

/- ## Macros and queues -/

/-- The task has issued an MLOAD for the macro since release (R291). -/
def Task.loaded (k : Task) (mb : Bool) : Bool := if mb then k.loaded1 else k.loaded0

/-- Bytes of an A block (R291). -/
def aBlock : AFmt → Nat
  | .i4 => 2048
  | .dm8 | .i8 => 4096
  | _ => 8192

/-- Bytes of a drained element (R295). -/
def oBytes : OFmt → Nat
  | .f32 | .b32 => 4
  | .bf16 | .f16 => 2
  | .dm8 => 1

/-- The skip buffer a matrix operation names. -/
def engQ : Instr → Nat
  | .mload _ _ _ _ _ _ q => q
  | .mma _ _ _ _ _ _ _ _ _ q => q
  | .mdrain _ _ _ _ _ _ _ _ q => q
  | _ => 0

/-- The bytes it declares of that buffer. -/
def engBytes : Instr → Nat
  | .mload _ f _ _ _ _ _ => 65536 * bBytes f
  | .mma _ _ _ f _ _ _ _ _ _ => aBlock f
  | .mdrain _ f _ _ _ _ _ _ _ => 256 * 16 * oBytes f
  | _ => 0

/-- The macro an operation names (R278). -/
def engMac : Instr → Option Bool
  | .mload _ _ mb _ _ _ _ => some mb
  | .mma _ _ _ _ mb _ _ _ _ _ => some mb
  | .mstatState _ _ mb | .mstatPasses _ _ mb | .mstatCanary _ _ mb | .mstatChecks _ _ mb => some mb
  | _ => none

/-- The tiles an operation names (R278): the first and how many. -/
def engTiles : Instr → Nat × Nat
  | .mma _ _ _ _ _ _ tile _ _ _ => (tile, 1)
  | .mdrain _ _ _ _ _ _ tile _ _ => (tile, 1)
  | .mzero _ tile c => (tile, c + 1)
  | _ => (0, 0)

/-- Two operations name a common tile. -/
def tilesMeet (a b : Nat × Nat) : Bool := decide (a.1 < b.1 + b.2) && decide (b.1 < a.1 + a.2)

/-- The offsets in the scratchpad of n entries from a pointer, in order (R265). -/
def SkipBuf.slots (b : SkipBuf) (first n : Nat) : List Nat :=
  (List.range n).map fun i => b.base + (first + i) % 2 ^ 32 % max 1 b.cnt * (b.esz * 32)

/-- The bytes of n entries. -/
def Task.entryBytes (k : Task) (b : SkipBuf) (first n : Nat) : List Byte :=
  (b.slots first n).flatMap fun off => Memory.readN k.scratch off (b.esz * 32)

/-- Some of n entries is poisoned. -/
def Task.entryPoison (k : Task) (b : SkipBuf) (first n : Nat) : Bool :=
  (b.slots first n).any fun off => k.spoisoned off (b.esz * 32)

/-- Write n entries. -/
def State.writeEntries (s : State) (core slot : Nat) (sz : Nat) : List Nat → List Byte → State
  | [], _ => s
  | off :: offs, bs => (s.scratchWrite core slot off (bs.take sz)).writeEntries core slot sz offs (bs.drop sz)

/- ## Convergence registers (R279 to R285) -/

/-- A convergence register at release. -/
def KReg.reset : KReg := { count := 0, phase := 0, sigs := [], opw := 0, opi := none, opt := 0, optPc := 0, vals := [] }

/-- A convergence register of a task. -/
def Task.kreg (k : Task) (n : Nat) : KReg := Assoc.getD k.ks KReg.reset n

/-- Set it. -/
def Task.setKreg (k : Task) (n : Nat) (x : KReg) : Task := { k with ks := Assoc.setD k.ks KReg.reset n x }

/-- OP and bits [36:0] of a word (R279). -/
def opwOf (i : Instr) : Nat :=
  let w := (encode i).headD 0
  w / 2 ^ 57 * 2 ^ 37 + w % 2 ^ 37

/-- KSET (R284). -/
def execKset (h : Hdr) (kn : Nat) (c : KCount) (s : State) : Res :=
  .next (issue (.kset h kn c) (fun x st =>
    match st.task? x.r.core x.r.slot with
    | none => .ok st
    | some k =>
      let n := match c with
        | .imm n => n
        | .reg a => (x.w a).toNat
      let kr := k.kreg kn
      if k.nthr < n then .trap .engine 20 0 0
      else if kr.sigs ≠ [] ∧ n ≠ kr.count then .trap .engine 19 0 0
      else .ok (st.setTask x.r.core x.r.slot (k.setKreg kn { kr with count := n }))) s)

/-- A signer of class W waits at its word; its operation number is 0. -/
def Sig.waits (g : Sig) : Bool := g.op == 0

/-- One signer's instruction completes with a word in D. -/
def State.endSig (s : State) (core slot : Nat) (g : Sig) (w : Word) : State :=
  let r : TRef := ⟨core, slot, g.thr⟩
  if g.waits then
    match s.thread? r with
    | some t => (match t.wait with
                 | .sig .. => s.endWait r (putW g.d w)
                 | _ => s)
    | none => s
  else s.endOp r g.op (putW g.d w)

/-- An operation's status is written for each of its signers (R282). -/
def State.endSigs (s : State) (core slot : Nat) (gs : List Sig) (w : Word) : State :=
  gs.foldl (fun st g => st.endSig core slot g w) s

/-- An operation gives up its place in its buffer's order (R265). -/
def State.giveUp (s : State) (core slot q id : Nat) : State :=
  s.updQ core slot q fun b => SkipBuf.advance { b with resv := dropEntry b.resv id, take := dropEntry b.take id }

/-- A trap found at an operation's issue: taken by the thread that bound it (R291, R404). -/
def State.engTrap (s : State) (core slot : Nat) (o : EngOp) (c : Cause) (detail : Nat) : State :=
  s.deferOr ⟨core, slot, o.opt⟩ c detail o.pc

/-- The whole number of entries an operation declares, or the DETAIL of its BADDESC (R289, R291, R295). -/
def engEntries (k : Task) (i : Instr) : Except Nat Nat :=
  let b := k.q (engQ i)
  if b.cnt = 0 then .error 0x010000
  else if engBytes i % (b.esz * 32) ≠ 0 ∨ b.cnt < engBytes i / (b.esz * 32) then .error 0x010001
  else .ok (engBytes i / (b.esz * 32))

/-- The descriptor checks of MLOAD (R289): of several, the least DETAIL that holds (log entry 97). The extent by RSTR is judged as one span, gaps between
rows included, that the claims cover (log entry 88). -/
def mloadBad (k : Task) (slot : Nat) (f : BFmt) (vals : List Word) : Option Nat :=
  let src := (vals.getD 0 0).toNat + (vals.getD 1 0).toNat * 2 ^ 32
  let rstr := (vals.getD 2 0).toNat
  let sco := (vals.getD 3 0).toNat
  let e := bBytes f
  let ext := 255 * rstr + 256 * e
  if src ≠ 0 ∧ (src % 16 ≠ 0 ∨ privBase < src + ext ∨ !(slot == fwSlot || claimed k.hd src ext false)) then some 0
  else if (src ≠ 0 ∧ (rstr % 16 ≠ 0 ∨ rstr < 256 * e)) ∨ (src = 0 ∧ rstr ≠ 0) then some 2
  else if sco % 32 ≠ 0 ∨ k.scratchLen < sco + 1024 then some 3
  else none

/-- Units a task holds of its core's pool (R30, R31). -/
def Task.units (k : Task) : Nat := k.regu + k.hd.scru + 4 * k.hd.acct + k.hd.ckpu

/-- A core's free pool (R28). -/
def State.freePool (s : State) (core : Nat) : Nat :=
  512 - ((s.slotsOf core).map fun slot => match s.task? core slot with | some k => k.units | none => 0).sum

/-- The task's slack (R31). -/
def Task.slack (k : Task) : Nat := k.regu - ((k.allot.map fun e => e.2 / 16).sum)

/-- Issue a GROW or SHRINK (R304). -/
def State.issueAllot (s : State) (core slot : Nat) (k : Task) (o : EngOp) (grow : Bool) : State :=
  let v := (o.vals.getD 0 0).toNat
  let crew := o.opt / 64
  let a := Assoc.getD k.allot 0 crew
  let fin := fun (code detail : Nat) => s.endSigs core slot o.sigs (status code detail)
  let push := s.updCore core fun c =>
    { c with grants := c.grants ++ [{ uid := k.uid, slot := slot, crew := crew, v := v, grow := grow, sigs := o.sigs }] }
  if v % 32 ≠ 0 ∨ v < 32 ∨ 640 < v then fin Code.baddesc 0
  else if grow then
    if v ≤ a then fin Code.ok a
    else if k.slack + (512 - k.units) < (v - a) / 16 then fin Code.toobig 1
    else push
  else if a < v then fin Code.baddesc 0
  else if v = a then fin Code.ok a
  else push

/-- Issue an operation to its engine when its phase completes (R278, R282, R289, R291, R295, R304). -/
def State.issueEng (s : State) (core slot : Nat) (o : EngOp) : State :=
  match s.task? core slot with
  | none => s
  | some k =>
    let q := engQ o.instr
    let bad := fun (st : State) (d : Nat) => st.endSigs core slot o.sigs (status Code.baddesc d)
    let take := fun (st : State) (n : Nat) =>
      st.updQ core slot q fun b => { b with take := b.take ++ [newEntry o.id n false] }
    match o.instr with
    | .mload _ f mb _ _ _ _ =>
      let s1 := s.setTask core slot (if mb then { k with loaded1 := true } else { k with loaded0 := true })
      (match mloadBad k slot f o.vals, engEntries k o.instr with
       | some d, _ => bad s1 d
       | none, .error d => bad s1 d
       | none, .ok n => (take s1 n).updMac core mb fun m => { m with queue := m.queue ++ [{ o with n := n }] })
    | .mma _ _ _ _ mb _ _ _ _ _ =>
      (match engEntries k o.instr with
       | .error d => bad s d
       | .ok n =>
         if !k.loaded mb then s.engTrap core slot o .engine 17
         else (take s n).updMac core mb fun m => { m with queue := m.queue ++ [{ o with n := n }] })
    | .mdrain .. =>
      (match engEntries k o.instr with
       | .error d => bad s d
       | .ok n =>
         (s.updQ core slot q fun b => { b with resv := b.resv ++ [newEntry o.id n false] }).updTask core slot fun k1 =>
           { k1 with drains := k1.drains ++ [{ o with n := n }] })
    | .grow .. => s.issueAllot core slot k o true
    | .shrink .. => s.issueAllot core slot k o false
    | _ => s

/-- A phase completes (R282): the operation is issued, the register turns to the next phase, and KSIGN's signers go
on. -/
def State.completePhase (s : State) (core slot kn : Nat) (kr : KReg) : State :=
  match s.task? core slot with
  | none => s
  | some k =>
    let ph := (kr.phase + 1) % 2 ^ 32
    let (id, s0) := s.fresh
    let s1 := s0.setTask core slot (k.setKreg kn { KReg.reset with count := kr.count, phase := ph })
    let s2 := (kr.sigs.filter fun g => !g.bearing).foldl (fun st g =>
      st.endSig core slot g (status Code.ok (ph % 2 ^ 24))) s1
    match kr.opi with
    | none => s2
    | some i =>
      s2.issueEng core slot
        { id := id, uid := k.uid, slot := slot, instr := i, vals := kr.vals, opt := kr.opt, pc := kr.optPc,
          sigs := kr.sigs.filter fun g => g.bearing, n := 0 }

/-- GROW and SHRINK bind their signers to one crew (R280). -/
def isAllot : Instr → Bool
  | .grow .. | .shrink .. => true
  | _ => false

/-- One thread's signature (R280, R281): waits tells a word of class W. -/
def signBody (i : Instr) (kn : Nat) (d : Opnd) (bearing waits : Bool) (vals : Ctx → List Word) (x : Ctx) (st : State) : Out :=
  match st.task? x.r.core x.r.slot with
  | none => .ok st
  | some k =>
    let kr := k.kreg kn
    if kr.count = 0 then .trap .engine 18 0 0
    else if kr.sigs.any (fun g => g.thr == x.r.thr) then .trap .ksign kn 0 0
    else if bearing && kr.opw != 0 && opwOf i != kr.opw then .trap .engine 21 0 0
    else if isAllot i && kr.opw != 0 && x.r.thr / 64 != kr.opt / 64 then .trap .engine 22 0 0
    else
      let (id, st1) := st.fresh
      let st2 := if waits then st1.updThread x.r fun t => { t with wait := .sig kn d }
        else st1.addOp x.r (mkOp id i x.t.pc true (.engine [d]))
      let g : Sig := { thr := x.r.thr, op := if waits then 0 else id, d := d, bearing := bearing }
      let kr1 : KReg := { kr with sigs := kr.sigs ++ [g] }
      let kr2 : KReg :=
        if bearing && kr.opw == 0 then
          { kr1 with opw := opwOf i, opi := some i, opt := x.r.thr, optPc := x.t.pc, vals := vals x }
        else kr1
      let st3 := st2.setTask x.r.core x.r.slot (k.setKreg kn kr2)
      let st4 := if kr2.sigs.length = kr2.count then st3.completePhase x.r.core x.r.slot kn kr2 else st3
      if waits then .stay st4 else .ok st4

/-- KSIGN (R285). -/
def execKsign (h : Hdr) (d : Opnd) (kn : Nat) (s : State) : Res :=
  .next (issue (.ksign h d kn) (signBody (.ksign h d kn) kn d false true fun _ => []) s)

/-- MLOAD signs (R287, R288). -/
def execMload (h : Hdr) (fmt : BFmt) (mb : Bool) (d a : Opnd) (kn q : Nat) (s : State) : Res :=
  .next (issue (.mload h fmt mb d a kn q) (signBody (.mload h fmt mb d a kn q) kn d true false fun x =>
    (List.range 4).map fun j => x.gi a j) s)

/-- MMA signs (R290). -/
def execMma (h : Hdr) (tr im : Bool) (fmt : AFmt) (mb : Bool) (d : Opnd) (tile : Nat) (b : Opnd) (kn q : Nat) (s : State) : Res :=
  .next (issue (.mma h tr im fmt mb d tile b kn q) (signBody (.mma h tr im fmt mb d tile b kn q) kn d true false fun x =>
    [x.w b]) s)

/-- MDRAIN signs (R294). -/
def execMdrain (h : Hdr) (fmt : OFmt) (rm : Rm) (sat za : Bool) (d : Opnd) (tile kn q : Nat) (s : State) : Res :=
  .next (issue (.mdrain h fmt rm sat za d tile kn q)
    (signBody (.mdrain h fmt rm sat za d tile kn q) kn d true false fun _ => []) s)

/-- GROW signs (R304). -/
def execGrow (h : Hdr) (d b : Opnd) (kn : Nat) (s : State) : Res :=
  .next (issue (.grow h d b kn) (signBody (.grow h d b kn) kn d true true fun x => [x.w b]) s)

/-- SHRINK signs (R304). -/
def execShrink (h : Hdr) (d b : Opnd) (kn : Nat) (s : State) : Res :=
  .next (issue (.shrink h d b kn) (signBody (.shrink h d b kn) kn d true true fun x => [x.w b]) s)

/- ## MZERO and MSTAT at issue (R293, R296) -/

/-- An operation of one thread that waits for earlier ones beside the macros' queues. -/
def asideBody (i : Instr) (d : Opnd) (x : Ctx) (st : State) : Out :=
  let (id, st1) := st.fresh
  let st2 := st1.addOp x.r (mkOp id i x.t.pc false (.engine [d]))
  let o : EngOp := { id := id, uid := x.k.uid, slot := x.r.slot, instr := i, vals := [], opt := x.r.thr, pc := x.t.pc,
                     sigs := [{ thr := x.r.thr, op := id, d := d, bearing := true }], n := 0 }
  .ok (st2.updTask x.r.core x.r.slot fun k => { k with drains := k.drains ++ [o] })

/-- MZERO. -/
def execMzero (h : Hdr) (tile c : Nat) (s : State) : Res :=
  .next (issue (.mzero h tile c) (asideBody (.mzero h tile c) Opnd.nil) s)

/-- MSTAT .state. -/
def execMstatState (h : Hdr) (d : Opnd) (mb : Bool) (s : State) : Res :=
  .next (issue (.mstatState h d mb) (asideBody (.mstatState h d mb) d) s)

/-- MSTAT .passes. -/
def execMstatPasses (h : Hdr) (d : Opnd) (mb : Bool) (s : State) : Res :=
  .next (issue (.mstatPasses h d mb) (asideBody (.mstatPasses h d mb) d) s)

/-- MSTAT .canary. -/
def execMstatCanary (h : Hdr) (d : Opnd) (mb : Bool) (s : State) : Res :=
  .next (issue (.mstatCanary h d mb) (asideBody (.mstatCanary h d mb) d) s)

/-- MSTAT .checks. -/
def execMstatChecks (h : Hdr) (d : Opnd) (mb : Bool) (s : State) : Res :=
  .next (issue (.mstatChecks h d mb) (asideBody (.mstatChecks h d mb) d) s)

/-- The latched format's code (R287). -/
def BFmtCode : BFmt → Nat
  | .dm8 => 0 | .i8 => 1 | .bf16 => 2 | .f16 => 3

/-- The state word of a macro for a task (R297); with no tile of the task, HELD and BFMT are 0 (log entry 97). -/
def mstatWord (m : Macro) (uid : Nat) (t : Option BTile) : Word :=
  BitVec.ofNat 32
    ((if m.fail then 2 ^ 31 else 0) +
     (match t with
      | some b => 2 ^ 30 + (if m.resident == some uid then 2 ^ 29 else 0) + (if b.src ≠ 0 then 2 ^ 28 else 0) +
          BFmtCode b.fmt * 2 ^ 26
      | none => 0) +
     m.passes % 256 * 2 ^ 8 + min m.queue.length 16)

/-- The item an MSTAT reads (R296). -/
def mstatItem (k : Task) (c : Core) (i : Instr) : Word :=
  match i with
  | .mstatState _ _ mb => mstatWord (c.mac mb) k.uid (k.mt mb)
  | .mstatPasses _ _ mb => BitVec.ofNat 32 (c.mac mb).passes
  | .mstatCanary _ _ mb => (c.mac mb).canary
  | .mstatChecks _ _ mb => BitVec.ofNat 32 (match k.mt mb with | some b => b.checks | none => 0)
  | _ => 0

/- ## Accumulator tiles -/

/-- A cell of a tile (R276). -/
def tileKey (tile m n : Nat) : Nat := tile * 4096 + m * 256 + n

/-- A cell's bits. -/
def Task.cell (k : Task) (tile m n : Nat) : Word := Assoc.getD k.tiles 0 (tileKey tile m n)

/-- Write a whole tile from a function of row and column. -/
def Task.setTile (k : Task) (tile : Nat) (f : Nat → Nat → Word) : Task :=
  { k with tiles := (List.range 4096).foldl (fun m i => Assoc.setD m 0 (tile * 4096 + i) (f (i / 256) (i % 256))) k.tiles }

/-- The sixteen blocks of tiles (R273). -/
def tileBlocks (first n : Nat) : List Nat := (List.range (16 * n)).map fun i => tileBlock (first + i / 16) (i % 16)

/-- An earlier operation of the task names the macro (R296). -/
def earlierMac (c : Core) (uid id : Nat) (mb : Bool) : Bool :=
  (c.mac mb).queue.any fun o => o.uid == uid && decide (o.id < id)

/-- An earlier operation of the task names one of the tiles (R278). -/
def earlierTile (c : Core) (k : Task) (id : Nat) (ts : Nat × Nat) : Bool :=
  (c.mac0.queue ++ c.mac1.queue ++ k.drains).any fun o =>
    o.uid == k.uid && decide (o.id < id) && tilesMeet (engTiles o.instr) ts

/-- An operation beside the queues that waits for nothing any more: an MSTAT reads, an MZERO clears (R293, R296). -/
def asideReady (c : Core) (k : Task) (o : EngOp) : Bool :=
  match o.instr with
  | .mzero .. => !earlierTile c k o.id (engTiles o.instr)
  | .mdrain .. => false
  | i => (match engMac i with
          | some mb => !earlierMac c k.uid o.id mb
          | none => false)

/-- End one such operation. -/
def State.asideEnd (s : State) (core slot : Nat) (k : Task) (o : EngOp) : State :=
  let ts := engTiles o.instr
  let k1 : Task := { k with drains := k.drains.filter fun d => d.id != o.id }
  let k2 := (List.range ts.2).foldl (fun (a : Task) i => a.setTile (ts.1 + i) fun _ _ => 0) k1
  let s1 := ((s.setTask core slot k2).markDirty core slot (tileBlocks ts.1 ts.2))
  s1.endSigs core slot o.sigs (mstatItem k (s.core core) o.instr)

/-- End every operation of a task beside the queues that is ready, oldest first. -/
def State.asideSettle (s : State) (core slot : Nat) : Nat → State
  | 0 => s
  | n + 1 =>
    match s.task? core slot with
    | none => s
    | some k =>
      if k.frozen.isSome then s
      else
        match k.drains.find? (asideReady (s.core core) k) with
        | some o => (s.asideEnd core slot k o).asideSettle core slot n
        | none => s

/-- The same for every task of the chip. -/
def State.matrixSettle (s : State) : State :=
  s.tasks.foldl (fun st e => st.asideSettle (e.1 / 32) (e.1 % 32) e.2.drains.length) s

/- ## Firing: MLOAD (R289) -/

/-- The head of a buffer's take order is the operation, and it can be served. -/
def takeServed (b : SkipBuf) (o : EngOp) : Bool :=
  (match firstWaiting b.take with
   | some x => x.id == o.id
   | none => false) && decide (o.n ≤ b.avail)

/-- An operation takes its entries and frees them: CRS and CON rise (R265). -/
def SkipBuf.takeWhole (b : SkipBuf) (id n : Nat) : SkipBuf :=
  let b1 := b.takeOne id n
  SkipBuf.advance { b1 with take := completeEntry b1.take id }

/-- The cells of a B tile from its bytes (R288). -/
def bCells (f : BFmt) (bs : List Byte) : Map (BitVec 16) :=
  let e := bBytes f
  ((bs.zipIdx.filter fun x => x.2 % e == 0).map fun x =>
    (x.2 / e, BitVec.ofNat 16 (x.1.toNat + (if e = 2 then 256 * (bs.getD (x.2 + 1) 0).toNat else 0)))).filter fun y => y.2 != 0

/-- The column scales from their bytes. -/
def bScales (bs : List Byte) : Map Word := ((wordsOf 256 bs).zipIdx.map fun e => (e.2, e.1)).filter fun y => y.2 != 0

/-- The queue of a macro loses its head. -/
def State.popMac (s : State) (core : Nat) (mb : Bool) : State := s.updMac core mb fun m => { m with queue := m.queue.tail }

/-- A tile of the task for a macro is being fetched again (R302, R303). -/
def State.refetching (s : State) (core uid : Nat) (mb : Bool) : Bool := (s.copiesOf core uid).any fun e => e.2.tile == some mb

/-- MLOAD_FIRE: the head of the macro's queue is an MLOAD whose entries are there, and only then are they taken (log entry 97);
a fetch of the task's tile that is under way ends first (R303), and on a macro marked failed nothing fires (R301). -/
def execMloadFire (core : Nat) (mb : Bool) (s : State) : Res :=
  match ((s.core core).mac mb).queue.head? with
  | none => .next s
  | some o =>
    match o.instr, s.task? core o.slot with
    | .mload _ f _ _ _ _ q, some k =>
      let b := k.q q
      if ((s.core core).mac mb).fail ∨ k.uid ≠ o.uid ∨ k.frozen.isSome ∨ !takeServed b o ∨ s.refetching core k.uid mb then .next s
      else
        let sco := (o.vals.getD 3 0).toNat
        let s1 := (s.popMac core mb).updQ core o.slot q fun b => b.takeWhole o.id o.n
        let s2 := s1.updMac core mb fun m => { m with resident := some k.uid }
        if k.entryPoison b b.crs.toNat o.n || k.spoisoned sco 1024 then
          let s3 := (s2.updTask core o.slot fun k1 => k1.setMt mb none).updMac core mb fun m => { m with resident := none }
          .next (s3.engTrap core o.slot o .uncorr 0)
        else
          let t : BTile :=
            { fmt := f, src := (o.vals.getD 0 0).toNat + (o.vals.getD 1 0).toNat * 2 ^ 32, rstr := (o.vals.getD 2 0).toNat,
              cells := bCells f (k.entryBytes b b.crs.toNat o.n), scales := bScales (Memory.readN k.scratch sco 1024),
              checks := 0 }
          .next ((s2.updTask core o.slot fun k1 => k1.setMt mb (some t)).endSigs core o.slot o.sigs (status Code.ok 0))
    | _, _ => .next s

/- ## The pass (R89 to R94, R291, R299) -/

/-- The type of a B cell. -/
def bTy : BFmt → Ty
  | .dm8 => .dm8 | .i8 => .i8 | .bf16 => .bf16 | .f16 => .f16

/-- The type of an A element. -/
def aTy : AFmt → Ty
  | .dm8 => .dm8 | .i8 => .i8 | .i4 => .i4 | .bf16 => .bf16 | .f16 => .f16

/-- The bits of element (m, k) of an A block: two .i4 values to a byte, the lower index low (R65, R291). -/
def aBits (f : AFmt) (bs : List Byte) (m k : Nat) : Nat :=
  let i := 256 * m + k
  match f with
  | .i4 => fld (bs.getD (i / 2) 0).toNat (4 * (i % 2)) 4
  | .dm8 | .i8 => (bs.getD i 0).toNat
  | _ => (bs.getD (2 * i) 0).toNat + 256 * (bs.getD (2 * i + 1) 0).toNat

/-- The bits of the cell that B[k][n] reads (R91): row n, column k when transposed. -/
def BTile.bits (t : BTile) (tr : Bool) (k n : Nat) : Nat :=
  (Assoc.getD t.cells 0 (if tr then 256 * n + k else 256 * k + n)).toNat

/-- One chunk of 32 terms added to an accumulator (R91, R92). -/
def chunkAdd (acc : Word) (a b : Nat → FNum) (col stream : FNum) (c : Nat) : Word :=
  let s := sumExact ((List.range 32).map fun j => FNum.mul (a (32 * c + j)) (b (32 * c + j)))
  let x := FNum.mul (FNum.mul s col) stream
  if x.isZero && decide (f32 acc ≠ .nan) then acc else roundF32 (FNum.add .rn (f32 acc) x)

/-- An element in float mode: eight chunks in ascending k. -/
def floatElem (acc : Word) (a b : Nat → FNum) (col stream : FNum) : Word :=
  (List.range 8).foldl (fun w c => chunkAdd w a b col stream c) acc

/-- An element in integer mode (R93). -/
def intElem (acc : Word) (a b : Nat → Int) : Word :=
  acc + BitVec.ofInt 32 (((List.range 256).map fun k => a k * b k).sum)

/-- The pass over a tile (R91, R93). -/
def passTile (k : Task) (t : BTile) (tr im : Bool) (f : AFmt) (tile : Nat) (stream : Word) (bs : List Byte) (m n : Nat) : Word :=
  let acc := k.cell tile m n
  if im then intElem acc (fun j => Ty.exact (aTy f) (aBits f bs m j)) fun j => Ty.exact (bTy t.fmt) (t.bits tr j n)
  else
    floatElem acc (fun j => Ty.value (aTy f) (aBits f bs m j)) (fun j => Ty.value (bTy t.fmt) (t.bits tr j n))
      (f32 (Assoc.getD t.scales 0 n)) (f32 stream)

/-- Integer mode takes .i8 or .i4 with .i8 only (R90). -/
def intModeOk (f : AFmt) (b : BFmt) : Bool := decide (f = .i8 ∨ f = .i4) && decide (b = .i8)

/-- The task's tile is not in the macro's cells and stands under a source record: it is fetched again before the MMA at the
head goes on (R302). -/
def State.mustRefetch (s : State) (core : Nat) (mb : Bool) (k : Task) (t : BTile) : Bool :=
  ((s.core core).mac mb).resident != some k.uid && t.src != 0

/-- Fetch a recorded tile again, from SRC by RSTR (R302), unless that is under way. What the fetch meets falls on the task (log
entry 58). -/
def State.refetchTile (s : State) (core slot : Nat) (mb : Bool) (k : Task) (t : BTile) : State :=
  if s.refetching core k.uid mb then s
  else
    let n := 256 * bBytes t.fmt
    s.startAgain core slot k ((List.range 256).map fun i => (t.src + i * t.rstr, i * n, n)) none none (some mb)

/-- A canary mismatch (R300): the macro fails, and the task's queued operations on it are discarded. -/
def State.canaryFail (s : State) (core : Nat) (mb : Bool) (k : Task) (o : EngOp) (col : Nat) : State :=
  let p := ((s.core core).mac mb).passes
  let row := p % 256
  let s1 := s.updMac core mb fun m =>
    { m with fail := true, canary := BitVec.ofNat 32 (2 ^ 31 + row * 2 ^ 8 + col % 256), passes := p + 1,
             queue := m.queue.filter fun x => x.uid != k.uid }
  let s2 := s1.deputy 1 (coreUnit core) k.asid ((if mb then 2 ^ 16 else 0) + row * 2 ^ 8 + col % 256) p
  s2.engTrap core o.slot o .canary 0

/-- A finished pass: the tile is written, the counts rise, the entries are freed (R291, R299). -/
def State.passDone (s : State) (core : Nat) (mb : Bool) (k : Task) (o : EngOp) (t : BTile) (tile q : Nat)
    (f : Nat → Nat → Word) : State :=
  let s1 := (s.setTask core o.slot ((k.setMt mb (some { t with checks := t.checks + 1 })).setTile tile f)).markDirty core o.slot
    (tileBlocks tile 1)
  let s2 := (s1.popMac core mb).updMac core mb fun m => { m with passes := m.passes + 1, resident := some k.uid }
  (s2.updQ core o.slot q fun b => b.takeWhole o.id o.n).endSigs core o.slot o.sigs (status Code.ok 0)

/-- An MMA at the head of its macro ends with a trap and gives up its place (R291). -/
def State.mmaTrap (s : State) (core : Nat) (mb : Bool) (o : EngOp) (q : Nat) (c : Cause) (detail : Nat) : State :=
  ((s.popMac core mb).giveUp core o.slot q o.id).engTrap core o.slot o c detail

/-- MMA_PASS: the head of the macro's queue is an MMA, on a macro that has not failed (R301); its tile is first made resident
(R302); bad names the lowest column whose canary sums differ (R291, R299, R300). A pass on poisoned data is not counted, and
its entries' place is given up (log entry 89). -/
def execMmaPass (core : Nat) (mb : Bool) (bad : Option Nat) (s : State) : Res :=
  match ((s.core core).mac mb).queue.head? with
  | none => .next s
  | some o =>
    match o.instr, s.task? core o.slot with
    | .mma _ tr im f _ _ tile _ _ q, some k =>
      if ((s.core core).mac mb).fail ∨ k.uid ≠ o.uid ∨ k.frozen.isSome ∨ earlierTile (s.core core) k o.id (tile, 1) then .next s
      else
        (match k.mt mb with
         | none => .next (s.mmaTrap core mb o q .engine 17)
         | some t =>
           let b := k.q q
           if s.mustRefetch core mb k t then .next (s.refetchTile core o.slot mb k t)
           else if im && !intModeOk f t.fmt then .next (s.mmaTrap core mb o q .engine 16)
           else if !takeServed b o then .next s
           else if k.entryPoison b b.crs.toNat o.n then .next (s.mmaTrap core mb o q .uncorr 0)
           else
             (match bad with
              | some col => .next ((s.updQ core o.slot q fun b => b.takeWhole o.id o.n).canaryFail core mb k o col)
              | none =>
                let bs := k.entryBytes b b.crs.toNat o.n
                .next (s.passDone core mb k o t tile q (passTile k t tr im f tile (o.vals.getD 0 0) bs))))
    | _, _ => .next s

/- ## MDRAIN (R295) -/

/-- The bytes of one drained element. -/
def drainElem (f : OFmt) (rm : Rm) (sat : Bool) (w : Word) : List Byte :=
  match f with
  | .b32 => leBytes 4 w.toNat
  | .f32 => leBytes 4 (cvtVal .f32 .f32 rm sat w.toNat)
  | .bf16 => leBytes 2 (cvtVal .bf16 .f32 rm sat w.toNat)
  | .f16 => leBytes 2 (cvtVal .f16 .f32 rm sat w.toNat)
  | .dm8 => leBytes 1 (cvtVal .dm8 .f32 rm sat w.toNat)

/-- A reservation is granted and complete at once: RSV rises, PUB advances in order (R265). -/
def SkipBuf.reserveWhole (b : SkipBuf) (id n : Nat) : SkipBuf :=
  let b1 := b.reserve id n
  SkipBuf.advance { b1 with resv := completeEntry b1.resv id }

/-- MDRAIN_FIRE: the drain's reservation is first in order and has room, and every earlier operation on the tile has ended:
only then does it reserve (log entry 97). -/
def execMdrainFire (core slot op : Nat) (s : State) : Res :=
  match s.task? core slot with
  | none => .next s
  | some k =>
    match k.drains.find? (fun o => o.id == op) with
    | none => .next s
    | some o =>
      match o.instr with
      | .mdrain _ f rm sat za _ tile _ q =>
        let b := k.q q
        let first := match firstWaiting b.resv with
          | some x => x.id == o.id
          | none => false
        if k.frozen.isSome || !first || decide (b.room < o.n) || earlierTile (s.core core) k o.id (tile, 1) then .next s
        else
          let bs := (List.range 4096).flatMap fun i => drainElem f rm sat (k.cell tile (i / 256) (i % 256))
          let k1 : Task := { k with drains := k.drains.filter fun d => d.id != o.id }
          let k2 := if za then k1.setTile tile fun _ _ => 0 else k1
          let s1 := s.setTask core slot k2
          let s2 := if za then s1.markDirty core slot (tileBlocks tile 1) else s1
          let s3 := s2.writeEntries core slot (b.esz * 32) (b.slots b.rsv.toNat o.n) bs
          .next ((s3.updQ core slot q fun b => b.reserveWhole o.id o.n).endSigs core slot o.sigs (status Code.ok 0))
      | _ => .next s

/- ## GROW and SHRINK (R304, R305) -/

/-- Registers a to b − 1 of every thread of a crew read zero. -/
def State.clearRegs (s : State) (core slot crew a b : Nat) : State :=
  let clear := fun (e : Nat × Thread) =>
    if e.1 / 4096 = taskKey core slot ∧ e.1 % 4096 / 64 = crew then
      (e.1, { e.2 with regs := e.2.regs.filter fun x => !(decide (a ≤ x.1) && decide (x.1 < b)) })
    else e
  let s1 := { s with threads := s.threads.map clear }
  s1.markDirty core slot ((List.range (b - a)).map fun i => regBlock (crew * 64) (a + i))

/-- The signers whose D the crew still has (R305). -/
def keptSigs (v : Nat) (gs : List Sig) : List Sig :=
  gs.map fun g => match g.d with
    | .v n => if v ≤ n then { g with d := Opnd.nil } else g
    | .sp _ => g

/-- An allotment takes effect and its signers go on. -/
def State.applyAllot (s : State) (core : Nat) (k : Task) (g : AllotOp) (pool : Nat) : State :=
  let a := Assoc.getD k.allot 0 g.crew
  let s1 := s.updCore core fun c => { c with grants := c.grants.erase g }
  let s2 := s1.updTask core g.slot fun k1 =>
    { k1 with regu := k1.regu + pool, allot := Assoc.put k1.allot g.crew g.v }
  let s3 := s2.clearRegs core g.slot g.crew (min a g.v) (max a g.v)
  s3.endSigs core g.slot (keptSigs g.v g.sigs) (status Code.ok g.v)

/-- GROW_GRANT: the first waiting GROW of the core is granted when its units are there (R304, R305). -/
def execGrowGrant (core : Nat) (s : State) : Res :=
  match (s.core core).grants.find? (fun g => g.grow) with
  | none => .next s
  | some g =>
    match s.task? core g.slot with
    | none => .next s
    | some k =>
      let a := Assoc.getD k.allot 0 g.crew
      let u := (g.v - a) / 16
      if k.uid ≠ g.uid ∨ k.frozen.isSome ∨ k.slack + s.freePool core < u then .next s
      else if g.v ≤ a then
        .next ((s.updCore core fun c => { c with grants := c.grants.erase g }).endSigs core g.slot g.sigs (status Code.ok a))
      else .next (s.applyAllot core k g (u - k.slack))

/-- A result of a thread of the crew into a removed register is in flight, of an operation or of a word it waits at: the D of
this SHRINK's own signers apart (R304, R305). -/
def State.shrinkBusy (s : State) (core : Nat) (k : Task) (g : AllotOp) : Bool :=
  (s.threadsOf core g.slot).any fun e =>
    let waits := if g.sigs.any (fun x => x.thr == e.1) then [] else e.2.wait.regs
    e.1 / 64 == g.crew && (e.2.ops.flatMap Op.wr ++ waits).any fun n => decide (g.v ≤ n) && decide (n < k.allotOf e.1)

/-- SHRINK_APPLY: a waiting SHRINK takes effect when no result is in flight to what it removes (R304, R305). -/
def execShrinkApply (core : Nat) (s : State) : Res :=
  match (s.core core).grants.find? (fun g => !g.grow &&
      (match s.task? core g.slot with | some k => k.frozen.isNone && !s.shrinkBusy core k g | none => false)) with
  | none => .next s
  | some g =>
    match s.task? core g.slot with
    | none => .next s
    | some k =>
      let a := Assoc.getD k.allot 0 g.crew
      if a ≤ g.v then
        .next ((s.updCore core fun c => { c with grants := c.grants.erase g }).endSigs core g.slot g.sigs
          (if g.v = a then status Code.ok a else status Code.baddesc 0))
      else .next (s.applyAllot core k g 0)

end Machine
end Sys2Proof
end

