-- ==== Sys2Proof/Machine/Vein.lean ====
section
/-! DEFINITION. Phases (R330 to R334), the vein's updates, slots, membership and sweeps (R307 to R324), and VMEMB (R336 to
R339). -/

namespace Sys2Proof
namespace Machine

/- ## Phases (R330 to R333) -/

/-- The fields of a domain slot (R330, R428). -/
def State.pdcfgOf (s : State) (n : Nat) : Nat := (Assoc.getD s.regs.pdcfg 0 n).toNat
def State.pdEn (s : State) (n : Nat) : Bool := (s.pdcfgOf n).testBit 31
def State.pdNn (s : State) (n : Nat) : Nat := fld (s.pdcfgOf n) 16 4
def State.pdAlw (s : State) (n : Nat) : Nat := fld (s.pdcfgOf n) 0 16

/-- The chip identifier of a neighbour. -/
def State.pdNbr (s : State) (n i : Nat) : Nat := fld (Assoc.getD s.regs.pdnbr 0 (2 * n + i / 4)).toNat (16 * (i % 4)) 13

/-- A domain slot's phases. -/
def PhaseSt.reset : PhaseSt := { ph := 0, phn := [] }
def State.phase (s : State) (n : Nat) : PhaseSt := Assoc.getD s.phases PhaseSt.reset n
def State.setPhase (s : State) (n : Nat) (x : PhaseSt) : State := { s with phases := Assoc.setD s.phases PhaseSt.reset n x }

/-- a ≥ b in serial arithmetic (R331). -/
def serialGe (a b : Word) : Bool := decide ((a - b).toNat < 2 ^ 31)

/-- A neighbour is lost. -/
def State.nbrLost (s : State) (n i : Nat) : Bool := decide (s.peerSt (s.pdNbr n i) = .lost)

/-- The neighbours of a slot. -/
def State.nbrs (s : State) (n : Nat) : List Nat := List.range (s.pdNn n)

/-- PHADV (R332). -/
def execPhadv (h : Hdr) (d : Opnd) (slot : Nat) (s : State) : Res :=
  .next (issue (.phadv h d slot) (fun x st =>
    if !st.pdEn slot then .trap .engine 24 0 0
    else .stay (st.updThread x.r fun t => { t with wait := .phadv slot d })) s)

/-- PHWAIT (R333). -/
def execPhwait (h : Hdr) (d a : Opnd) (slot nbr : Nat) (s : State) : Res :=
  .next (issue (.phwait h d a slot nbr) (fun x st =>
    if !st.pdEn slot || decide (st.pdNn slot ≤ nbr) then .trap .engine 25 0 0
    else .stay (st.updThread x.r fun t => { t with wait := .phwait slot nbr (x.w a) d })) s)

/-- A waiting PHADV advances when no neighbour that is not lost is too far behind and every write that its task has made
visible has been sent (R332). -/
def State.phadvStep (s : State) (r : TRef) (slot : Nat) (d : Opnd) : State :=
  let p := s.phase slot
  let new := p.ph + 1
  let alw := BitVec.ofNat 32 (s.pdAlw slot)
  let open_ := (s.nbrs slot).all fun i => s.nbrLost slot i || serialGe (Assoc.getD p.phn 0 i + alw) new
  if !s.pdEn slot then s.endWait r (putW d (status Code.baddesc 0))
  else if !open_ || (s.task? r.core r.slot).any s.writesUnsent then s
  else
    let s1 := s.setPhase slot { p with ph := new }
    let s2 := (s.nbrs slot).foldl (fun st i => if s.nbrLost slot i then st else st.send (.mark slot (s.pdNbr slot i) new)) s1
    let code := if (s.nbrs slot).any (s.nbrLost slot) then Code.peerlost else Code.ok
    s2.endWait r (putW d (status code (new.toNat % 2 ^ 24)))

/-- A waiting PHWAIT ends at the phase or at the neighbour's loss (R333). -/
def State.phwaitStep (s : State) (r : TRef) (slot nbr : Nat) (v : Word) (d : Opnd) : State :=
  let p := Assoc.getD (s.phase slot).phn 0 nbr
  if !s.pdEn slot then s.endWait r (putW d (status Code.baddesc 0))
  else if serialGe p v then s.endWait r (putW d (status Code.ok (p.toNat % 2 ^ 24)))
  else if s.nbrLost slot nbr then s.endWait r (putW d (status Code.peerlost nbr))
  else s

/-- The phase waits of the chip's threads, in order. -/
def State.phaseSettle (s : State) : State :=
  s.threads.foldl (fun st e =>
    match e.2.wait with
    | .phadv slot d => st.phadvStep (refOf e.1) slot d
    | .phwait slot nbr v d => st.phwaitStep (refOf e.1) slot nbr v d
    | _ => st) s

/-- PHASE_MARK_RECEIVE: a neighbour's mark arrives behind its writes (R331, R332). -/
def execPhaseMarkReceive (slot src : Nat) (mark : Word) (s : State) : Res :=
  if !s.pdEn slot then .next s
  else
    .next (((s.nbrs slot).filter fun i => s.pdNbr slot i == src).foldl (fun st i =>
      let p := st.phase slot
      st.setPhase slot { p with phn := Assoc.setD p.phn 0 i mark }) s)

/-- The D of a thread's wait on a slot. -/
def Thread.phaseD (t : Thread) (n : Nat) : Option Opnd :=
  match t.wait with
  | .phadv slot d => if slot = n then some d else none
  | .phwait slot _ _ d => if slot = n then some d else none
  | _ => none

/-- A saved thread's wait on a disabled slot completes: it goes on behind its word when its task is restored (R330, R415). -/
def Thread.phaseEnd (t : Thread) (n : Nat) : Thread :=
  match t.phaseD n with
  | some d => { (t.puts (putW d (status Code.baddesc 0))) with wait := .none, pc := t.pc + 8 }
  | none => t

/-- The waits of a saved task's threads on a disabled slot complete (R273, R330). -/
def Saved.phaseEnd (v : Saved) (n : Nat) : Saved :=
  let marks := v.threads.flatMap fun t => ((t.2.phaseD n).map fun d => regBlocks t.1 (putW d 0)).getD []
  { v with task := v.task.markDirty marks, threads := v.threads.map fun (t : Nat × Thread) => (t.1, t.2.phaseEnd n) }

/-- PHASE_SLOT_DISABLE: the register is written with EN = 0, and the slot's waits complete with BADDESC, those of saved tasks
too (R330). -/
def execPhaseSlotDisable (n : Nat) (v : Word) (s : State) : Res :=
  let s0 := { s with
    regs := { s.regs with pdcfg := Assoc.setD s.regs.pdcfg 0 n (v &&& 0x000FFFFF) }
    agents := { s.agents with saved := s.agents.saved.map fun (e : Nat × Saved) => (e.1, e.2.phaseEnd n) } }
  let s1 := s0.setPhase n PhaseSt.reset
  let w := status Code.baddesc 0
  if v.getLsbD 31 then .next s
  else .next (s1.threads.foldl (fun (st : State) (e : Nat × Thread) =>
    match e.2.phaseD n with
    | some d => st.endWait (refOf e.1) (putW d w)
    | none => st) s1)

/- ## Vein sets -/

/-- Change a set of the chip. -/
def State.updVein (s : State) (slot : Nat) (f : VeinSet → VeinSet) : State := { s with veins := Assoc.modify s.veins slot f }

/-- The members' ranks. -/
def VeinSet.ranks (v : VeinSet) : List Nat := v.members.map fun m => m.1

/-- The next member in ascending rank, wrapping (R317). -/
def nextRank (ranks : List Nat) (r : Nat) : Nat :=
  let up := ranks.filter fun x => decide (r < x)
  match leastOf up with
  | some x => x
  | none => (leastOf ranks).getD r

/-- The banksman role is another's: the named successor assigns from the marker's number, and a new ROTS and ROTT take
effect (R317, R338). -/
def VeinSet.handover (v : VeinSet) (n succ now : Nat) : VeinSet :=
  { v with
    banksman := succ, nextSlot := n, assigned := 0, bankSince := now, marker := some (n, succ)
    rots := match v.newRot with | some x => x.1 | none => v.rots
    rott := match v.newRot with | some x => x.2 | none => v.rott
    newRot := none }

/-- A handover marker reaches a member; one that a departure's exchange has already told it changes nothing (R324). -/
def VeinSet.marked (v : VeinSet) (n succ now : Nat) : VeinSet :=
  if v.marker = some (n, succ) then v else { v.handover n succ now with seenSlot := max v.seenSlot n }

/- ## Completing strong operations (R246, R315, R316) -/

/-- A strong operation completes: D and SSTAT are written (R246). -/
def State.strongEnd (s : State) (g : StrongOp) (w : Word) : State :=
  let ok := decide (w = status Code.ok 0)
  match s.thread? g.ref with
  | none => s
  | some t =>
    match t.ops.find? (fun o => o.id == g.op) with
    | none => s
    | some o =>
      let ws := match o.kind with
        | .strong a data _ _ _ _ (some d) => putG d (if ok then wordsOf (max 1 (a.n / 4)) data else List.replicate (max 1 (a.n / 4)) 0)
        | _ => []
      (s.endOp g.ref g.op ws).updThread g.ref fun t1 => { t1 with sstat := w }

/-- The strong operations whose acknowledgements are all in complete with OK (R315 step 5). -/
def State.strongFinish (s : State) (slot : Nat) : State :=
  match Assoc.find? s.veins slot with
  | none => s
  | some v =>
    let done := v.strongs.filter fun g => g.performed && g.acks.isEmpty
    done.foldl (fun st g => st.strongEnd g (status Code.ok 0))
      (s.updVein slot fun w => { w with strongs := w.strongs.filter fun g => !(g.performed && g.acks.isEmpty) })

/-- What a strong operation does at the issuer's replica: the bytes it returns and the sectors of its update (R222,
R315). -/
def State.strongDo (s : State) (slot : Nat) (v : VeinSet) (o : Op) : List Byte × List (Nat × List Byte) :=
  match o.kind with
  | .strong a data op w64 b c _ =>
    let key := veinKey slot (a.va - v.segb)
    let old := s.peek key a.n
    let sector := fun (bs : List Byte) =>
      let off := (a.va - v.segb) / 32
      [(off, Memory.readN (Memory.writeN s.mem key bs) (veinKey slot (32 * off)) 32)]
    (match op with
     | some aop =>
       (old, if aopWrites aop (leNat old) b.toNat && !s.poisoned key a.n then sector (leBytes a.n (aopVal aop w64 (leNat old) b.toNat c.toNat))
             else [])
     | none => if a.write then ([], sector data) else (old, []))
  | _ => ([], [])

/-- The value a strong operation returns is poisoned (R232). -/
def State.strongPoison (s : State) (slot : Nat) (v : VeinSet) (o : Op) : Bool :=
  match o.kind with
  | .strong a _ op _ _ _ d => d.isSome && (op.isSome || !a.write) && s.poisoned (veinKey slot (a.va - v.segb)) a.n
  | _ => false

/-- Keep the value a strong operation returns until it completes. -/
def Op.keepData (o : Op) (bs : List Byte) : Op :=
  match o.kind with
  | .strong a _ op w64 b c d => { o with kind := .strong a bs op w64 b c d }
  | _ => o

/-- A strong operation whose slot is next may be performed at the issuer: its thread's earlier accesses, acknowledgements and
remote writes allow it (R205, R225). One whose task has gone is performed without an effect. -/
def State.strongReady (s : State) (g : StrongOp) : Bool :=
  match s.task? g.ref.core g.ref.slot, s.thread? g.ref with
  | some k, some t =>
    (match t.ops.find? fun o => o.id == g.op with
     | some o => s.mayPerform g.ref k t o
     | none => true)
  | _, _ => true

/-- A member becomes lagging, or stops (R322). -/
def State.lagMark (s : State) (slot : Nat) : State :=
  match Assoc.find? s.veins slot with
  | none => s
  | some v =>
    if v.lagging ∧ v.lagSince.isNone then
      (s.updVein slot fun w => { w with lagSince := some s.clk.time }).deputy 5 0xFF00 v.asid v.vsid v.epoch
    else if !v.lagging ∧ v.lagSince.isSome then s.updVein slot fun w => { w with lagSince := none }
    else s

/-- A sweep begins at a member (R323 step 2): it holds its updates and sends its ready notice; notices that came before the
marker count. -/
def State.sweepStart (s : State) (slot : Nat) : State :=
  match Assoc.find? s.veins slot with
  | none => s
  | some v =>
    if v.sweep.isSome then s
    else
      let own := v.appl.getD v.rank 0
      let s1 := s.updVein slot fun w =>
        { w with sweep := some ((v.rank, own) :: v.early.filter fun n => n.1 != v.rank), early := [], sweepDue := false }
      if 1 < v.members.length then s1.send (.ready v.vsid v.rank own) else s1

/-- The next slot is applied at this member: one that is void, its own sweep marker, or one of its own operations (R315,
R319, R323). A killed task's operation leaves its slot without an effect; one whose value is poisoned is consumed (R232). -/
def State.slotStep (s : State) (slot : Nat) : Option State :=
  match Assoc.find? s.veins slot with
  | none => none
  | some v =>
    if v.voids.contains v.applSlot then
      some (s.updVein slot fun w => { w with applSlot := w.applSlot + 1, voids := w.voids.filter fun x => x != v.applSlot })
    else if v.sweepSlot = some v.applSlot ∧ v.frozen.isEmpty then
      some (((s.veinUpdate slot 2 v.applSlot []).updVein slot fun w => { w with applSlot := w.applSlot + 1, sweepSlot := none }).sweepStart slot)
    else if v.held then none
    else
      match v.strongs.find? (fun g => g.slot == some v.applSlot && !g.performed) with
      | none => none
      | some g =>
        if !s.strongReady g then none
        else
          let acks := v.ranks.filter fun x => x != v.rank
          let mark := fun (st : State) => st.updVein slot fun w =>
            { w with
              applSlot := w.applSlot + 1
              strongs := w.strongs.map fun (x : StrongOp) =>
                if x.ref = g.ref ∧ x.op = g.op then { x with performed := true, acks := acks } else x }
          (match (s.thread? g.ref).bind fun t => t.ops.find? fun o => o.id == g.op with
           | none => some (mark (s.veinUpdate slot 1 v.applSlot []))
           | some o =>
             let e := s.strongDo slot v o
             let s1 := (s.veinUpdate slot 1 v.applSlot e.2).updThread g.ref fun t =>
               { t with ops := t.ops.map fun (x : Op) => if x.id = g.op then x.keepData e.1 else x }
             some (mark (if s.strongPoison slot v o then s1.failOp g.ref o .uncorr 0 else s1)))

/-- Apply slots as long as the next one can be. -/
def State.slotRun (s : State) (slot : Nat) : Nat → State
  | 0 => s
  | n + 1 => match s.slotStep slot with
             | some s1 => s1.slotRun slot n
             | none => s

/-- The banksman role passes to the next member: a handover marker with the next slot number goes to every member. In a
departure's freeze the handover is put off (R324). -/
def State.rotate (s : State) (slot : Nat) : State :=
  match Assoc.find? s.veins slot with
  | none => s
  | some v =>
    if v.members.length ≤ 1 ∨ v.banksman ≠ v.rank ∨ !v.frozen.isEmpty then s
    else
      let succ := nextRank v.ranks v.rank
      let u : VUpdate := { vsid := v.vsid, epoch := v.epoch, kind := 3, rank := v.rank, wg := v.wg, seq := v.appl.getD v.rank 0,
                           slot := v.nextSlot, dep := v.appl, sectors := [], packets := 1, whole := true }
      (s.updVein slot fun w => w.handover v.nextSlot succ s.clk.time).sendUpdate v u

/-- The banksman assigns the next slot: the role rotates once it has assigned ROTS of them (R317). -/
def State.assigned (s : State) (slot : Nat) (v : VeinSet) : State := if v.rots ≤ v.assigned + 1 then s.rotate slot else s

/-- The banksman assigns a slot for a sweep's marker, which it sends when every earlier slot has been applied (R323 step 1). -/
def State.sweepAssign (s : State) (slot : Nat) (v : VeinSet) : State :=
  (s.updVein slot fun w =>
    { w with nextSlot := v.nextSlot + 1, assigned := w.assigned + 1, seenSlot := max w.seenSlot (v.nextSlot + 1),
             sweepSlot := some v.nextSlot, sweepDue := false }).assigned slot v

/-- A sweep that is due at the banksman begins when nothing stands in its way: no departure's freeze, no reconfiguration, no
other sweep, no join in progress (R323, R324, R455). -/
def State.sweepTry (s : State) (slot : Nat) : State :=
  match Assoc.find? s.veins slot with
  | none => s
  | some v =>
    if v.sweepDue && decide (v.banksman = v.rank) && v.frozen.isEmpty && s.fab.reconf.isNone && v.sweep.isNone && v.sweepSlot.isNone &&
        v.joinsOpen.isEmpty then
      s.sweepAssign slot v
    else s

/-- A leave that waited for acknowledgements is carried out (R318): the set is no longer of this chip. -/
def State.leaveTry (s : State) (slot : Nat) : State :=
  match Assoc.find? s.veins slot with
  | none => s
  | some v =>
    match v.leaving with
    | none => s
    | some (r, op) =>
      if !v.strongs.isEmpty || !v.frozen.isEmpty || v.sweep.isSome || v.sweepSlot.isSome then s
      else
        let s1 := (s.rotate slot).send (.leave v.vsid v.rank)
        ({ s1 with veins := Assoc.del s1.veins slot }).endEngine r.core r.slot op (openStatus 118 Code.ok)

/-- A join ends when every update held at the end of the sponsor's stream has been applied (R321). -/
def State.joinTry (s : State) (slot : Nat) : State :=
  match Assoc.find? s.veins slot with
  | none => s
  | some v =>
    match v.joining with
    | none => s
    | some (r, op) =>
      if v.streamed && v.mustApply.all (fun u => decide (u.2 ≤ v.appl.getD u.1 0)) then
        ((s.updVein slot fun w => { w with joining := none, mustApply := [], bankSince := s.clk.time }).send (.joined v.vsid v.rank)).endEngine
          r.core r.slot op (openStatus 118 Code.ok)
      else s

/-- A joiner's incarnation is not the one this chip knows (R325, R338). -/
def State.staleJoin (s : State) (j : VJoin) : Bool := (Assoc.find? s.fab.peers j.chip).any fun p => p.inc != j.inc

/-- The joiner becomes a member (R318, R321): from now on updates go to it, and the banksman, its sponsor, streams its
replica, stamps and applied vector. A departed rank's cut no longer stands for its new holder. The sponsor answers a joiner that
it turns away with the status of its VMEMB (R338). -/
def State.admitJoin (s : State) (slot : Nat) (j : VJoin) : State :=
  match Assoc.find? s.veins slot with
  | none => s
  | some v =>
    let refuse := fun (code detail : Nat) =>
      if v.banksman = v.rank then s.send (.joinStream j.chip { j with code := code, detail := detail }) else s
    if v.ranks.contains j.rank then refuse Code.baddesc 0x10
    else if s.staleJoin j then refuse Code.staleinc ((openStatus 118 Code.staleinc).toNat % 2 ^ 24)
    else
      let e := (v.epoch + 1) % 65536
      let v1 : VeinSet := { v with
        epoch := e, members := v.members ++ [(j.rank, j.chip, j.inc, e)], appl := setAt v.appl j.rank 0, joinsOpen := v.joinsOpen ++ [j.rank] }
      let s1 := { s with veins := Assoc.put s.veins slot v1 }
      if v.banksman ≠ v.rank then s1
      else
        let lo := veinKey slot 0
        s1.send (.joinStream j.chip
          { j with code := 0, detail := 0, members := v1.members, epoch := e, banksman := v1.banksman, nextSlot := v1.nextSlot,
                   applSlot := v1.applSlot, rots := v1.rots, rott := v1.rott, wg := v1.wg, appl := v1.appl, stamps := v1.stamps
                   cells := (s.mem.filter fun c => decide (lo ≤ c.1) && decide (c.1 < lo + v.segl)).map fun c => (c.1 - lo, c.2) })

/-- Joins that waited take place once no sweep, departure or reconfiguration stands in their way (R324, R455). -/
def State.joinsNow (s : State) (slot : Nat) : State :=
  match Assoc.find? s.veins slot with
  | none => s
  | some v =>
    if v.joinsDue.isEmpty || v.sweep.isSome || v.sweepSlot.isSome || !v.frozen.isEmpty || s.fab.reconf.isSome then s
    else v.joinsDue.foldl (fun st j => st.admitJoin slot j) (s.updVein slot fun w => { w with joinsDue := [] })

/-- The set that forms here is complete: every member has run .form with an equal descriptor (R338). -/
def State.formTry (s : State) (slot : Nat) : State :=
  match Assoc.find? s.veins slot with
  | none => s
  | some v =>
    match v.forming with
    | none => s
    | some (_, r, op) =>
      let f := (s.fab.forms.filter fun x => x.1 == v.vsid && x.2.2.2 == v.desc).map fun x => x.2.1
      let s1 := s.updVein slot fun w => { w with formed := (v.rank :: f).dedup }
      if v.ranks.all (v.rank :: f).contains then
        ((({ s1 with fab := { s1.fab with forms := s1.fab.forms.filter fun x => x.1 != v.vsid } }).updVein slot fun w =>
          { w with forming := none, bankSince := s.clk.time }).endEngine r.core r.slot op (openStatus 118 Code.ok))
      else s1

/-- Apply this member's own and the void slots that are due, complete what is acknowledged, and let go on what waited for
it. -/
def State.slotSettle (s : State) (slot : Nat) : State :=
  match Assoc.find? s.veins slot with
  | none => s
  | some v =>
    let s1 := ((s.sweepTry slot).slotRun slot (v.strongs.length + v.voids.length + 2)).strongFinish slot
    ((((s1.lagMark slot).joinsNow slot).joinTry slot).leaveTry slot).formTry slot

/-- Request slots for the operations that have not asked yet, once nothing holds them (R319, R323). -/
def State.requestHeld (s : State) (slot : Nat) : State :=
  match Assoc.find? s.veins slot with
  | none => s
  | some v =>
    if v.held then s
    else
      let n := (v.strongs.filter fun g => !g.requested).length
      let s1 := s.updVein slot fun w => { w with strongs := w.strongs.map fun (g : StrongOp) => { g with requested := true } }
      (List.range n).foldl (fun st _ => st.askSlot slot v) s1

/- ## Updates (R312 to R314) -/

/-- The rank is a member's, and the update is not of an epoch before its holder joined (R314). -/
def VeinSet.accepts (v : VeinSet) (u : VPacket) : Bool :=
  (v.joining.isSome && !v.streamed) || (v.members.any fun m => m.1 == u.rank && decide (m.2.2.2 ≤ u.epoch))

/-- The update that a packet belongs to, with the packet put to it: the packets of an update come in order (R312, R448). -/
def joinPacket (u : VUpdate) (p : VPacket) : VUpdate :=
  { u with sectors := u.sectors ++ p.sectors, packets := u.packets + 1, whole := p.last }

/-- The update a first packet begins. -/
def startPacket (p : VPacket) : VUpdate :=
  { vsid := p.vsid, epoch := p.epoch, kind := p.kind, rank := p.rank, wg := p.wg, seq := p.seq, slot := p.slot, dep := p.dep,
    sectors := p.sectors, packets := 1, whole := p.last }

/-- A packet is one of an update that has not all come yet. -/
def continues (u : VUpdate) (p : VPacket) : Bool := !u.whole && u.rank == p.rank && u.seq == p.seq && u.wg == p.wg

/-- The sump with a packet put into it. -/
def sumpPut (us : List VUpdate) (p : VPacket) : List VUpdate :=
  if us.any fun u => continues u p then us.map fun u => if continues u p then joinPacket u p else u else us ++ [startPacket p]

/-- VEIN_UPDATE_RECEIVE: the sump takes the packet, or it is dropped and counted, or discarded (R312 to R314, R323); a
handover marker is no update and acts at once (R317). -/
def execVeinUpdateReceive (p : VPacket) (s : State) : Res :=
  let drop := { s with plat := { s.plat with fabDrops := s.plat.fabDrops + 1 } }
  match s.veins.find? (fun e => e.2.vsid == p.vsid) with
  | none => .next drop
  | some (slot, v) =>
    if 3 < p.kind ∨ !v.accepts p then .next drop
    else if p.kind = 3 then .next ((s.updVein slot fun w => w.marked p.slot (nextRank v.ranks p.rank) s.clk.time).slotSettle slot)
    else if p.wg = v.wg ∧ p.seq ≤ v.appl.getD p.rank 0 ∧ (v.joining.isNone ∨ v.streamed) then .next s
    else
      .next ((s.updVein slot fun w =>
        { w with sump := sumpPut w.sump p, seenSlot := if p.kind = 0 then w.seenSlot else max w.seenSlot (p.slot + 1) }).lagMark slot)

/-- The rank's present holder, if any, joined after an epoch. -/
def VeinSet.newHolder (v : VeinSet) (j epoch : Nat) : Bool := v.members.all fun m => m.1 != j || decide (epoch < m.2.2.2)

/-- A dependence of an update is satisfied, a departed rank's up to its cut (R313, R319). -/
def VeinSet.depOk (v : VeinSet) (u : VUpdate) (j : Nat) : Bool :=
  decide (u.dep.getD j 0 ≤ v.appl.getD j 0) ||
    (v.newHolder j u.epoch && v.cuts.any fun c => c.1 == j && decide (u.dep.getD j 0 ≤ c.2))

/-- A held update may be applied (R313, R315 step 4). -/
def VeinSet.appliable (v : VeinSet) (u : VUpdate) : Bool :=
  u.whole && decide (u.wg = v.wg) && decide (v.appl.getD u.rank 0 = u.dep.getD u.rank 0) &&
    ((List.range 16).all fun j => j == u.rank || v.depOk u j) && (u.kind == 0 || u.slot == v.applSlot)

/-- The stamp a later update must exceed: SEQ first, then RANK (R313). -/
def stampLess (a b : Nat) : Bool :=
  decide (a % 2 ^ 28 < b % 2 ^ 28) || (decide (a % 2 ^ 28 = b % 2 ^ 28) && decide (a / 2 ^ 28 < b / 2 ^ 28))

/-- Entries of the applied vector for ranks outside the set are zero (R310): those of a departed rank, once its updates up to
the cut have been applied. -/
def VeinSet.zeroGone (v : VeinSet) : VeinSet :=
  { v with appl := v.cuts.foldl (fun xs c =>
      if !v.ranks.contains c.1 && decide (c.2 ≤ xs.getD c.1 0) then setAt xs c.1 0 else xs) v.appl }

/-- A member at the cut resets (R323 step 4), outside a departure's freeze (R324). -/
def State.sweepCut (s : State) (slot : Nat) : State :=
  match Assoc.find? s.veins slot with
  | none => s
  | some v =>
    match v.sweep with
    | none => s
    | some ns =>
      if v.frozen.isEmpty && v.ranks.all fun r => ns.any fun n => n.1 == r && decide (n.2 ≤ v.appl.getD r 0) then
        let s1 := s.updVein slot fun w =>
          { w with appl := List.replicate 16 0, stamps := [], wg := !w.wg, sweep := none, cuts := [], past := [] }
        ((s1.joinsNow slot).requestHeld slot).slotSettle slot
      else s

/-- Apply one held update in one step (R313). -/
def State.applyUpdate (s : State) (slot : Nat) (v : VeinSet) (u : VUpdate) : State :=
  let newer := u.sectors.filter fun e => stampLess (Assoc.getD v.stamps 0 e.1) (stampOf u.rank u.seq)
  let s1 := newer.foldl (fun st e => st.pokeCoh (veinKey slot (32 * e.1)) e.2) s
  let s2 := s1.updVein slot fun w =>
    VeinSet.zeroGone { w with
      sump := w.sump.erase u
      past := w.past ++ [u]
      appl := setAt w.appl u.rank u.seq
      stamps := newer.foldl (fun m e => Assoc.setD m 0 e.1 (stampOf u.rank u.seq)) w.stamps
      applSlot := if u.kind = 0 then w.applSlot else u.slot + 1 }
  let s3 := if u.kind = 1 then s2.send (.slotAck v.vsid u.rank u.slot) else s2
  let s4 := if u.kind = 2 then s3.sweepStart slot else s3
  (s4.slotSettle slot).sweepCut slot

/-- The first held update that may be applied. -/
def VeinSet.firstAppliable (v : VeinSet) : Option VUpdate := v.sump.find? v.appliable

/-- SUMP_APPLY (R313); an update already applied is discarded. -/
def execSumpApply (slot : Nat) (s : State) : Res :=
  match Assoc.find? s.veins slot with
  | none => .next s
  | some v =>
    match v.firstAppliable with
    | none => .next s
    | some u => if v.joining.isSome && !v.streamed then .next s else .next (s.applyUpdate slot v u)

/-- Apply held updates as long as one may be. -/
def State.sumpRun (s : State) (slot : Nat) : Nat → State
  | 0 => s
  | n + 1 =>
    match (Assoc.find? s.veins slot).bind fun v => (v.firstAppliable).map fun u => (v, u) with
    | some (v, u) => (s.applyUpdate slot v u).sumpRun slot n
    | none => s

/- ## Slots and the banksman (R315, R317) -/

/-- The banksman assigns a slot to a rank and grants it. -/
def State.grantSlot (s : State) (slot rank : Nat) : State :=
  match Assoc.find? s.veins slot with
  | none => s
  | some v =>
    let n := v.nextSlot
    let s1 := s.updVein slot fun w => { w with nextSlot := n + 1, assigned := w.assigned + 1, seenSlot := max w.seenSlot (n + 1) }
    let s2 := if rank = v.rank then { s1 with agenda := s1.agenda ++ [.slotGrant slot n] } else s1.send (.grant v.vsid rank n)
    (s2.assigned slot v).lagMark slot

/-- SLOT_REQUEST: the banksman assigns the next slot and grants it; another member forwards the request (R315, R317). In a
departure's freeze the request waits (R319). -/
def execSlotRequest (slot rank : Nat) (s : State) : Res :=
  match Assoc.find? s.veins slot with
  | none => .next s
  | some v =>
    if !v.frozen.isEmpty then .next (s.updVein slot fun w => { w with reqs := w.reqs ++ [rank] })
    else if v.banksman ≠ v.rank then .next (s.send (.slotReq v.vsid rank))
    else .next (s.grantSlot slot rank)

/-- Give a slot to the oldest operation that asked and has none. -/
def grantFirst (n : Nat) : List StrongOp → List StrongOp
  | [] => []
  | g :: gs => if g.requested ∧ g.slot.isNone then { g with slot := some n } :: gs else g :: grantFirst n gs

/-- SLOT_GRANT: the grant reaches the issuer; the operation is performed once every earlier slot is applied (R315). -/
def execSlotGrant (slot n : Nat) (s : State) : Res :=
  .next ((s.updVein slot fun w =>
    { w with strongs := grantFirst n w.strongs, seenSlot := max w.seenSlot (n + 1) }).slotSettle slot)

/-- SLOT_ACK: a member has applied the slot; the last acknowledgement completes the operation (R315). -/
def execSlotAck (slot n rank : Nat) (s : State) : Res :=
  .next ((s.updVein slot fun w =>
    { w with strongs := w.strongs.map fun (g : StrongOp) =>
        if g.slot = some n ∧ g.performed then { g with acks := g.acks.filter fun x => x != rank } else g }).strongFinish slot)

/-- HANDOVER_MARKER: the named successor assigns from the marker's number; a new ROTS and ROTT take effect (R317, R338). -/
def execHandoverMarker (slot n succ : Nat) (s : State) : Res :=
  .next ((s.updVein slot fun w => w.marked n succ s.clk.time).slotSettle slot)

/-- TIME has reached at least a due moment. -/
def State.timeTo (s : State) (due : Nat) : State := s.atLeast due

/-- BANKSMAN_ROTATION_TIMER: ROTT µs since this chip took the role (R317). -/
def execBanksmanRotationTimer (slot : Nat) (s : State) : Res :=
  match Assoc.find? s.veins slot with
  | none => .next s
  | some v =>
    if v.banksman = v.rank ∧ 1 < v.members.length then .next ((s.timeTo (v.bankSince + 1000 * v.rott)).rotate slot)
    else .next s

/- ## Sweeps (R323) -/

/-- SWEEP_MARKER_RECEIVE: at the banksman a sweep is asked for, which assigns the marker's slot as soon as it may (R323
step 1); at another member the marker of the next slot is applied. -/
def execSweepMarkerReceive (slot n : Nat) (s : State) : Res :=
  match Assoc.find? s.veins slot with
  | none => .next s
  | some v =>
    if v.sweep.isSome ∨ v.sweepSlot.isSome then .next s
    else if v.banksman = v.rank then .next (((s.updVein slot fun w => { w with sweepDue := true }).slotSettle slot).sweepCut slot)
    else if n ≠ v.applSlot then .next s
    else
      let s1 := s.updVein slot fun w => { w with applSlot := n + 1, seenSlot := max w.seenSlot (n + 1) }
      .next ((s1.sweepStart slot).sweepCut slot)

/-- READY_NOTICE_RECEIVE: a member's notice of the sweep; one that comes before the marker is kept (R323). -/
def execReadyNoticeReceive (slot rank seq : Nat) (s : State) : Res :=
  .next ((s.updVein slot fun w =>
    match w.sweep with
    | some ns => { w with sweep := some (ns.filter (fun n => n.1 != rank) ++ [(rank, seq)]) }
    | none => { w with early := w.early.filter (fun n => n.1 != rank) ++ [(rank, seq)] }).sweepCut slot)

/- ## Departures (R319, R320) -/

/-- The set is no longer of this chip: its strong operations are void, and the resident tasks of its ASID are
force-saved (R316, R322). -/
def State.dropSet (s : State) (slot : Nat) (v : VeinSet) : State :=
  let s1 := v.strongs.foldl (fun st g => st.strongEnd g (status Code.slotvoid ((v.epoch + 1) % 65536)))
    { s with veins := Assoc.del s.veins slot }
  let mine := fun (e : Nat × Task) => if e.2.asid = v.asid then (e.1, { e.2 with vein := true }) else e
  { s1 with tasks := s1.tasks.map mine, agenda := s1.agenda ++ (s1.tasks.filterMap fun e =>
      if e.2.asid = v.asid ∧ e.1 % 32 < 16 then some (.forceSave (e.1 / 32) (e.1 % 32)) else none) }

/-- The highest sequence of a rank that any survivor held or applied: an update of which a packet is missing is not held
(R319 step 3). -/
def cutOf (v : VeinSet) (us : List VUpdate) (d : Nat) : Nat :=
  maxOf (v.appl.getD d 0 :: (us.filterMap fun u => if u.rank = d ∧ u.whole then some u.seq else none))

/-- The slots that this member holds by a grant, or as banksman for a sweep's marker. -/
def VeinSet.grants (v : VeinSet) : List Nat := (v.strongs.filterMap fun g => g.slot) ++ v.sweepSlot.toList

/-- The slots below N of which no survivor holds the grant or the update (R319 step 3). -/
def voidSlots (v : VeinSet) (reports : List VReport) (us : List VUpdate) (n : Nat) : List Nat :=
  let held := v.grants ++ (reports.flatMap fun r => r.grants) ++
    (us.filterMap fun u => if u.kind = 0 ∨ !u.whole then none else some u.slot)
  (List.range' v.applSlot (n - v.applSlot)).filter fun x => !held.contains x

/-- The rank is one of those that run .evict waits for; the wait ends with the last (R338). -/
def State.evictDone (s : State) (slot : Nat) (ranks : List Nat) : State :=
  match Assoc.find? s.veins slot with
  | none => s
  | some v =>
    let left := v.evicts.map fun e => (e.1, e.2.1, e.2.2.filter fun x => !ranks.contains x)
    (left.filter fun e => e.2.2.isEmpty).foldl (fun st e => st.endEngine e.1.core e.1.slot e.2.1 (openStatus 118 Code.ok))
      (s.updVein slot fun w => { w with evicts := left.filter fun e => !e.2.2.isEmpty })

/-- The last handover marker that any survivor has seen: the one with the highest slot number (R324). -/
def lastMarker (v : VeinSet) (reports : List VReport) : Option (Nat × Nat) :=
  (v.marker :: reports.map fun r => r.marker).foldl (fun (b : Option (Nat × Nat)) m =>
    match b, m with
    | some x, some y => if x.1 ≤ y.1 then some y else some x
    | some x, none => some x
    | none, y => y) none

/-- The banksman as all survivors' markers together have it (R324). -/
def bankNow (v : VeinSet) (reports : List VReport) : Nat :=
  match lastMarker v reports with
  | some (_, succ) => succ
  | none => v.banksman

/-- The banksman after departures: the one that stays, the successor a marker names, or the next surviving rank (R319 step 3,
R324); and whether a banksman has been lost with its role. -/
def bankAfter (v : VeinSet) (reports : List VReport) (gone left : List Nat) : Nat × Bool :=
  let b := bankNow v reports
  if gone.contains b then (nextRank left b, true) else (b, false)

/-- The freeze has ended: what waited for it goes on, the slot requests among it (R319 step 7). -/
def State.thaw (s : State) (slot : Nat) : State :=
  match Assoc.find? s.veins slot with
  | none => s
  | some v =>
    if !v.frozen.isEmpty then s
    else
      let s1 := s.updVein slot fun w => { w with reqs := [] }
      (v.reqs.foldl (fun st r => if v.banksman = v.rank then st.grantSlot slot r else st.send (.slotReq v.vsid r)) s1).slotSettle slot

/-- The whole change of one or more departures at a survivor, from the exchange to the resume (R319, R324). -/
def State.depart (s : State) (slot : Nat) (v : VeinSet) (ranks : List Nat) (reports : List VReport) : State :=
  let gone := ranks.filter v.ranks.contains
  let mine := v.sump.filter fun u => u.whole || !gone.contains u.rank
  let us0 := mine ++ (reports.flatMap fun r => r.updates.filter fun u => !mine.contains u && decide (v.appl.getD u.rank 0 < u.seq)).dedup
  let n := maxOf (v.seenSlot :: reports.filterMap fun r => r.highSlot.map fun x => x + 1)
  let cuts := gone.map fun d => (d, maxOf (cutOf v us0 d :: reports.map fun r => r.appl.getD d 0))
  let us := us0.filter fun u => cuts.all fun c => c.1 != u.rank || decide (u.seq ≤ c.2)
  let left := v.ranks.filter fun x => !gone.contains x
  let bank := bankAfter v reports gone left
  let lostBank := bank.2
  let moved := bank.1 != v.banksman
  let epoch := (v.epoch + gone.length) % 65536
  let voided := v.strongs.filter fun g => lostBank && g.requested && g.slot.isNone
  let w1 : VeinSet := { v with
    members := v.members.filter fun m => !gone.contains m.1
    epoch := epoch
    banksman := bank.1
    nextSlot := if moved then max n ((lastMarker v reports).elim 0 fun m => m.1) else v.nextSlot
    assigned := 0, bankSince := s.clk.time
    sump := us
    seenSlot := n
    marker := if lostBank then some (n, bank.1) else lastMarker v reports
    voids := v.voids ++ (voidSlots v reports us n).filter fun x => !v.voids.contains x
    cuts := v.cuts ++ cuts
    strongs := (v.strongs.filter fun g => !(lostBank && g.requested && g.slot.isNone)).map fun (g : StrongOp) =>
      { g with acks := g.acks.filter (fun x => !gone.contains x), requested := g.requested && (g.slot.isSome || !gone.contains v.banksman) }
    sweep := v.sweep.map fun ns => ns.filter fun x => !gone.contains x.1
    early := v.early.filter fun x => !gone.contains x.1
    frozen := v.frozen.filter fun x => !gone.contains x
    reqs := v.reqs.filter fun x => !gone.contains x
    joinsOpen := v.joinsOpen.filter fun x => !gone.contains x
    past := v.past.filter fun u => u.kind == 0 && !gone.contains u.rank }
  let s1 := { s with veins := Assoc.put s.veins slot w1.zeroGone }
  let s2 := voided.foldl (fun st g => st.strongEnd g (status Code.slotvoid epoch)) s1
  let s3 := ((s2.slotSettle slot).sumpRun slot us.length).sweepCut slot
  ((s3.requestHeld slot).evictDone slot gone).thaw slot

/-- Another member has left in order: its message comes behind every update of it, and it has collected what it awaited. It is no
member any more, and none awaits its acknowledgements or its notice (R310, R318). -/
def State.leaveLearn (s : State) (vsid rank : Nat) : State :=
  match s.veins.find? fun e => e.2.vsid == vsid with
  | none => s
  | some (slot, v) =>
    if !v.ranks.contains rank ∨ rank = v.rank then s
    else
      let not := fun (x : Nat) => x != rank
      let w1 : VeinSet := { v with
        members := v.members.filter fun m => not m.1
        epoch := (v.epoch + 1) % 65536
        cuts := v.cuts ++ [(rank, cutOf v v.sump rank)]
        strongs := v.strongs.map fun (g : StrongOp) => { g with acks := g.acks.filter not }
        sweep := v.sweep.map fun ns => ns.filter fun x => not x.1
        early := v.early.filter fun x => not x.1
        frozen := v.frozen.filter not, reqs := v.reqs.filter not, joinsOpen := v.joinsOpen.filter not }
      let s1 := ({ s with veins := Assoc.put s.veins slot w1.zeroGone }).slotSettle slot
      (((s1.sumpRun slot w1.sump.length).sweepCut slot).evictDone slot [rank]).thaw slot

/-- A joiner has become a full member (R321): what waited for its join goes on (R324; log entry 98). -/
def State.joinedLearn (s : State) (vsid rank : Nat) : State :=
  match s.veins.find? fun e => e.2.vsid == vsid with
  | some (slot, _) => (s.updVein slot fun w => { w with joinsOpen := w.joinsOpen.filter fun x => x != rank }).slotSettle slot
  | none => s

/-- MEMBER_DEPARTURE: at a survivor the change of R319 with what the others report; on the departing chip the set is
dropped (R322). -/
def execMemberDeparture (slot : Nat) (ranks : List Nat) (reports : List VReport) (s : State) : Res :=
  match Assoc.find? s.veins slot with
  | none => .next s
  | some v => if ranks.contains v.rank then .next (s.dropSet slot v) else .next (s.depart slot v ranks reports)

/-- What a survivor reports and forwards: its applied vector, the highest slot number it has seen, the grants it holds, and
every update of a departing rank and every strong one that it holds or has applied (R319 step 2). -/
def VeinSet.report (v : VeinSet) (ranks : List Nat) : VReport :=
  { rank := v.rank, appl := v.appl, highSlot := if v.seenSlot = 0 then none else some (v.seenSlot - 1)
    grants := v.grants
    marker := v.marker
    updates := (v.past ++ v.sump).filter fun u => u.whole && (ranks.contains u.rank || u.kind != 0) }

/-- Begin the departure of members at a survivor: the freeze, and its report to the others; with no other survivor it is
decided here (R319 steps 1 and 2). -/
def State.beginDepart (s : State) (slot : Nat) (v : VeinSet) (ranks : List Nat) : State :=
  let new := (ranks.filter fun x => !v.frozen.contains x).dedup
  let s1 := s.updVein slot fun w => { w with frozen := w.frozen ++ new }
  if v.ranks.any fun x => x != v.rank && !ranks.contains x then
    (s1.send (.freeze v.vsid ranks)).send (.report v.vsid (v.report ranks))
  else { s1 with agenda := s1.agenda ++ [.memberDeparture slot ranks []] }

/-- A survivor learns that a departure has begun (R319): it freezes and reports, once. -/
def State.freezeLearn (s : State) (vsid : Nat) (ranks : List Nat) : State :=
  match s.veins.find? fun e => e.2.vsid == vsid with
  | none => s
  | some (slot, v) =>
    let new := ranks.filter fun x => v.ranks.contains x && x != v.rank && !v.frozen.contains x
    if new.isEmpty ∨ v.forming.isSome ∨ v.joining.isSome then s
    else
      let s1 := s.updVein slot fun w => { w with frozen := w.frozen ++ new.dedup }
      s1.send (.report vsid (v.report (v.frozen ++ new)))

/-- LAG_EVICTION_TIMEOUT: a member has lagged for more than 1 ms: the banksman, or the member after it, evicts it
(R322). -/
def execLagEvictionTimeout (slot rank : Nat) (s : State) : Res :=
  match Assoc.find? s.veins slot with
  | none => .next s
  | some v =>
    let evictor := if v.banksman = rank then nextRank (v.ranks.filter fun x => x != rank) rank else v.banksman
    if rank = v.rank then
      (match v.lagSince with
       | some t0 =>
         if 1 < v.members.length then .next ((s.timeTo (t0 + 1000001)).send (.lag v.vsid v.rank)) else .next s
       | none => .next s)
    else if v.rank = evictor ∧ v.ranks.contains rank then .next (s.beginDepart slot v [rank])
    else .next s

/- ## Joining (R321) -/

/-- JOIN_STREAM_COMPLETE: on the joining chip the sponsor's stream has come, and VMEMB .join completes when the updates held
at its end are applied; on a member the joiner becomes a member, after a sweep that is under way (R318, R321, R324). -/
def execJoinStreamComplete (slot : Nat) (j : VJoin) (s : State) : Res :=
  match Assoc.find? s.veins slot with
  | none => .next s
  | some v =>
    match v.joining with
    | some (r, op) =>
      if v.streamed then .next s
      else if j.code ≠ 0 then
        .next (({ s with veins := Assoc.del s.veins slot }).endEngine r.core r.slot op (status j.code j.detail))
      else
        let held := v.sump.filter fun u => decide (u.wg ≠ j.wg ∨ j.appl.getD u.rank 0 < u.seq) && (j.members.any fun m => m.1 == u.rank)
        let w1 : VeinSet := { v with
          members := j.members, epoch := j.epoch, banksman := j.banksman, nextSlot := j.nextSlot, applSlot := j.applSlot,
          seenSlot := max v.seenSlot j.applSlot, rots := j.rots, rott := j.rott, wg := j.wg, bankSince := s.clk.time,
          appl := j.appl
          stamps := j.stamps.foldl (fun m e => Assoc.setD m 0 e.1 e.2) []
          sump := held
          streamed := true
          mustApply := (held.filter fun u => u.wg == j.wg).map fun u => (u.rank, u.seq) }
        let s1 := j.cells.foldl (fun st e => st.poke (veinKey slot e.1) [e.2]) { s with veins := Assoc.put s.veins slot w1 }
        .next ((s1.sumpRun slot w1.sump.length).slotSettle slot)
    | none =>
      if j.code ≠ 0 then .next s
      else if v.sweep.isSome ∨ v.sweepSlot.isSome ∨ !v.frozen.isEmpty ∨ s.fab.reconf.isSome then
        .next (s.updVein slot fun w => { w with joinsDue := w.joinsDue ++ [j] })
      else .next (s.admitJoin slot j)

/-- 10 ms in nanoseconds: the time in which every member must run .form (R338). -/
def formNs : Nat := 10000000

/-- A member's notice that it has run .form arrives (R338). -/
def State.formLearn (s : State) (vsid rank : Nat) (desc : List Byte) : State :=
  let s1 := { s with fab := { s.fab with
    forms := (s.fab.forms.filter fun (x : Nat × Nat × Nat × List Byte) => !(x.1 == vsid && x.2.1 == rank)) ++ [(vsid, rank, s.clk.time, desc)] } }
  match s1.veins.find? fun (e : Nat × VeinSet) => e.2.vsid == vsid with
  | some (slot, _) => s1.formTry slot
  | none => s1

/-- A member has set ROTS and ROTT: they take effect at the next handover (R338). -/
def State.rotLearn (s : State) (vsid rots rott : Nat) : State :=
  match s.veins.find? fun e => e.2.vsid == vsid with
  | some (slot, _) => s.updVein slot fun w => { w with newRot := some (rots, rott) }
  | none => s

/-- FORM_TIMEOUT: 10 ms after the first .form with a member missing: UNREACH (R338). -/
def execFormTimeout (slot : Nat) (s : State) : Res :=
  match Assoc.find? s.veins slot with
  | none => .next s
  | some v =>
    match v.forming with
    | none => .next s
    | some (t0, r, op) =>
      let s1 := s.timeTo (t0 + formNs)
      .next (({ s1 with
        veins := Assoc.del s1.veins slot
        fab := { s1.fab with forms := s1.fab.forms.filter fun x => x.1 != v.vsid } }).endEngine r.core r.slot op (openStatus 118 Code.unreach))

/- ## VMEMB (R336 to R339) -/

/-- Bytes of chip-local memory in a task's context, its version over them; none where a byte is elsewhere or the
address is misaligned (R337, R423). -/
def State.localBytes (s : State) (k : Task) (va n : Nat) : Option (List Byte) :=
  if va % 8 ≠ 0 then none
  else
    (List.range (n / 8)).foldl (fun acc i =>
      match acc, s.translate k.asid (va + 8 * i) .r with
      | some bs, .ok key 0 _ => if s.homeOf key = .own then some (bs ++ k.bytes s key 8) else none
      | _, _ => none) (some [])

/-- The earlier stores of the active threads have been performed: the agent reads what the program wrote. -/
def storesQuiet (_ : State) (_ : Task) (_ : Run) (acts : List (Nat × Thread)) : Bool :=
  acts.all fun e => !(e.2.ops.any Op.openStore)

/-- A segment's base and length (R308, R337): the first bad field. -/
def segBad (segb segl : Nat) : Option Nat :=
  if segb % 2 ^ 30 ≠ 0 ∨ vaTop ≤ segb then some 0
  else if segl % 2 ^ 30 ≠ 0 ∨ segl = 0 ∨ 64 * 2 ^ 30 < segl ∨ privBase < segb + segl then some 8
  else none

/-- Bytes of HBM that the chip's segments and stamp arrays take (R308). -/
def State.veinBytes (s : State) : Nat := (s.veins.map fun e => e.2.segl + e.2.segl / 8).sum

/-- The first bad field of a descriptor for .form (R337, R338). -/
def formBad (s : State) (slot : Nat) (f : Nat → Nat → Nat) : Option Nat :=
  let memb := f 0x16 2
  let rank := f 0x14 1
  let inMemb := fun i => memb.testBit i
  let chips := (List.range 16).find? fun i => if inMemb i then decide (2 ^ 13 ≤ f (0x20 + 2 * i) 2) ||
    (i == rank && f (0x20 + 2 * i) 2 != s.chip.toNat) else f (0x20 + 2 * i) 2 != 0
  let incs := (List.range 16).find? fun i => !inMemb i && f (0x40 + 2 * i) 2 != 0
  match segBad (f 0 8) (f 8 8) with
  | some d => some d
  | none =>
    if (Assoc.find? s.veins slot).isSome ∨ 96 * 2 ^ 30 < s.veinBytes + f 8 8 + f 8 8 / 8 then some 8
    else if s.veins.any fun e => e.2.vsid == f 0x10 2 then some 0x10
    else if s.veins.any fun e => e.2.asid == f 0x12 2 then some 0x12
    else if 16 ≤ rank ∨ !inMemb rank then some 0x14
    else if 16 ≤ f 0x15 1 ∨ !inMemb (f 0x15 1) then some 0x15
    else if f 0x18 2 = 0 ∨ 1024 < f 0x18 2 then some 0x18
    else if f 0x1A 2 = 0 ∨ 50 < f 0x1A 2 then some 0x1A
    else if f 0x1C 4 ≠ 0 then some 0x1C
    else
      match chips, incs with
      | some i, _ => some (0x20 + 2 * i)
      | none, some i => some (0x40 + 2 * i)
      | none, none => ((List.range 4).find? fun i => f (0x60 + 8 * i) 8 != 0).map fun i => 0x60 + 8 * i

/-- The first bad field of a descriptor for .join (R337). -/
def joinBad (s : State) (slot : Nat) (f : Nat → Nat → Nat) : Option Nat :=
  match segBad (f 0 8) (f 8 8) with
  | some d => some d
  | none =>
    if (Assoc.find? s.veins slot).isSome ∨ 96 * 2 ^ 30 < s.veinBytes + f 8 8 + f 8 8 / 8 then some 8
    else if s.veins.any fun e => e.2.vsid == f 0x10 2 then some 0x10
    else if s.veins.any fun e => e.2.asid == f 0x12 2 then some 0x12
    else if 16 ≤ f 0x14 1 then some 0x14
    else if f 0x15 1 ≠ 0 then some 0x15
    else if f 0x16 2 ≠ 0 then some 0x16
    else ((List.range 13).find? fun i => f (0x18 + 8 * i) 8 != 0).map fun i => 0x18 + 8 * i

/-- The first bad field of a descriptor that names a set the chip is in: memb and rot tell which fields are used. -/
def namedBad (v? : Option VeinSet) (f : Nat → Nat → Nat) (memb rot : Bool) : Option Nat :=
  match v? with
  | none => some 0x10
  | some v =>
    if f 0 8 ≠ v.segb then some 0
    else if f 8 8 ≠ v.segl then some 8
    else if f 0x10 2 ≠ v.vsid then some 0x10
    else if f 0x12 2 ≠ v.asid then some 0x12
    else if f 0x14 1 ≠ 0 then some 0x14
    else if f 0x15 1 ≠ 0 then some 0x15
    else if !memb ∧ f 0x16 2 ≠ 0 then some 0x16
    else if (if rot then f 0x18 2 = 0 ∨ 1024 < f 0x18 2 else f 0x18 2 ≠ 0) then some 0x18
    else if (if rot then f 0x1A 2 = 0 ∨ 50 < f 0x1A 2 else f 0x1A 2 ≠ 0) then some 0x1A
    else if f 0x1C 4 ≠ 0 then some 0x1C
    else ((List.range 12).find? fun i => f (0x20 + 8 * i) 8 != 0).map fun i => 0x20 + 8 * i

/-- A VMEMB with a descriptor: its address is checked, then its fields; an operation that goes on waits under the
identifier g gives it, D pending (R338, R339). -/
def vmembBody (i : Instr) (d a : Opnd) (bad : State → (Nat → Nat → Nat) → Option Nat)
    (go : (Nat → Nat → Nat) → Nat → Ctx → State → State × Option Word) (x : Ctx) (st : State) : Out :=
  match st.localBytes x.k (x.d a).toNat 128 with
  | none => .trap .engine 26 0 0
  | some bs =>
    let f := rdBytes bs
    match bad st f with
    | some e => putStatus x st d (status Code.baddesc e)
    | none =>
      let (id, st1) := st.fresh
      let e := go f id x st1
      match e.2 with
      | some w => putStatus x e.1 d w
      | none => .ok (e.1.addOp x.r (mkOp id i x.t.pc true (.engine [d])))

/-- A new set of this chip: every byte of the segment and every stamp is zero, and no L1 keeps a line of a set before it
(R309). -/
def State.newSet (s : State) (slot : Nat) (v : VeinSet) : State :=
  let lo := veinKey slot 0
  { s.l1Purge lo (2 ^ 57) with
    veins := Assoc.put s.veins slot v
    mem := s.mem.filter fun e => !(decide (lo ≤ e.1) && decide (e.1 < lo + 2 ^ 57))
    poison := s.poison.filter fun e => !(decide (lo ≤ e.1 * 8) && decide (e.1 * 8 < lo + 2 ^ 57)) }

/-- The set a descriptor describes. -/
def VeinSet.make (f : Nat → Nat → Nat) (members : List (Nat × Nat × Nat × Nat)) (now : Nat) : VeinSet :=
  { vsid := f 0x10 2, asid := f 0x12 2, segb := f 0 8, segl := f 8 8, rank := f 0x14 1, members := members, epoch := 0,
    banksman := f 0x15 1, assigned := 0, bankSince := now, nextSlot := 0, rots := f 0x18 2, rott := f 0x1A 2, newRot := none,
    appl := List.replicate 16 0, stamps := [], wg := false, sump := [], applSlot := 0, seenSlot := 0, voids := [],
    strongs := [], lagSince := none, sweep := none, cuts := [], early := [], sweepDue := false, sweepSlot := none, frozen := [],
    reqs := [], marker := none, past := [], leaving := none, joinsDue := [], forming := none, desc := [], formed := [],
    joining := none, joinsOpen := [], streamed := false, mustApply := [], evicts := [] }

/-- The members a descriptor of .form names. -/
def formMembers (f : Nat → Nat → Nat) : List (Nat × Nat × Nat × Nat) :=
  (List.range 16).filterMap fun i =>
    if (f 0x16 2).testBit i then some (i, f (0x20 + 2 * i) 2, f (0x40 + 2 * i) 2, 0) else none

/-- A rank whose incarnation is not current (R338). -/
def State.staleRank (s : State) (ms : List (Nat × Nat × Nat × Nat)) : Option Nat :=
  (ms.find? fun m =>
    if m.2.1 = s.chip.toNat then m.2.2.1 != s.inc.toNat
    else match Assoc.find? s.fab.peers m.2.1 with
      | some p => m.2.2.1 != p.inc
      | none => false).map fun m => m.1

/-- The descriptor of a .form, RANK apart, as members compare it (R338). -/
def formDesc (f : Nat → Nat → Nat) : List Byte := (List.range 128).map fun i => BitVec.ofNat 8 (if i = 0x14 then 0 else f i 1)

/-- VMEMB .form. -/
def execVmembForm (h : Hdr) (d a : Opnd) (slot : Nat) (s : State) : Res :=
  .next (issueWith (.vmembForm h d a slot) storesQuiet
    (vmembBody (.vmembForm h d a slot) d a (fun st f => formBad st slot f) fun f id x st =>
      let ms := formMembers f
      match st.staleRank ms with
      | some r => (st, some (status Code.staleinc r))
      | none =>
        let v := VeinSet.make f ms st.clk.time
        if ms.length = 1 then (st.newSet slot v, some (openStatus 118 Code.ok))
        else
          let notes := st.fab.forms.filter fun n => n.1 != v.vsid || decide (st.clk.time ≤ n.2.2.1 + formNs)
          let first := (notes.filter fun n => n.1 == v.vsid).foldl (fun t n => min t n.2.2.1) st.clk.time
          let desc := formDesc f
          let st1 := { st with fab := { st.fab with forms := notes } }
          (((st1.newSet slot { v with forming := some (first, x.r, id), desc := desc, formed := [v.rank] }).send (.form v.vsid v.rank desc)), none)) s)

/-- VMEMB .join. -/
def execVmembJoin (h : Hdr) (d a : Opnd) (slot : Nat) (s : State) : Res :=
  .next (issueWith (.vmembJoin h d a slot) storesQuiet
    (vmembBody (.vmembJoin h d a slot) d a (fun st f => joinBad st slot f) fun f id x st =>
      let v := VeinSet.make f [] st.clk.time
      ((st.newSet slot { v with joining := some (x.r, id), rots := 1024, rott := 50 }).send (.joinAsk v.vsid v.rank st.chip.toNat st.inc.toNat), none)) s)

/-- VMEMB .leave: the role is handed over, every acknowledgement is collected, and the set is no longer of this chip (R318). -/
def execVmembLeave (h : Hdr) (d a : Opnd) (slot : Nat) (s : State) : Res :=
  .next (issueWith (.vmembLeave h d a slot) storesQuiet
    (vmembBody (.vmembLeave h d a slot) d a (fun st f => namedBad (Assoc.find? st.veins slot) f false false) fun f id x st =>
      if st.tasks.any fun e => e.2.asid == f 0x12 2 && decide (e.1 % 32 < 16) then (st, some (status Code.baddesc 1))
      else
        match Assoc.find? st.veins slot with
        | none => (st, some (status Code.baddesc 0x10))
        | some v =>
          if v.strongs.isEmpty && v.frozen.isEmpty && v.sweep.isNone && v.sweepSlot.isNone then
            (let st1 := (st.rotate slot).send (.leave v.vsid v.rank)
             ({ st1 with veins := Assoc.del st1.veins slot }, some (openStatus 118 Code.ok)))
          else (st.updVein slot fun w => { w with leaving := some (x.r, id) }, none)) s)

/-- VMEMB .evict. -/
def execVmembEvict (h : Hdr) (d a : Opnd) (slot : Nat) (s : State) : Res :=
  .next (issueWith (.vmembEvict h d a slot) storesQuiet
    (vmembBody (.vmembEvict h d a slot) d a (fun st f => namedBad (Assoc.find? st.veins slot) f true false) fun f id x st =>
      match Assoc.find? st.veins slot with
      | none => (st, some (status Code.baddesc 0x10))
      | some v =>
        let gone := v.ranks.filter fun r => (f 0x16 2).testBit r
        if gone = [] ∨ gone.contains v.rank then (st, some (status Code.baddesc 2))
        else
          ((st.updVein slot fun w => { w with evicts := w.evicts ++ [(x.r, id, gone)] }).beginDepart slot v gone, none)) s)

/-- The state word of a set (R338). -/
def VeinSet.queryWord (v : VeinSet) : Nat :=
  ((v.ranks.map fun r => 2 ^ r).sum) % 2 ^ 16 + v.banksman % 16 * 2 ^ 16 + (if v.lagging then 2 ^ 20 else 0) +
    (if v.sweep.isSome then 2 ^ 21 else 0)

/-- VMEMB .query. -/
def execVmembQuery (h : Hdr) (d : Opnd) (slot : Nat) (s : State) : Res :=
  .next (issue (.vmembQuery h d slot) (fun x st =>
    putStatus x st d (match Assoc.find? st.veins slot with
      | some v => if v.forming.isSome || v.joining.isSome then openStatus 118 Code.absent else status Code.ok v.queryWord
      | none => openStatus 118 Code.absent)) s)

/-- VMEMB .rot: the new ROTS and ROTT take effect at the next handover. -/
def execVmembRot (h : Hdr) (d a : Opnd) (slot : Nat) (s : State) : Res :=
  .next (issueWith (.vmembRot h d a slot) storesQuiet
    (vmembBody (.vmembRot h d a slot) d a (fun st f => namedBad (Assoc.find? st.veins slot) f false true) fun f _ _ st =>
      ((st.updVein slot fun w => { w with newRot := some (f 0x18 2, f 0x1A 2) }).send (.rot (f 0x10 2) (f 0x18 2) (f 0x1A 2)),
        some (openStatus 118 Code.ok))) s)

end Machine
end Sys2Proof
end

