-- ==== Sys2Proof/Machine/Assay.lean ====
section
/-! DEFINITION. Assay regions: names, counts, reclaim and roots (R340 to R353), and ALOOK, ANAME, AREF, ALD, ASWAP, AOUT
and ASTAT (R356 to R366); and the completion of every copy (R262, R264). -/

namespace Sys2Proof
namespace Machine

/- ## Regions, lines and names -/

/-- The enabled region bound to an ASID (R340). -/
def State.regionOf (s : State) (asid : Nat) : Option Nat :=
  [0, 1, 2, 3].find? fun n => acfgEn (s.acfg n) && acfgAsid (s.acfg n) == asid

/-- An empty region (R343). -/
def Region.reset : Region := { lines := [], roots := [], collide := 0 }

/-- The contents of a region. -/
def State.region (s : State) (n : Nat) : Region := Assoc.getD s.regions Region.reset n

/-- Replace them. -/
def State.setRegion (s : State) (n : Nat) (x : Region) : State := { s with regions := Assoc.setD s.regions Region.reset n x }

/-- The lines of a region (R340). -/
def State.capacity (s : State) (n : Nat) : Nat := acfgBytes (s.acfg n) / 256

/-- ROOTN and ROOTB (R342). -/
def State.rootN (s : State) (n : Nat) : Nat := fld (Assoc.getD s.regs.aroot 0 n).toNat 16 17
def State.rootB (s : State) (n : Nat) : Nat := fld (Assoc.getD s.regs.aroot 0 n).toNat 0 16

/-- The salt of a region (R342). -/
def State.salt (s : State) (n : Nat) : List Byte :=
  (List.range 4).flatMap fun j => leBytes 8 (Assoc.getD s.regs.asalt 0 (4 * n + j)).toNat

/-- The name of 256 bytes (R345). -/
def State.nameOf (s : State) (n : Nat) (c : List Byte) : Nat := leNat ((Sm3.digest (s.salt n ++ c)).take 16)

/-- The live line of a name; the null name names none (R345, R350). -/
def Region.find (g : Region) (name : Nat) : Option (Nat × ALine) :=
  if name = 0 then none else g.lines.find? fun e => e.2.live && e.2.name == name

/-- The bytes of a line. -/
def State.lineBytes (s : State) (n line : Nat) : List Byte := s.peek (assayKey n (256 * line)) 256

/-- The 8-byte words of a line that are poisoned. -/
def State.linePoisons (s : State) (n line : Nat) : List Nat :=
  (List.range 32).filter fun i => s.poisoned (assayKey n (256 * line) + 8 * i) 8

/-- A line holds poisoned data. -/
def State.linePoison (s : State) (n line : Nat) : Bool := s.poisoned (assayKey n (256 * line)) 256

/-- The names a node's bytes hold (R347). -/
def childNames (bs : List Byte) : List Nat := (List.range 16).map fun i => leNat ((bs.drop (16 * i)).take 16)

/-- The lines of the non-null children of a node, with repetition. -/
def Region.children (g : Region) (bs : List Byte) : List Nat :=
  (childNames bs).filterMap fun c => (g.find c).map fun e => e.1

/-- A count at its limit (R349). -/
def satCount : Nat := 2 ^ 32 - 1

/-- What a count change marks (R349). -/
inductive Mark where
  | none
  | sat
  | under
  deriving DecidableEq, Repr

/-- The more telling of two marks: a mark of either. -/
def Mark.or (a b : Mark) : Mark := if a = .none then b else a

/-- Inc(L, n) (R349). -/
def Region.inc (g : Region) (line n : Nat) : Region × Mark :=
  match Assoc.find? g.lines line with
  | some l =>
    let c := min (l.count + n) satCount
    ({ g with lines := Assoc.put g.lines line { l with count := c } }, if c = satCount then .sat else .none)
  | none => (g, .none)

/-- Inc(L, 1) of each of a list of lines, in order. -/
def Region.incAll (g : Region) : List Nat → Region × Mark
  | [] => (g, .none)
  | l :: ls => let e := g.inc l 1; let r := e.1.incAll ls; (r.1, e.2.or r.2)

/-- Dec(L, n) (R349): at zero the line leaves the index in the same step (R350). -/
def State.dec (s : State) (reg line n : Nat) : State × Mark :=
  let g := s.region reg
  match Assoc.find? g.lines line with
  | none => (s, .none)
  | some l =>
    if l.count = satCount then (s, .sat)
    else if l.count < n then (s, .under)
    else if l.count - n = 0 then
      let kids := if l.node then g.children (s.lineBytes reg line) else []
      (s.setRegion reg { g with lines := Assoc.put g.lines line { l with count := 0, live := false, kids := kids } }, .none)
    else (s.setRegion reg { g with lines := Assoc.put g.lines line { l with count := l.count - n } }, .none)

/-- ASSAY_RECLAIM_STEP: one step of a reclaiming line: a child's Dec, or the zeroing and freeing (R350). -/
def execAssayReclaimStep (n line : Nat) (s : State) : Res :=
  let g := s.region n
  match Assoc.find? g.lines line with
  | none => .next s
  | some l =>
    if l.live then .next s
    else
      match l.kids with
      | kid :: rest =>
        let s1 := s.setRegion n { g with lines := Assoc.put g.lines line { l with kids := rest } }
        .next (s1.dec n kid 1).1
      | [] =>
        let s1 := s.pokeCoh (assayKey n (256 * line)) (List.replicate 256 0)
        .next (s1.setRegion n { g with lines := Assoc.del g.lines line })

/-- A free line of a region: the first from a start that R357 leaves open (log entry 6). -/
def State.freeLine (s : State) (n : Nat) : Option (Nat × State) :=
  let g := s.region n
  let cap := s.capacity n
  if cap ≤ g.lines.length then none
  else
    let (f, s1) := s.useFree
    ((List.range (g.lines.length + 1)).map fun i => (Config.lineChoice f + i) % cap).find? (fun l => (Assoc.find? g.lines l).isNone) |>.map
      fun l => (l, s1)

/- ## The look-up (R357, R358) -/

/-- A live line that has the name but not these bytes, or poisoned ones: the DETAIL of COLLIDE. -/
def State.lineDiffers (s : State) (n : Nat) (e : Nat × ALine) (bs : List Byte) (node : Bool) : Option Nat :=
  if s.linePoison n e.1 then some 2
  else if s.lineBytes n e.1 ≠ bs ∨ e.2.node ≠ node then some 0
  else none

/-- The lowest child that is not null and not live (R357). -/
def Region.missingChild (g : Region) (bs : List Byte) : Option Nat :=
  ((childNames bs).zipIdx.find? fun e => e.1 != 0 && (g.find e.1).isNone).map fun e => e.2

/-- The outcome COLLIDE raises the region's count (R357, R365). -/
def State.collided (s : State) (n detail : Nat) : State × Word :=
  let g := s.region n
  (s.setRegion n { g with collide := min (g.collide + 1) satCount }, status Code.collide detail)

/-- The atomic step of ALOOK at the index home of the name nm of the bytes (R357): none where it waits for lines being
reclaimed. -/
def State.alookAt (s : State) (n : Nat) (node : Bool) (nm : Nat) (bs : List Byte) : Option (State × Word) :=
  let g := s.region n
  let kindBit := if node then 2 else 0
  if nm = 0 then some (s.collided n 1)
  else
    match g.find nm with
    | some e =>
      (match s.lineDiffers n e bs node with
       | some d => some (s.collided n d)
       | none =>
         let r := g.inc e.1 1
         some (s.setRegion n r.1, status (if r.2 = .none then Code.ok else Code.refsat) kindBit))
    | none =>
      match (if node then g.missingChild bs else none) with
      | some i => some (s, status Code.absent i)
      | none =>
        match s.freeLine n with
        | none => if g.lines.any fun e => !e.2.live then none else some (s, status Code.absent 0x010000)
        | some (l, s1) =>
          let r := if node then g.incAll (g.children bs) else (g, .none)
          let line : ALine := { name := nm, node := node, count := 1, live := true, kids := [] }
          let s2 := (s1.poke (assayKey n (256 * l)) bs).l1Purge (assayKey n (256 * l)) 256
          some (s2.setRegion n { r.1 with lines := Assoc.put r.1.lines l line },
            status (if r.2 = .none then Code.ok else Code.refsat) (kindBit + 1))

/-- The step of ALOOK for the bytes it has read (R357). -/
def State.alookStep (s : State) (n : Nat) (node : Bool) (bs : List Byte) : Option (State × Word) := s.alookAt n node (s.nameOf n bs) bs

/-- The status of ANAME (R358). -/
def State.anameStatus (s : State) (n : Nat) (node : Bool) (bs : List Byte) : Word :=
  let nm := s.nameOf n bs
  if nm = 0 then status Code.collide 1
  else
    match (s.region n).find nm with
    | none => status Code.absent 0
    | some e =>
      match s.lineDiffers n e bs node with
      | some d => status Code.collide d
      | none => status Code.ok (min e.2.count 0xFFFFFF)

/- ## Issue of ALOOK, ANAME and AOUT (R354, R359, R364) -/

/-- The memory operand's check at issue (R359). -/
def assayBad (k : Task) (va : Nat) (qs : QSide) : Option Nat :=
  match QSide.q? qs with
  | some q =>
    let b := k.q q
    if b.cnt = 0 then some 0x010000
    else if 256 % (b.esz * 32) ≠ 0 ∨ b.cnt < 256 / (b.esz * 32) then some 0x010001
    else none
  | none => if va % 32 ≠ 0 then some 0 else if badRange k ((va : Int), (va : Int) + 256) then some 1 else none

/-- The entries of Q that 256 bytes take. -/
def assayEntries (k : Task) (qs : QSide) : Nat :=
  match QSide.q? qs with
  | some q => 256 / max 1 ((k.q q).esz * 32)
  | none => 0

/-- The address of the memory operand; zero where a skip buffer stands for it. -/
def assayAddr (x : Ctx) (a : Opnd) (qs : QSide) : Nat := if (QSide.q? qs).isSome then 0 else (x.d a).toNat

/-- The well-formed operations of a group, thread and entries, in ascending home lane. -/
def assayCopies (st : State) (k : Task) (q : Run) (acts : List (Nat × Thread)) (a : Opnd) (qs : QSide) : List (Nat × Nat) :=
  acts.filterMap fun e =>
    if (assayBad k (assayAddr (st.ctx k q e.1 e.2) a qs) qs).isNone then some (e.1, assayEntries k qs) else none

/-- What a load waits for at its performance, of a word that reads at its issue: the thread's earlier acquires are performed,
and its ALOOK has ended (R225, R354). -/
def State.mayRead (s : State) (k : Task) (q : Run) (e : Nat × Thread) : Bool :=
  !(e.2.ops.any Op.openAcq) && !s.alookBefore q.core k.uid e.1 s.nextId

/-- The word may issue (R212, R259, R354): its buffer can serve it; full tells an operation ordered as an atomic of ORD
ar and scope chip, glob one that commits for a global destination. -/
def assayPre (a : Opnd) (qs : QSide) (full glob : Bool) (st : State) (k : Task) (q : Run) (acts : List (Nat × Thread)) : Bool :=
  let ok := assayCopies st k q acts a qs
  (match qs with
   | .none => true
   | .to n => ok.isEmpty || ((firstWaiting (k.q n).resv).isNone && decide ((served (k.q n).cnt ok 0).2 ≤ (k.q n).room))
   | .from n => ok.isEmpty || ((firstWaiting (k.q n).take).isNone && decide ((served (k.q n).cnt ok 0).2 ≤ (k.q n).avail))) &&
  acts.all fun e =>
    let va := assayAddr (st.ctx k q e.1 e.2) a qs
    st.mayRead k q e && if full then st.mayCommit k e.2 && !(e.2.ops.any Op.openAcc)
    else !(glob && (QSide.q? qs).isNone && decide (va < privBase)) || st.mayCommit k e.2

/-- The thread is among those the buffer serves (R259). -/
def assayServed (x : Ctx) (h : Hdr) (a : Opnd) (qs : QSide) : Bool :=
  match x.s.curRun, QSide.q? qs with
  | some (_, q), some n =>
    let acts := (x.s.live q).filter fun e => e.2.active h
    (served (x.k.q n).cnt (assayCopies x.s x.k q acts a qs) 0).1.contains x.r.thr
  | _, _ => true

/-- A copy operation of the assay: 256 bytes from or to an address or a buffer's entries. -/
def assayOp (x : Ctx) (k : Task) (id : Nat) (d : Opnd) (va : Nat) (qs : QSide) : CopyOp :=
  let moves := match qs with
    | .none => [(va, va, 256)]
    | .to q => packRows (k.q q) (k.q q).rsv.toNat [(0, 256)] 0
    | .from q => (packRows (k.q q) (k.q q).crs.toNat [(0, 256)] 0).map fun m => (m.2.1, m.1, m.2.2)
  let rng := scratchRange ((va : Int), (va : Int) + 256)
  { id := id, uid := k.uid, slot := x.r.slot, thr := x.r.thr, pc := x.t.pc, d := d, moves := moves, gather := none, total := 256,
    bar := none, qsrc := (match qs with | .from q => some q | _ => none), qdst := (match qs with | .to q => some q | _ => none),
    src := none, dst := (match qs with | .to _ => none | _ => rng), globDst := false, ro := false, aout := none,
    alook := none, ticket := none, list := none, hint := 0, order := 0, rows := [], moved := 0, dirt := false, row := none, bad := [], done := none, again := false, tile := none }

/-- Enter an operation into a copy slot, its entries reserved or taken (R234, R265). -/
def State.startAssay (s : State) (x : Ctx) (qs : QSide) (n : Nat) (op : CopyOp) : State :=
  let entry := { newEntry op.id n false with granted := true }
  let s1 := match qs with
    | .none => s
    | .to q => s.updQ x.r.core x.r.slot q fun b => { b with rsv := b.rsv + BitVec.ofNat 32 n, resv := b.resv ++ [entry] }
    | .from q => s.updQ x.r.core x.r.slot q fun b => { b with crs := b.crs + BitVec.ofNat 32 n, take := b.take ++ [entry] }
  s1.updCore x.r.core fun c => { c with copies := Assoc.put c.copies (s.freeCopySlot x.r.core) op }

/-- The outcome CLAIM: the status, and the task ends as for a CLAIM trap (R260, R359). -/
def claimOut (x : Ctx) (st : State) (d : Opnd) (e : Nat) : Out :=
  .ok ((st.updThread x.r fun t => t.puts (putW d (status Code.claim e))).updThread x.r fun t => t.defer .claim e x.t.pc 0)

/-- What translation finds at issue of a global operand of 256 bytes, which at most two pages hold: the DETAIL of the frozen
outcome, none where there is no violation (R359). -/
def State.assayFault (s : State) (asid va : Nat) (write : Bool) : Option Nat :=
  if privBase ≤ va then none
  else
    [va, va + 255].findSome? fun p =>
      match s.locate asid p (if write then .w else .r) with
      | .fault .assaywr => some 0x020002
      | .fault .synonym => some 0x020003
      | .fault _ => some (if write then 0x020000 else 0x020001)
      | _ => none

/-- A frozen outcome at issue: the record of a frozen copy and the status; nothing else happens (R263, R359). -/
def frozenOut (x : Ctx) (st : State) (d : Opnd) (e : Nat) : Out :=
  putStatus x (st.copyFreeze x.r.core x.r.slot (st.freeCopySlot x.r.core) x.k.asid) d (status Code.baddesc e)

/-- One thread's ALOOK or ANAME at issue: D is pending, and the name's registers are a result in flight. -/
def alookIssue (i : Instr) (h : Hdr) (node : Bool) (d a b : Opnd) (qs : QSide) (changes : Bool) (x : Ctx) (st0 : State) : Out :=
  if (st0.regionOf x.k.asid).isNone then .trap .engine 27 0 0
  else
    let st := if changes then st0.commit x.r else st0
    match st.task? x.r.core x.r.slot with
    | none => .ok st
    | some k =>
      let va := assayAddr x a qs
      match assayBad x.k va qs with
      | some e => putStatus x st d (status Code.baddesc e)
      | none =>
        if !assayServed x h a qs then putStatus x st d (status Code.baddesc 0x010001)
        else if (QSide.q? qs).isNone && !rangeClaimed x ((va : Int), (va : Int) + 256) false then claimOut x st d 0
        else
          match (if (QSide.q? qs).isSome then none else st.assayFault x.k.asid va false) with
          | some e => frozenOut x st d e
          | none =>
          let (id, st1) := st.fresh
          let nameReg := match b with | .v n => n | .sp _ => 0
          let op : CopyOp := { assayOp x k id d va qs with
            src := (match qs with | .from _ => none | _ => scratchRange ((va : Int), (va : Int) + 256))
            dst := none, alook := some (node, nameReg, changes) }
          let st2 := st1.startAssay x qs (assayEntries x.k qs) op
          let o1 := mkOp id i x.t.pc true (.engine [d])
          let o2 := mkOp id i x.t.pc false (.engine [])
          .ok ((st2.addOp x.r { o1 with wr := opRegs d 1 }).addOp x.r { o2 with wr := opRegs b 4 })

/-- The side of a source buffer. -/
def fromSide : Option Nat → QSide
  | some q => .from q
  | none => .none

/-- ALOOK. -/
def execAlook (h : Hdr) (node : Bool) (d a b : Opnd) (q : Option Nat) (s : State) : Res :=
  .next (issueWith (.alook h node d a b q) (assayPre a (fromSide q) true false)
    (alookIssue (.alook h node d a b q) h node d a b (fromSide q) true) s)

/-- ANAME. -/
def execAname (h : Hdr) (node : Bool) (d a b : Opnd) (s : State) : Res :=
  .next (issueWith (.aname h node d a b) (assayPre a .none false false)
    (alookIssue (.aname h node d a b) h node d a b .none false) s)

/-- The name a group of four registers holds (R345). -/
def Ctx.name (x : Ctx) (o : Opnd) (first : Nat) : Nat :=
  leNat (bytesOf ((List.range 4).map fun j => x.gi o (first + j)))

/-- One thread's AOUT at issue (R364): the line is taken as it stands; where the name is absent nothing is reserved. -/
def aoutIssue (i : Instr) (h : Hdr) (d a b : Opnd) (qs : QSide) (x : Ctx) (st0 : State) : Out :=
  match st0.regionOf x.k.asid with
  | none => .trap .engine 27 0 0
  | some n =>
    let va := assayAddr x a qs
    match assayBad x.k va qs with
    | some e => putStatus x st0 d (status Code.baddesc e)
    | none =>
      if !assayServed x h a qs then putStatus x st0 d (status Code.baddesc 0x010001)
      else if (QSide.q? qs).isNone && !rangeClaimed x ((va : Int), (va : Int) + 256) true then claimOut x st0 d 1
      else
        match (if (QSide.q? qs).isSome then none else st0.assayFault x.k.asid va true) with
        | some e => frozenOut x st0 d e
        | none =>
        let glob := (QSide.q? qs).isNone && decide (va < privBase)
        let st := if glob then st0.commit x.r else st0
        match st.task? x.r.core x.r.slot, (st.region n).find (x.name b 0) with
        | none, _ => .ok st
        | _, none => putStatus x st d (status Code.absent 0)
        | some k, some e =>
          let (id, st1) := st.fresh
          let op : CopyOp := { assayOp x k id d va qs with
            globDst := glob, aout := some (st.lineBytes n e.1, e.2.node, st.linePoisons n e.1) }
          .ok ((st1.startAssay x qs (assayEntries x.k qs) op).addOp x.r (mkOp id i x.t.pc true (.engine [d])))

/-- AOUT. -/
def execAout (h : Hdr) (d a b : Opnd) (q : Option Nat) (s : State) : Res :=
  .next (issueWith (.aout h d a b q) (assayPre a (gathSide q) false true)
    (aoutIssue (.aout h d a b q) h d a b (gathSide q)) s)

/- ## Completion of copies (R262, R263, R357, R364) -/

/-- Read the source of an ALOOK or ANAME. -/
def State.assayRead (s : State) (k : Task) (bad : List Nat) : List (Nat × Nat × Nat) → Xfer
  | [] => .got [] false
  | m :: ms =>
    match s.copyRead k m.1 m.2.2 bad with
    | .got bs p =>
      (match s.assayRead k bad ms with
       | .got bs2 p2 => .got (bs ++ bs2) (p || p2)
       | e => e)
    | e => e

/-- Write an AOUT's bytes; a poisoned word of the line is written as poisoned (R263). -/
def State.assayWrite (s : State) (core slot cslot : Nat) (bad : List Nat) (bs : List Byte) (poison : List Nat) :
    List (Nat × Nat × Nat) → Xfer
  | [] => .put s
  | m :: ms =>
    match s.task? core slot with
    | none => .put s
    | some k =>
      match s.copyWrite core slot cslot k m.2.1 ((bs.drop m.1).take m.2.2) (poison.contains (m.1 / 8)) bad with
      | .put s1 => s1.assayWrite core slot cslot bad bs poison ms
      | e => e

/-- The parts of an AOUT's moves: offset among the line's bytes, destination, length. -/
def CopyOp.outParts (c : CopyOp) : List (Nat × Nat × Nat) :=
  c.moves.flatMap fun m => cutMove (m.2.2 + 1) (if c.qdst.isSome then m else (0, m.2.1, m.2.2))

/-- An ALOOK's or ANAME's end: its entries are free, the name and the status are written. -/
def State.alookEnd (s : State) (core cslot : Nat) (c : CopyOp) (name : Option (Nat × Nat)) (w : Word) : State :=
  let r : TRef := ⟨core, c.slot, c.thr⟩
  match name, s.thread? r with
  | some (reg, nm), some t =>
    let ws := putG (.v reg) (wordsOf 4 (leBytes 16 nm))
    (if t.ended then s else (s.updThread r fun t => t.puts ws).marksOf r ws).copyEnd core cslot c w
  | _, _ => s.copyEnd core cslot c w

/-- ALOOK and ANAME complete (R357, R358): poisoned source bytes are consumed and nothing else happens (R359). -/
def State.alookFinish (s : State) (core cslot : Nat) (c : CopyOp) (node : Bool) (reg : Nat) (changes : Bool) (k : Task) : Res :=
  match s.regionOf k.asid, s.assayRead k c.bad c.cuts with
  | none, _ => .next (s.alookEnd core cslot c none (status Code.absent 0))
  | some _, .got _ true =>
    let s1 := s.updCore core fun co => { co with copies := Assoc.del co.copies cslot }
    .next (s1.deferOr ⟨core, c.slot, c.thr⟩ .uncorr 0 c.pc)
  | some n, .got bs false =>
    let nm := s.nameOf n bs
    if changes then
      (match s.alookStep n node bs with
       | none => .next s
       | some (s1, w) => .next (s1.alookEnd core cslot c (some (reg, nm)) w))
    else .next (s.alookEnd core cslot c (some (reg, nm)) (s.anameStatus n node bs))
  | some _, .stop code detail frozen =>
    .next ((if frozen then s.copyFreeze core c.slot cslot k.asid else s).alookEnd core cslot c none (status code detail))
  | some _, .hole key => .fault (.noSuchMemory key)
  | some _, _ => .next s

/-- AOUT completes (R364). -/
def State.aoutFinish (s : State) (core cslot : Nat) (c : CopyOp) (x : List Byte × Bool × List Nat) (k : Task) : Res :=
  match s.assayWrite core c.slot cslot c.bad x.1 x.2.2 c.outParts with
  | .put s1 => .next (s1.copyMoved core cslot c (status Code.ok ((if x.2.2.isEmpty then 0 else 1) + (if x.2.1 then 2 else 0))))
  | .stop code detail frozen =>
    .next ((if frozen then s.copyFreeze core c.slot cslot k.asid else s).copyEnd core cslot c (status code detail))
  | .hole key => .fault (.noSuchMemory key)
  | _ => .next s

/-- An operation in a copy slot goes on, or is finished. -/
def State.finishSlot (s : State) (core cslot : Nat) (c : CopyOp) : Res :=
  match s.task? core c.slot with
  | none => s.copyFinish core cslot c
  | some k =>
    match c.alook, c.aout, c.done with
    | some (node, reg, changes), _, _ => s.alookFinish core cslot c node reg changes k
    | none, some x, none => s.aoutFinish core cslot c x k
    | none, _, _ => s.copyFinish core cslot c

/-- COPY_COMPLETION: the transfer of the operation in a copy slot and its completion events. -/
def execCopyCompletion (core cslot : Nat) (s : State) : Res :=
  match Assoc.find? (s.core core).copies cslot with
  | none => .next s
  | some c => if c.ticket.isNone && s.copyReady core c then s.finishSlot core cslot c else .next s

/- ## AREF, ALD, ASWAP and ASTAT (R360 to R365) -/

/-- A word that acts on the region of the task's ASID. -/
def onRegion (f : Nat → Ctx → State → Out) (x : Ctx) (st : State) : Out :=
  match st.regionOf x.k.asid with
  | none => .trap .engine 27 0 0
  | some n => f n x st

/-- The active threads may perform a load (R354). -/
def rdPre (st : State) (k : Task) (q : Run) (acts : List (Nat × Thread)) : Bool := acts.all fun e => st.mayRead k q e

/-- The active threads may perform an atomic of ORD ar and scope chip (R354). -/
def arPre (st : State) (k : Task) (q : Run) (acts : List (Nat × Thread)) : Bool :=
  acts.all fun e => st.mayCommit k e.2 && !(e.2.ops.any Op.openAcc) && st.mayRead k q e

/-- The code a mark gives. -/
def Mark.code : Mark → Nat
  | .none => Code.ok
  | .sat => Code.refsat
  | .under => Code.refunder

/-- The count of a line, 0 where it has left the index. -/
def State.lineCountOf (s : State) (n line : Nat) : Nat :=
  match Assoc.find? (s.region n).lines line with
  | some l => if l.live then l.count else 0
  | none => 0

/-- AREF (R360). -/
def execAref (h : Hdr) (d a : Opnd) (delta : BitVec 16) (s : State) : Res :=
  .next (issueWith (.aref h d a delta) (if delta = 0 then rdPre else arPre)
    (onRegion fun n x st0 =>
      let st := if delta = 0 then st0 else st0.commit x.r
      match (st.region n).find (x.name a 0) with
      | none => putStatus x st d (status Code.absent 0)
      | some e =>
        let r : State × Mark :=
          if 0 < delta.toInt then
            let g := (st.region n).inc e.1 delta.toInt.toNat
            (st.setRegion n g.1, g.2)
          else if delta.toInt < 0 then st.dec n e.1 (-delta.toInt).toNat
          else (st, .none)
        putStatus x r.1 d (status r.2.code (min (r.1.lineCountOf n e.1) 0xFFFFFF))) s)

/-- ALD .sec: a poisoned sector is consumed, D staying pending (R361, R404). -/
def execAldSec (h : Hdr) (d a : Opnd) (sec : Nat) (s : State) : Res :=
  .next (issueWith (.aldSec h d a sec) rdPre (onRegion fun n x st =>
    match (st.region n).find (x.name a 0) with
    | none => .ok (st.updThread x.r fun t => t.puts (putG d (List.replicate 8 0)))
    | some e =>
      let key := assayKey n (256 * e.1 + 32 * sec)
      if st.poisoned key 32 then
        let (id, st1) := st.fresh
        let o := mkOp id (.aldSec h d a sec) x.t.pc true (.engine [])
        .ok ((st1.addOp x.r { o with closed := true }).updThread x.r fun t => t.defer .uncorr 0 x.t.pc 0)
      else .ok (st.updThread x.r fun t => t.puts (putG d (wordsOf 8 (st.peek key 32))))) s)

/-- ALD .addr. -/
def execAldAddr (h : Hdr) (d a : Opnd) (s : State) : Res :=
  .next (issueWith (.aldAddr h d a) rdPre (onRegion fun n x st =>
    let v := match (st.region n).find (x.name a 0) with
      | some e => acfgBase (st.acfg n) + 256 * e.1
      | none => 0
    .ok (st.updThread x.r fun t => t.puts (putD d (BitVec.ofNat 64 v)))) s)

/-- The atomic step of ASWAP: the old name and the status (R363). -/
def State.aswapStep (s : State) (n slot new exp : Nat) (cas : Bool) : State × Nat × Word :=
  let g := s.region n
  let old := Assoc.getD g.roots 0 slot
  if cas ∧ old ≠ exp then (s, old, status Code.ok 0)
  else
    let line := g.find new
    if new ≠ 0 ∧ line.isNone then (s, old, status Code.absent 0)
    else
      let r1 : Region × Mark := match line with | some e => g.inc e.1 1 | none => (g, .none)
      let s1 := s.setRegion n { r1.1 with roots := Assoc.setD r1.1.roots 0 slot new }
      let r2 : State × Mark := match r1.1.find old with | some e => s1.dec n e.1 1 | none => (s1, .none)
      let m := r1.2.or r2.2
      (r2.1, old, status (if m = .none then Code.ok else Code.refsat) 1)

/-- The body of ASWAP (R363). -/
def aswapBody (d a r : Opnd) (cas : Bool) : Ctx → State → Out := onRegion fun n x st0 =>
  let st := st0.commit x.r
  let slot := (x.w r).toNat
  let e : State × Nat × Word :=
    if st.rootN n ≤ slot then (st, 0, status Code.baddesc 4) else st.aswapStep n slot (x.name a 0) (x.name a 4) cas
  .ok (e.1.updThread x.r fun t => t.puts (putG d (wordsOf 4 (leBytes 16 e.2.1) ++ [e.2.2, 0, 0, 0])))

/-- ASWAP .swap. -/
def execAswapSwap (h : Hdr) (d a r : Opnd) (s : State) : Res :=
  .next (issueWith (.aswapSwap h d a r) arPre (aswapBody d a r false) s)

/-- ASWAP .cas. -/
def execAswapCas (h : Hdr) (d a r : Opnd) (s : State) : Res :=
  .next (issueWith (.aswapCas h d a r) arPre (aswapBody d a r true) s)

/-- ASTAT .count. -/
def execAstatCount (h : Hdr) (d a : Opnd) (s : State) : Res :=
  .next (issueWith (.astatCount h d a) rdPre (onRegion fun n x st =>
    let c := match (st.region n).find (x.name a 0) with | some e => e.2.count | none => 0
    .ok (st.updThread x.r fun t => t.puts (putW d (BitVec.ofNat 32 c)))) s)

/-- ASTAT .free. -/
def execAstatFree (h : Hdr) (d : Opnd) (s : State) : Res :=
  .next (issueWith (.astatFree h d) rdPre (onRegion fun n x st =>
    .ok (st.updThread x.r fun t => t.puts (putD d (BitVec.ofNat 64 (st.capacity n - (st.region n).lines.length))))) s)

/-- ASTAT .used. -/
def execAstatUsed (h : Hdr) (d : Opnd) (s : State) : Res :=
  .next (issueWith (.astatUsed h d) rdPre (onRegion fun n x st =>
    .ok (st.updThread x.r fun t => t.puts (putD d (BitVec.ofNat 64 ((st.region n).lines.filter fun e => e.2.live).length)))) s)

/-- ASTAT .collide. -/
def execAstatCollide (h : Hdr) (d : Opnd) (s : State) : Res :=
  .next (issueWith (.astatCollide h d) rdPre (onRegion fun n x st =>
    .ok (st.updThread x.r fun t => t.puts (putW d (BitVec.ofNat 32 (st.region n).collide)))) s)

/-- ASTAT .root: a load of ORD acq and scope chip of the slot (R354); a slot at or above ROOTN traps (R366). -/
def execAstatRoot (h : Hdr) (d a : Opnd) (s : State) : Res :=
  .next (issueWith (.astatRoot h d a) rdPre (onRegion fun n x st =>
    let slot := (x.w a).toNat
    if st.rootN n ≤ slot then .trap .engine 28 0 0
    else .ok (st.updThread x.r fun t => t.puts (putG d (wordsOf 4 (leBytes 16 (Assoc.getD (st.region n).roots 0 slot)))))) s)

/-- ASTAT .pend. -/
def execAstatPend (h : Hdr) (d : Opnd) (s : State) : Res :=
  .next (issueWith (.astatPend h d) rdPre (onRegion fun n x st =>
    .ok (st.updThread x.r fun t => t.puts (putD d (BitVec.ofNat 64 ((st.region n).lines.filter fun e => !e.2.live).length)))) s)

/- ## Enabling and disabling a region (R343) -/

/-- A region slot's root slots meet those of another enabled one: a range of no slots meets none. -/
def State.rootsMeet (s : State) (n : Nat) : Bool :=
  [0, 1, 2, 3].any fun m => m != n && acfgEn (s.acfg m) && decide (0 < s.rootN n) && decide (0 < s.rootN m) &&
    decide (s.rootB n < s.rootB m + s.rootN m) && decide (s.rootB m < s.rootB n + s.rootN n)

/-- A write of ACFGn with EN = 1 is taken (R340, R343). -/
def State.regionOk (s : State) (n : Nat) (v : DWord) : Bool :=
  !acfgEn (s.acfg n) && decide (fld v.toNat 16 14 = 0) && decide (s.rootB n + s.rootN n ≤ 65536) && !s.rootsMeet n &&
  decide (acfgBase v + acfgBytes v ≤ vaTop) &&
  !([0, 1, 2, 3].any fun m => m != n && acfgEn (s.acfg m) && acfgAsid (s.acfg m) == acfgAsid v) &&
  decide ((([0, 1, 2, 3].filter fun m => m != n && acfgEn (s.acfg m)).map fun m => acfgBytes (s.acfg m)).sum + acfgBytes v ≤
    64 * 2 ^ 30)

/-- Empty a region's slot: no line, null roots, zero bytes (R343). -/
def State.emptyRegion (s : State) (n : Nat) : State :=
  let lo := assayKey n 0
  { (s.setRegion n Region.reset).l1Purge lo (2 ^ 36) with
    mem := s.mem.filter fun e => !(decide (lo ≤ e.1) && decide (e.1 < lo + 2 ^ 36))
    poison := s.poison.filter fun e => !(decide (lo ≤ e.1 * 8) && decide (e.1 * 8 < lo + 2 ^ 36)) }

/-- ASSAY_REGION_ENABLE: a write of ACFGn with EN = 1. -/
def execAssayRegionEnable (n : Nat) (v : DWord) (s : State) : Res :=
  if acfgEn v && s.regionOk n v then
    .next ((({ s with regs := { s.regs with acfg := Assoc.setD s.regs.acfg 0 n v } }).emptyRegion n))
  else .next s

/-- An assay operation of the region's ASID is in flight. -/
def State.assayBusy (s : State) (asid : Nat) : Bool :=
  s.cores.any fun e => e.2.copies.any fun c =>
    (c.2.alook.isSome || c.2.aout.isSome) &&
      (match s.task? e.1 c.2.slot with | some k => k.asid == asid | none => false)

/-- A value of ACFGn as the register holds it: its reserved bits [29:16] read as zero (R13, R341). -/
def acfgKept (v : DWord) : DWord := v &&& 0xFFFFFFFFC000FFFF

/-- ASSAY_REGION_DISABLE: a write of ACFGn with EN = 0; it waits for the operations in flight, then empties. -/
def execAssayRegionDisable (n : Nat) (v : DWord) (s : State) : Res :=
  if acfgEn v || (acfgEn (s.acfg n) && s.assayBusy (acfgAsid (s.acfg n))) then .next s
  else
    let s1 := { s with regs := { s.regs with acfg := Assoc.setD s.regs.acfg 0 n (acfgKept v) } }
    .next (if acfgEn (s.acfg n) then s1.emptyRegion n else s1)

end Machine
end Sys2Proof
end

