-- ==== Sys2Proof/Machine/Agents.lean ====
section
/-! DEFINITION. The agents (R380 to R389): validation of a launch header (R62, R382), claims, leases and the backfill
unit (R397 to R399), dependences, placement (R384, R424), completion (R383), and the launch of a task from a task
(R387, R388). -/

namespace Sys2Proof
namespace Machine

/- ## The launch header's shape (R24, R25, R62) -/

/-- The product of a list. -/
def prodOf (xs : List Nat) : Nat := xs.foldl (fun a b => a * b) 1

/-- Threads of each task (R25). -/
def LHdr.nthr (h : LHdr) : Nat := if 0 < h.tl then prodOf (h.ext.take h.tl) else 64 * (h.crwp + h.crwc)

/-- Tasks of the launch (R25). -/
def LHdr.tasks (h : LHdr) : Nat := prodOf (h.ext.drop h.tl)

/-- Bytes of registers that the crews need (R30). -/
def LHdr.regNeed (h : LHdr) : Nat := 256 * (h.crwp * h.allp + h.crwc * h.allc)

/-- The word at a code address of a context, for validation: the bytes memory holds, fetched with X permission; a lost peer's
gives poisoned data, which is no header (R326). -/
def State.codeWord (s : State) (asid va : Nat) : Option Nat :=
  if vaTop ≤ va then none
  else
    match s.translate asid va .x with
    | .ok key _ _ => if s.lostWord key 8 then none else some (s.peekN key 8)
    | _ => none

/-- An address names a valid header of a KIND that the context can fetch (R62, R116). -/
def State.entryOk (s : State) (asid va kind : Nat) : Bool :=
  va % 8 == 0 &&
    match s.codeWord asid va with
    | some w => validHeader w && fld w 12 3 == kind
    | none => false

/-- A dependence signal's address is aligned and readable (R382). -/
def State.depOk (s : State) (asid va : Nat) : Bool :=
  va % 8 == 0 && match s.translate asid va .r with | .ok .. | .zero | .wake _ => true | _ => false

/-- A completion signal's address is aligned, on a writable page that takes stores (R382). -/
def State.sigOk (s : State) (asid va : Nat) : Bool :=
  va % 8 == 0 &&
    match s.translate asid va .w with
    | .ok _ cls _ => decide (cls ≤ 1)
    | _ => false

/-- A used claim word is invalid (R62). -/
def claimBad (c : Nat) : Bool :=
  fld c 63 1 == 1 || fld c 61 2 == 0 || fld c 61 2 == 3 || decide (2 ^ 41 ≤ fld c 0 41 + fld c 41 20)

/-- The first field from f upward at which the running product of extents exceeds 2^48 (R62). -/
def bigProduct : List Nat → Nat → Nat → Option Nat
  | [], _, _ => none
  | e :: es, f, p => if 2 ^ 48 < p * e then some f else bigProduct es (f + 1) (p * e)

/-- The field that the task count above 2^48 is named at: none where the whole product, an extent of 0 in it, is no more. -/
def bigCount (es : List Nat) (f : Nat) : Option Nat := if prodOf es ≤ 2 ^ 48 then none else bigProduct es f 1

/-- A list with one element where a case holds. -/
def onCase (b : Bool) (v : Nat) : List Nat := if b then [v] else []

/-- CREWS is malformed (R62). -/
def LHdr.crewsBad (h : LHdr) (word : Nat) : Bool :=
  fld word 42 22 != 0 || fld word 26 6 != 0 || fld word 14 2 != 0 || fld word 6 2 != 0 ||
  h.crwc == 0 || h.allc % 32 != 0 || decide (h.allc < 32) ||
  (if h.rolesplit then h.crwp == 0 || h.allp % 32 != 0 || decide (h.allp < 32) else h.allp != 0 || h.crwp != 0) ||
  (decide (0 < h.tl) &&
    (if h.rolesplit then h.nthr != 64 * (h.crwp + h.crwc) else h.crwc != (h.nthr + 63) / 64))

/-- The offsets of every malformed case of a header, its entries and signals among them (R62, R382). The reserved byte at 0x077
is named by its own offset (log entry 83). The model's choice: a nonzero ENTP without ROLESPLIT, a nonzero HDLR without HANDLER
and a nonzero claim word at or above NCLM, of which R62 names no case, are malformed at their own offsets (log entry 102). -/
def State.hdrFaults (s : State) (asid : Nat) (b : Nat → Nat → Nat) : List Nat :=
  let h := hdrParse b
  let shape := b 0x18 8
  let ws := h.w
  let six := List.range 6
  onCase (!s.entryOk asid h.entc 1) 0 ++
  onCase (if h.rolesplit then !s.entryOk asid h.entp 1 else h.entp != 0) 8 ++
  onCase (if h.handler then !s.entryOk asid h.hdlr 2 else h.hdlr != 0) 0x10 ++
  onCase (shape / 2 ^ 39 != 0 || decide (64 < ws.sum) || decide (11 < (ws.take h.tl).sum) || decide (6 < h.tl)) 0x18 ++
  six.flatMap (fun i => onCase (h.ext.getD i 0 == 0 || decide (2 ^ ws.getD i 0 < h.ext.getD i 0)) (0x20 + 8 * i)) ++
  (match bigCount (h.ext.drop h.tl) h.tl with
   | some f => [0x20 + 8 * f]
   | none => []) ++
  onCase (h.crewsBad (b 0x50 8)) 0x50 ++
  onCase (b 0x58 8 / 2 ^ 33 != 0 || (decide (h.regNeed ≤ 512 * 4096) && decide (h.regu * 4096 < h.regNeed))) 0x58 ++
  onCase (h.privb % 256 != 0 || decide (2 ^ 20 < h.privb)) 0x60 ++
  onCase (b 0x64 4 / 16 != 0) 0x64 ++
  onCase (b 0x74 1 / 8 != 0) 0x74 ++ onCase (decide (4 < h.ndep)) 0x76 ++ onCase (b 0x77 1 != 0) 0x77 ++
  onCase (h.csig != 0 && !s.sigOk asid h.csig) 0x78 ++
  (List.range 4).flatMap (fun i => onCase (decide (i < h.ndep) && !s.depOk asid (h.dsig.getD i 0)) (0x80 + 8 * i)) ++
  (List.range 16).flatMap (fun i =>
    let c := h.clm.getD i 0
    onCase (if i < h.nclm then claimBad c else c != 0) (0xA0 + 8 * i))

/-- The resource limits a header exceeds (R62). -/
def LHdr.tooBig (h : LHdr) : List Nat :=
  onCase (decide (640 < h.allp) || decide (640 < h.allc) || decide (512 * 4096 < h.regNeed)) 1 ++
  onCase (decide (2048 < h.nthr)) 5 ++ onCase (decide (512 < h.regu + h.scru + 4 * h.acct + h.ckpu)) 6 ++
  onCase (decide (32 < h.crwp + h.crwc)) 7 ++ onCase (decide (16 < h.nclm)) 8

/-- The status with which validation rejects a header; none where it passes (R62, R391). A launch of ASID 0, under which none
runs (R390), is rejected with BADDESC, DETAIL 0 (log entry 83). -/
def State.validate (s : State) (asid : Nat) (bs : List Byte) : Option Word :=
  if !s.ctxEn asid || asid == 0 then some (status Code.baddesc 0)
  else
    match leastOf (s.hdrFaults asid (rdBytes bs)) with
    | some off => some (status Code.baddesc off)
    | none => (leastOf (hdrParse (rdBytes bs)).tooBig).map (status Code.toobig)

/-- The code addresses a header names, each with its field's offset (R62). -/
def LHdr.codeAt (h : LHdr) : List (Nat × Nat) :=
  [(0, h.entc)] ++ (if h.rolesplit then [(8, h.entp)] else []) ++ if h.handler then [(0x10, h.hdlr)] else []

/-- The status with which a claimed launch is rejected: a code page whose service has failed gives poisoned data, which is no
header (R62, R401). -/
def State.checkLaunch (s : State) (l : Launch) : Option Word :=
  match l.hd.codeAt.filter fun e => l.badPages.contains (s.unitKey l.asid e.2) with
  | [] => s.validate l.asid l.raw
  | es =>
    if s.ctxEn l.asid && l.asid != 0 then
      (leastOf (s.hdrFaults l.asid (rdBytes l.raw) ++ es.map fun e => e.1)).map (status Code.baddesc)
    else s.validate l.asid l.raw

/-- The first absent code page that a launch's check fetches from, with whether the backfill unit serves it (R62, R400). -/
def State.codeAbsent (s : State) (l : Launch) : Option (Nat × Bool) :=
  l.hd.codeAt.findSome? fun e =>
    if e.2 % 8 ≠ 0 ∨ vaTop ≤ e.2 ∨ l.badPages.contains (s.unitKey l.asid e.2) ∨ !s.ctxEn l.asid then none
    else match s.translate l.asid e.2 .x with
      | .absent anon _ => some (e.2, anon)
      | _ => none

/-- The first code page that a launch's check fetches from a peer: its owner may answer with a ticket or a denial (R394,
R400). -/
def State.codeForwarded (s : State) (l : Launch) : Option Nat :=
  (l.hd.codeAt.find? fun e => e.2 % 8 == 0 && s.ctxEn l.asid && !l.badPages.contains (s.unitKey l.asid e.2) && s.forwarded l.asid e.2 .x).map
    fun e => e.2

/-- A word that the check reads, or the page of a signal it tests, lies in a granule whose bias changes (R437). -/
def State.checkBusy (s : State) (l : Launch) : Bool :=
  (l.hd.codeAt.any fun e => s.devBusy l.asid e.2 .x) || s.devBusy l.asid l.hd.csig .w ||
    (l.hd.dsig.take l.hd.ndep).any fun a => s.devBusy l.asid a .r

/- ## Claims and leases (R397, R398) -/

/-- The backfill unit serves an absent anonymous page from the pool: V, LEAF and ADDR are written, the other fields kept,
and the frame is the context's (R399, R443). -/
def State.backfill (s : State) (asid pte : Nat) : Option State :=
  match s.agents.pool with
  | [] => none
  | f :: rest =>
    let e := s.peekN pte 8
    let e1 := (e - fld e 0 2 - fld e 12 39 * 2 ^ 12) + 3 + fld f 12 39 * 2 ^ 12
    let s1 := s.pokeCoh pte (leBytes 8 e1)
    some { s1 with agents := { s1.agents with pool := rest, owner := Assoc.put s1.agents.owner (hbmKey s.chip.toNat f / 2 ^ 16) asid } }

/-- What one unit of a claim comes to. -/
inductive ClaimUnit where
  | pin (pte lvl : Nat)
  | fine
  | frame
  | host
  | bad
  deriving DecidableEq, Repr

/-- The access kind a claim asks for is within R and W (R397). -/
def claimKind (e : Nat) (write : Bool) : Bool := fld e 2 1 == 1 && (!write || fld e 3 1 == 1)

/-- The owner of a page of another chip answers whether its own entry allows the access kind (R397): the answer comes from
outside the chip, and is a free value here (log entry 80). -/
def State.askOwner (s : State) : State × ClaimUnit :=
  let (f, s1) := s.useFree
  (s1, if Config.ownerAllows f then .fine else .bad)

/-- A mapped page of a claim (R397); granted: the host has granted the claim's pages. A wake leaf's OWN is ignored (R395). -/
def State.claimLeaf (s : State) (asid va e lvl : Nat) (write granted : Bool) : ClaimUnit :=
  let cls := fld e 5 2
  let own := fld e 51 13
  if !claimKind e write || (decide (cls ≤ 1) && fld e 9 1 == 1 && fld e 7 2 == 3) || (cls != 0 && own != 0) then .bad
  else if cls = 0 then (if own = s.chip.toNat ∨ fld e 11 1 = 1 then .pin e lvl else .fine)
  else if cls = 1 then
    let rs := (List.range 16).map fun i => s.xlHost asid (va + 4096 * i) (if write then .w else .r) 0
    if rs.any (fun x => match x with | .ok .. | .absent .. => false | _ => true) then .bad
    else if !granted || rs.any (fun x => match x with | .absent .. => true | _ => false) then .host
    else .pin e lvl
  else if cls = 2 then
    (match s.veinOf asid with
     | some (_, v) => if v.segb ≤ va ∧ va + 2 ^ 16 ≤ v.segb + v.segl then .fine else .bad
     | none => .bad)
  else if (s.regionAt asid va).isSome then .fine else .bad

/-- One unit of a claim: the state after what the backfill unit has done, and the outcome (R397). -/
def State.claimUnit (s : State) (asid va : Nat) (write granted : Bool) : State × ClaimUnit :=
  if !s.ctxEn asid then (s, .bad)
  else
    match s.walkOf asid va with
    | .bad => (s, .bad)
    | .leaf e lvl =>
      if fld e 5 2 = 0 ∧ fld e 11 1 = 0 ∧ fld e 51 13 ≠ s.chip.toNat then
        (if fld e 9 1 == 1 && fld e 7 2 == 3 then (s, .bad) else s.askOwner)
      else (s, s.claimLeaf asid va e lvl write granted)
    | .absent anon key =>
      let e := s.peekN key 8
      if !anon || fld e 5 2 != 0 then (s, .bad)
      else if fld e 11 1 = 0 ∧ fld e 51 13 ≠ s.chip.toNat then s.askOwner
      else if !claimKind e write then (s, .bad)
      else
        match s.backfill asid key with
        | some s1 => (s1, .pin (s1.peekN key 8) 0)
        | none => (s, .frame)

/-- What establishing claims comes to: the pins, a wait for frames or for the host, or the failing claim and its
CLAIM detail (R397, R423). -/
inductive ClaimRes where
  | ok (pins : List (Nat × Nat × Nat))
  | frame (i : Nat)
  | host (i : Nat)
  | bad (i : Nat)
  deriving DecidableEq, Repr

/-- The units of claim word i from unit n on. -/
def claimUnits (asid i base : Nat) (write granted : Bool) : Nat → Nat → State → List (Nat × Nat × Nat) → State × ClaimRes
  | 0, _, s, pins => (s, .ok pins)
  | k + 1, n, s, pins =>
    let va := base + n * 2 ^ 16
    match s.claimUnit asid va write granted with
    | (s1, .pin e lvl) => claimUnits asid i base write granted k (n + 1) s1 (pins ++ [(tlbKey asid va, e, lvl)])
    | (s1, .fine) => claimUnits asid i base write granted k (n + 1) s1 pins
    | (s1, .frame) => (s1, .frame i)
    | (s1, .host) => (s1, .host i)
    | (s1, .bad) => (s1, .bad i)

/-- Claim words in order. -/
def claimWords (asid : Nat) (granted : List Nat) : Nat → List Nat → State → List (Nat × Nat × Nat) → State × ClaimRes
  | _, [], s, pins => (s, .ok pins)
  | i, c :: cs, s, pins =>
    match claimUnits asid i (fld c 0 41 * 2 ^ 16) (fld c 61 2 == 2) (granted.contains i) (fld c 41 20 + 1) 0 s pins with
    | (s1, .ok pins1) => claimWords asid granted (i + 1) cs s1 pins1
    | (s1, e) => (s1, e)

/-- Add pins to a launch's lease. -/
def State.lease (s : State) (lnum : Nat) (pins : List (Nat × Nat × Nat)) : State :=
  { s with agents := { s.agents with leases := Assoc.put s.agents.leases lnum (Assoc.getD s.agents.leases [] lnum ++ pins) } }

/-- A lease ends (R398). -/
def State.unlease (s : State) (lnum : Nat) : State :=
  { s with agents := { s.agents with leases := Assoc.del s.agents.leases lnum } }

/-- Ask the host for each of its pages of a claim word (R397). -/
def State.askClaim (s : State) (asid : Nat) (c : Nat) : State :=
  let base := fld c 0 41 * 2 ^ 16
  (List.range ((fld c 41 20 + 1) * 16)).foldl (fun st i =>
    match st.walkOf asid (base + 4096 * i) with
    | .leaf e _ =>
      if fld e 5 2 = 1 then st.send (.pri (st.pasidWord asid % 2 ^ 20) ((base + 4096 * i) / 4096)) else st
    | _ => st) s

/- ## Launch records and their ends (R382, R383, R388) -/

/-- The registers that an operation of a thread writes when it ends with a status; none where it is no longer in flight. -/
def Thread.opWrites (t : Thread) (id : Nat) (w : Word) : List (Nat × Word) :=
  match (t.ops.find? fun o => o.id == id).map Op.kind with
  | some (.engine ds) => ds.flatMap fun d => putW d w
  | _ => []

/-- An operation of a thread ends with a status in its registers. -/
def Thread.completeOp (t : Thread) (id : Nat) (w : Word) : Thread :=
  { t.puts (t.opWrites id w) with ops := t.ops.filter fun e => e.id != id }

/-- Where a task of an identifier is resident. -/
def State.findUid (s : State) (uid : Nat) : Option (Nat × Nat) :=
  (s.tasks.find? fun e => e.2.uid == uid).map fun e => (e.1 / 32, e.1 % 32)

/-- A thread of a task changes, wherever the task is, resident or saved, with the registers ws of it written (R273); a park of
the task on the launch unpark ends. -/
def State.updByUid (s : State) (uid thr : Nat) (unpark : Option Nat) (ws : Thread → List (Nat × Word)) (f : Thread → Thread) : State :=
  let unparked := fun (p : Option Nat) => if p = unpark then none else p
  match s.findUid uid with
  | some (core, slot) =>
    let marks := ((s.thread? ⟨core, slot, thr⟩).map ws).getD []
    (s.updThread ⟨core, slot, thr⟩ f).updTask core slot fun k => { k.markDirty (regBlocks thr marks) with parked := unparked k.parked }
  | none =>
    { s with agents := { s.agents with saved := s.agents.saved.map fun (e : Nat × Saved) =>
        if e.2.task.uid = uid then
          let marks := ((Assoc.find? e.2.threads thr).map ws).getD []
          (e.1, { e.2 with
            threads := Assoc.modify e.2.threads thr f
            task := { e.2.task.markDirty (regBlocks thr marks) with parked := unparked e.2.task.parked } })
        else e } }

/-- The waiting thread of LAUNCH .wait receives its child's status, and a parent parked for that child is placeable again
(R388, R389): its launch's PREWT counts from now on (R385). -/
def State.wakeParent (s : State) (p : Option (TRef × Nat × Nat)) (child : Nat) (w : Word) : State :=
  match p with
  | some (r, op, uid) =>
    let s1 := s.updByUid uid r.thr (some child) (fun t => t.opWrites op w) fun t => t.completeOp op w
    match s.agents.saved.find? fun e => e.2.task.uid == uid && e.2.task.parked == some child with
    | some e => s1.updLaunch e.2.task.lnum fun l => { l with since := s.clk.time }
    | none => s1
  | none => s

/-- A launch is over: its signal is written, its parent told, its lease and record gone (R383, R388, R398). -/
def State.endLaunch (s : State) (lnum : Nat) (l : Launch) (w : Word) (rejected : Bool) : State :=
  let s1 := (s.signal l lnum w).wakeParent l.parent lnum (if l.hd.csig = 0 && !rejected then status Code.ok 0 else w)
  let s2 := s1.unlease lnum
  { s2 with agents := { s2.agents with launches := Assoc.del s2.agents.launches lnum } }

/-- A launch's signal cannot be written yet (R437). -/
def State.signalWaits (s : State) (l : Launch) : Bool := l.hd.csig != 0 && s.storeWaits l.asid l.hd.csig

/-- A launch is rejected with a status (R382), as soon as its signal can be written. -/
def State.rejectLaunch (s : State) (lnum : Nat) (w : Word) : State :=
  match Assoc.find? s.agents.launches lnum with
  | some l =>
    if s.signalWaits l then s.updLaunch lnum fun x => { x with reject := some w } else s.endLaunch lnum l w true
  | none => s

/-- A launch whose claims stand waits for its dependences (R382 step 3). -/
def State.claimsDone (s : State) (lnum : Nat) (pins : List (Nat × Nat × Nat)) : State :=
  (s.lease lnum pins).updLaunch lnum fun l => { l with st := .deps }

/-- A claim fails: nothing stays pinned for it, and the launch is rejected or the instruction ends (R397, R423). -/
def State.claimFail (s : State) (w : CWait) (i detail : Nat) : State :=
  let s2 := { s with agents := { s.agents with cwaits := s.agents.cwaits.filter fun x => x.id != w.id } }
  match w.op with
  | some (r, op) => s2.endEngine r.core r.slot op (status Code.claim detail)
  | none => s2.rejectLaunch w.lnum (status Code.claim i)

/-- Try to establish a waiting claim (R397): it is done, fails, or waits; ask: the host is asked for pages. -/
def State.claimTry (s : State) (w : CWait) (ask : Bool) : State :=
  match claimWords w.asid w.granted 0 w.words s [] with
  | (s1, .ok pins) =>
    let s2 := { s1 with agents := { s1.agents with cwaits := s1.agents.cwaits.filter fun x => x.id != w.id } }
    (match w.op with
     | some (r, op) => (s2.lease w.lnum pins).endEngine r.core r.slot op (openStatus 119 Code.ok)
     | none => s2.claimsDone w.lnum pins)
  | (s1, .bad i) => s1.claimFail w i 0
  | (s1, .frame _) => s1
  | (s1, .host i) => if ask then s1.askClaim w.asid (w.words.getD i 0) else s1

/-- Begin to establish claims (R397). -/
def State.claimBegin (s : State) (lnum asid : Nat) (words : List Nat) (op : Option (TRef × Nat)) : State :=
  let (id, s1) := s.fresh
  let w : CWait := { id := id, lnum := lnum, asid := asid, words := words, since := s.clk.time, op := op, granted := [] }
  ({ s1 with agents := { s1.agents with cwaits := s1.agents.cwaits ++ [w] } }).claimTry w true

/- ## PACKET_CLAIM (R381, R382) -/

/-- A queue that an agent may serve: enabled, not halted, with something at RPTR. -/
def State.servable (s : State) (n : Nat) : Option QEntry :=
  match s.qEnabled n with
  | some e => if !e.halt && decide (s.packetAt e ≠ .none) then some e else none
  | none => none

/-- The queue that an agent serves next (R381): the highest level, then the one served least recently, then the lowest
index. -/
def State.nextQueue (s : State) : Option (Nat × QEntry) :=
  (List.range (if s.qtabEn then 2 ^ min s.qtabLogn 20 else 0)).foldl (fun best n =>
    match s.servable n with
    | none => best
    | some e =>
      match best with
      | none => some (n, e)
      | some (m, b) => if b.prio < e.prio ∨ (b.prio = e.prio ∧ e.served < b.served) then some (n, e) else some (m, b)) none

/-- Check a claimed launch (R382 step 1): an absent page of its code is served first, under a ticket of the chip's table, as
any instruction fetch's is (R62, R400, R401); then it is rejected, or its claims are established. -/
def State.checkStep (s0 : State) (lnum : Nat) : State :=
  match Assoc.find? s0.agents.launches lnum with
  | none => s0
  | some l =>
    let s := l.hd.codeAt.foldl (fun st e => st.devTake l.asid e.2 .x) s0
    if l.st ≠ .check ∨ l.reject.isSome then s
    else
      match s.codeAbsent l with
      | some (va, anon) =>
        if s.agents.tickets.any fun t => t.2.waiting && t.2.lnum == some lnum then s
        else
          (match s.openTicket ⟨coreCount, 0, 0⟩ 0 none 0 l.asid va (!anon && s.hosten l.asid) with
           | some (i, s1) =>
             { s1 with agents := { s1.agents with tickets := Assoc.modify s1.agents.tickets i fun (t : Ticket) => { t with lnum := some lnum } } }
           | none => s)
      | none =>
        if s.checkBusy l || s.agents.tickets.any (fun t => t.2.waiting && t.2.lnum == some lnum) then s
        else
          match s.checkLaunch l with
          | some w => s.rejectLaunch lnum w
          | none => (s.updLaunch lnum fun x => { x with st := .claims }).claimBegin lnum l.asid (l.hd.clm.take l.hd.nclm) none

/-- A claimed launch packet (R379, R381, R382). Where its check fetches from a peer, the check follows once the owner has had
the time to answer (R394). -/
def State.claimLaunch (s00 : State) (n : Nat) (e : QEntry) : State :=
  let s := (List.range 40).foldl (fun st i => st.devTake e.asid (e.addr e.rptr + 8 * i) .r) s00
  let body := s.devBytes e.asid (e.addr e.rptr + 32) 288
  let e1 := { e with rptr := (e.rptr + 320) % 2 ^ 64, nlau := (e.nlau + 1) % 2 ^ 64, served := s.nextId }
  let lnum := s.agents.nextLnum
  let parent := (s.agents.lwaits.find? fun w => w.queue == n && w.ptr == e.rptr).map fun w => (w.parent, w.op, w.uid)
  let hd := hdrParse (rdBytes (body.getD []))
  let l : Launch :=
    { asid := e.asid, queue := n, hd := hd, st := .check, prio := min hd.prio e.prio, counter := 0, count := hd.tasks,
      ended := 0, trapped := 0, parent := parent, since := s.clk.time, readyAt := s.clk.time, placed := false,
      startSeq := s.nextId, raw := body.getD [], badPages := [], reject := none }
  let s0 := s.qPut n e1
  let s1 := { s0 with
    nextId := s.nextId + 1
    agents := { s0.agents with
      launches := Assoc.put s.agents.launches lnum l
      nextLnum := (lnum + 1) % 2 ^ 32
      lwaits := s.agents.lwaits.filter fun w => !(w.queue == n && w.ptr == e.rptr) } }
  let s2 := s1.qPublish e1
  match body with
  | none => s2.rejectLaunch lnum (status Code.baddesc 0)
  | some _ => if (s2.codeForwarded l).isSome then s2 else s2.checkStep lnum

/-- The queue entry, with the offset in it, that an access of the firmware in the table's memory meets: while the table is
enabled it is made through the entry cache (R368). -/
def State.entryAt (s : State) (r : TRef) (k : Task) (a : Acc) : Option (Nat × Nat × QEntry) :=
  if r.slot = fwSlot ∧ k.asid = 0 ∧ a.place = .glob ∧ s.qtabEn ∧ s.qtabBase ≤ a.va ∧
      a.va + a.n ≤ s.qtabBase + 256 * 2 ^ s.qtabLogn then
    (s.qEntry ((a.va - s.qtabBase) / 256)).map fun e => ((a.va - s.qtabBase) / 256, (a.va - s.qtabBase) % 256, e)
  else none

/-- An entry with bytes of it replaced. -/
def QEntry.patch (e : QEntry) (off : Nat) (bs : List Byte) : QEntry :=
  let all := e.bytes.zipIdx.map fun b => if off ≤ b.2 ∧ b.2 < off + bs.length then bs.getD (b.2 - off) 0 else b.1
  { qParse (rdBytes all) with served := e.served }

/-- The claim of a packet by the atomic on an entry's RPTR word (R381): the value it returns, and the state after. -/
def State.claimAtom (s : State) (n : Nat) (e : QEntry) : Nat × State :=
  let no := if e.rptr.testBit 63 then e.rptr - 2 ^ 63 else e.rptr + 2 ^ 63
  if !e.en || e.halt then (no, s)
  else
    match s.packetAt e with
    | .none => (no, s)
    | .halt code => (no, s.qHalt n e code)
    | .pad len =>
      let e1 := { e with rptr := (e.rptr + len) % 2 ^ 64, served := s.nextId }
      (e.rptr, ({ s with nextId := s.nextId + 1 }.qPut n e1).qPublish e1)
    | .launch => (e.rptr, s.claimLaunch n e)

/-- An atomic of the firmware through the entry cache (R368, R381). -/
def State.entryAtom (s : State) (r : TRef) (o : Op) (a : Acc) (op : Aop) (w64 : Bool) (b c : DWord) (d : Option Opnd)
    (n off : Nat) (e : QEntry) : Perf :=
  if op = .add ∧ w64 ∧ b = 0 ∧ off = 0x28 ∧ a.ord = .ar ∧ a.scope = .chip then
    let x := s.claimAtom n e
    .done (x.2.atomicDone r o w64 d x.1)
  else
    let old := rdBytes e.bytes off a.n
    let s1 := if aopWrites op old b.toNat then s.qPut n (e.patch off (leBytes a.n (aopVal op w64 old b.toNat c.toNat))) else s
    .done (s1.atomicDone r o w64 d old)

/-- LOAD_RESPONSE: a load's or ATOM's data returns (R241, R247); the firmware's from a queue entry comes from the entry
cache. -/
def execLoadResponse (r : TRef) (op : Nat) (fromL1 : Bool) (s : State) : Res :=
  match s.opOf r op with
  | some (k, _, o) =>
    (match o.acc?.bind fun a => (s.entryAt r k a).map fun x => (a, x) with
     | some (a, n, off, e) =>
       onOp r op (fun _ _ o =>
         match o.kind with
         | .load _ d => .done (s.loadDone r o d a.n ((e.bytes.drop off).take a.n))
         | .atomic _ aop w64 b c (some d) => s.entryAtom r o a aop w64 b c (some d) n off e
         | _ => .wait) s
     | none => loadReturn r op fromL1 s)
  | none => loadReturn r op fromL1 s

/-- ACCESS_PERFORMED: a store, reduction, prefetch or cache-control operation is performed (R234). -/
def execAccessPerformed (r : TRef) (op : Nat) (s : State) : Res :=
  match s.opOf r op with
  | some (k, _, o) =>
    (match o.acc?.bind fun a => (s.entryAt r k a).map fun x => (a, x) with
     | some (a, n, off, e) =>
       onOp r op (fun k t o =>
         match o.kind with
         | .atomic _ aop w64 b c none => s.entryAtom r o a aop w64 b c none n off e
         | .store a data => s.performStore r k t o a data
         | _ => .wait) s
     | none => performReturn r op s)
  | none => performReturn r op s

/-- PACKET_CLAIM: the agent of a core claims the next packet of the chip's queues, or the entry cache halts the queue
(R377 to R381). The agents of a retired cluster have stopped (R458), and all of them stand in S2 (R471). -/
def execPacketClaim (core : Nat) (s : State) : Res :=
  if s.plat.clOff.contains (core / 8) || !s.coresRun then .next s else
  match s.nextQueue with
  | none => .next s
  | some (n, e) =>
    match s.packetAt e with
    | .none => .next s
    | .halt code => .next (s.qHalt n e code)
    | .pad len =>
      let e1 := { e with rptr := (e.rptr + len) % 2 ^ 64, served := s.nextId }
      .next (({ s with nextId := s.nextId + 1 }.qPut n e1).qPublish e1)
    | .launch => .next (s.claimLaunch n e)

/-- Every dependence signal of a launch reads DONE (R382): one of a peer that cannot be asked, or poisoned, does not (R326). -/
def State.depsMet (s : State) (l : Launch) : Bool :=
  (l.hd.dsig.take l.hd.ndep).all fun a => !s.devBusy l.asid a .r && match s.devLoad l.asid a 8 with
    | some v => v.testBit 31
    | none => false

/-- DEPENDENCE_POLL: a waiting launch becomes placeable when its signals read DONE (R382 steps 3 and 4); one whose check
waits is looked at again. -/
def execDependencePoll (lnum : Nat) (s : State) : Res :=
  match Assoc.find? s.agents.launches lnum with
  | some l =>
    if l.st = .check then .next (s.checkStep lnum)
    else if l.st = .deps ∧ s.depsMet l then
      .next (((l.hd.dsig.take l.hd.ndep).foldl (fun st a => st.devTake l.asid a .r) s).updLaunch lnum fun x => { x with st := .placeable, counter := 0, since := s.clk.time, readyAt := s.clk.time })
    else .next s
  | none => .next s

/-- COMPLETION_SIGNAL_WRITE: the last task of an accepted launch has ended and its resources are back, or a rejected launch's
signal can be written (R383); in a granule whose bias changes it waits (R437). -/
def execCompletionSignalWrite (lnum : Nat) (s : State) : Res :=
  match Assoc.find? s.agents.launches lnum with
  | some l =>
    if s.signalWaits l then .next s
    else if let some w := l.reject then .next (s.endLaunch lnum l w true)
    else if l.st = .placeable ∧ l.count ≤ l.ended then .next (s.endLaunch lnum l (status Code.ok l.trapped) false)
    else .next s
  | none => .next s

/- ## Admission (R30, R32, R424) -/

/-- Threads of a task on a home lane. -/
def laneCount (nthr lane : Nat) : Nat := (nthr + 63 - lane) / 64

/-- Thread slots in use on a home lane of a core. -/
def State.laneUse (s : State) (core lane : Nat) : Nat :=
  ((s.slotsOf core).map fun slot => match s.task? core slot with | some k => laneCount k.nthr lane | none => 0).sum

/-- The first free task slot. -/
def State.freeSlot (s : State) (core : Nat) : Option Nat := (List.range 16).find? fun i => (s.task? core i).isNone

/-- What a core lacks for a task: codes 5, 6, 9 and 10 (R424). -/
def State.lacks (s : State) (core nthr units : Nat) (nomatrix : Bool) : List Nat :=
  onCase ((List.range 64).any fun lane => decide (0 < laneCount nthr lane) && decide (64 < s.laneUse core lane + laneCount nthr lane)) 5 ++
  onCase (decide (s.freePool core < units)) 6 ++ onCase (s.freeSlot core).isNone 9 ++
  onCase (!nomatrix && ((s.core core).mac0.fail || (s.core core).mac1.fail)) 10

/-- A level-1 prohibition stands until its launch has a task placed on the core, has none left to place, new or saved, or
is gone (R413). One of the host driver's, under the number 0 of no launch, stands until Vebry ends it. -/
def State.barStands (s : State) (b : Nat × Nat × Nat) : Bool :=
  b.2.1 == 0 ||
  match Assoc.find? s.agents.launches b.2.1 with
  | some l => decide (l.counter < l.count) || s.agents.saved.any fun e => e.2.task.lnum == b.2.1 && e.2.task.parked.isNone
  | none => false

/-- A core takes tasks of a context at all: its cluster is in service, the chip is on, and no pre-emption bars the
context (R413, R458, R472). -/
def State.coreOpen (s : State) (core asid : Nat) : Bool :=
  !s.plat.clOff.contains (core / 8) && (decide (s.plat.power = .a0) || decide (s.plat.power = .a1)) &&
    !((s.core core).barred.any fun b => b.1 == asid && s.barStands b)

/-- Units of a partition word. -/
def LHdr.units (h : LHdr) : Nat := h.regu + h.scru + 4 * h.acct + h.ckpu

/-- A core admits a new task of a launch. -/
def State.admitsNew (s : State) (core : Nat) (l : Launch) : Bool :=
  s.coreOpen core l.asid && (s.lacks core l.hd.nthr l.hd.units l.hd.nomatrix).isEmpty

/-- A core admits a saved task (R416). -/
def State.admitsSaved (s : State) (core : Nat) (v : Saved) : Bool :=
  s.coreOpen core v.task.asid && v.task.parked.isNone && (!v.task.vein || (s.veinOf v.task.asid).isSome) &&
    (s.lacks core v.task.nthr v.task.units v.task.hd.nomatrix).isEmpty

/- ## Placing a task (R18, R22, R424) -/

/-- A thread at release, before it enters its entry header (R18). -/
def Thread.reset (pc csp : DWord) : Thread :=
  { pc := pc, blk := none, regs := [], preds := 0, csp := csp, rpt := 0, tpc := 0, tblk := none, tcause := 0, tval := 0,
    taddr := 0, inh := false, modf := false, sstat := 0, drop := false, lostw := false, acks := 0, ended := false,
    held := none, wait := .none, ops := [], wins := [], trap := none, deferred := [], halted := false, haltReq := false, age := 0,
    overdue := none, demoted := [], issued := 0, fetchTicket := none }

/-- A task at release (R18, R29). -/
def Task.reset (uid lnum asid tidx prio : Nat) (h : LHdr) (time : Nat) : Task :=
  { uid := uid, lnum := lnum, asid := asid, tidx := tidx, hd := h, nthr := h.nthr, prio := prio,
    allot := (List.range (h.crwp + h.crwc)).map fun c => (c, if c < h.crwp then h.allp else h.allc)
    regu := h.regu, vein := false, ks := [], qs := [], scratch := [], spoison := [], tiles := [], version := [], vpeers := [], vlines := [],
    ckpt := none, mt0 := none, mt1 := none, loaded0 := false, loaded1 := false, drains := [], owed := [], ro := [], drophint := 0,
    peers := [], peersSeen := [], peerOvf := false, peerCount := 0, slice := if h.tslice = 0 then none else some (h.tslice * 1000),
    sliceFrom := time, frozen := none, saving := none, parked := none, ending := none,
    curGroup := none, lastGroup := 0 }

/-- Release a task into a slot of a core: its threads stand at their roles' entry headers (R18, R21, R37). -/
def State.release (s : State) (core slot lnum asid tidx prio : Nat) (h : LHdr) : State :=
  let (uid, s0) := s.fresh
  let k := Task.reset uid lnum asid tidx prio h s.clk.time
  let csp : DWord := BitVec.ofNat 64 (privBase + h.privb)
  let ts := (List.range h.nthr).map fun i =>
    let pc := if i / 64 < h.crwp then h.entp else h.entc
    (thrKey ⟨core, slot, i⟩, Thread.reset (BitVec.ofNat 64 pc) csp)
  let s1 := { (s0.setTask core slot k) with
    threads := ts.foldl (fun m (e : Nat × Thread) => Assoc.put m e.1 e.2) s0.threads }
  (List.range h.nthr).foldl (fun st i => st.enterAt ⟨core, slot, i⟩ k true) (s1.ungate (core / 8))

/- ## LAUNCH (R387, R388) -/

/-- The word's conditions: the thread's commit (R212). -/
def launchPre (st : State) (k : Task) (_ : Run) (acts : List (Nat × Thread)) : Bool := acts.all fun e => st.mayCommit k e.2

/-- The 288 bytes of a header in the thread's context, as its own loads see them (R326, R388): a wait, a fault, or bytes. -/
def State.readHdr (s : State) (k : Task) (x : Ctx) (h : Nat) : Xfer :=
  (List.range 36).foldl (fun acc i =>
    match acc with
    | .got bs p =>
      let va := h + 8 * i
      let got := fun (key : Nat) => Xfer.got (bs ++ k.bytes s key 8) (p || s.readsPoison k key 8)
      (match x.check va 8 false with
       | .ok (.scratch off) => .got (bs ++ Memory.readN k.scratch off 8) (p || k.spoisoned off 8)
       | .ok (.priv off) => got (privKey k.uid x.r.thr off)
       | .ok .glob =>
         (match s.locate k.asid va .r with
          | .ok key _ _ =>
            (match (s.peerOf key).map s.peerSt with
             | some .lost => .got (bs ++ List.replicate 8 0) true
             | some .unreachable | some .held => .wait
             | _ => if s.sentOthers k.uid key 8 then .wait else got key)
          | .zero | .wake _ => .got (bs ++ List.replicate 8 0) p
          | .fault .synonym => .stop 1 0 true
          | .fault _ => .stop 0 0 true
          | .absent anon => .absent va anon
          | .wait => .wait
          | .hole key => .hole key)
       | .bad c => .stop (2 + c.code) va false)
    | e => e) (.got [] false)

/-- The pad that a launch packet at WPTR needs, and whether the ring has room for both (R388). -/
def QEntry.launchPad (e : QEntry) : Nat := if 2 ^ e.logsz < e.wptr % 2 ^ e.logsz + 320 then 2 ^ e.logsz - e.wptr % 2 ^ e.logsz else 0
def QEntry.launchFits (e : QEntry) : Bool := decide (e.launchPad + 320 ≤ 2 ^ e.logsz - e.fill)

/-- Put a launch packet, after a pad where the ring's end requires one, into a device queue (R388). -/
def State.ringPut (s : State) (n : Nat) (e : QEntry) (pad : Nat) (hdr : List Byte) : Option State :=
  let w := e.wptr % 2 ^ e.logsz
  let padWord := leBytes 8 (pad / 64 * 256 + 2)
  let s1? := if pad = 0 then some s else s.devStoreCoh e.asid (e.rbase + w) padWord
  let at_ := e.rbase + (e.wptr + pad) % 2 ^ e.logsz
  let bytes := leBytes 8 0x501 ++ List.replicate 24 0 ++ hdr
  let s2? := (List.range 40).foldl (fun acc i =>
    match acc with
    | some st => st.devStoreCoh e.asid (at_ + 8 * i) ((bytes.drop (8 * i)).take 8)
    | none => none) s1?
  s2?.map fun st => st.qPut n { e with wptr := (e.wptr + pad + 320) % 2 ^ 64 }

/-- LAUNCH for one thread (R388). -/
def launchBody (i : Instr) (wait : Bool) (d a : Opnd) (x : Ctx) (st0 : State) : Out :=
  let h := (x.d a).toNat
  let end_ := fun (st : State) (w : Word) => Out.ok (st.updThread x.r fun t => t.puts (putW d w))
  let bad := (List.range 36).findSome? fun j => match x.check (h + 8 * j) 8 false with
    | .bad c => some (c, h + 8 * j)
    | .ok _ => none
  if h % 8 ≠ 0 then .trap .align 0 0 (x.d a)
  else
    match bad with
    | some (c, va) => .trap c 0 0 (BitVec.ofNat 64 va)
    | none =>
      let st := st0.commit x.r
      match st.task? x.r.core x.r.slot with
      | none => .ok st
      | some k =>
        match st.readHdr k x h with
        | .got _ true => .ok (st.updThread x.r fun t => t.defer .uncorr 0 x.t.pc 0)
        | .got bs false =>
          let st := (List.range 36).foldl (fun s1 j => s1.copyTouch k.asid (h + 8 * j)) st
          (match st.devQueue k.asid with
           | none => end_ st (status Code.absent 0)
           | some (n, e) =>
             if e.halt then end_ st (status Code.absent 0)
             else
               let pad := e.launchPad
               if !e.launchFits then end_ st (status Code.qfull 0)
               else
                 match st.ringPut n e pad bs with
                 | none => end_ st (status Code.absent 0)
                 | some st1 =>
                   let ptr := (e.wptr + pad) % 2 ^ 64
                   if wait then
                     let (id, st2) := st1.fresh
                     let lw : LWait := { queue := n, ptr := ptr, parent := x.r, op := id, uid := k.uid }
                     let st3 := { st2 with agents := { st2.agents with lwaits := st2.agents.lwaits ++ [lw] } }
                     .ok (st3.addOp x.r { mkOp id i x.t.pc true (.engine [d]) with closed := true })
                   else end_ st1 (status Code.ok (ptr / 64)))
        | .stop 1 _ _ => .ok (st.updThread x.r fun t => t.defer .synonym 0 x.t.pc 0)
        | .stop _ _ _ => .ok (st.updThread x.r fun t => t.defer .prot 0 x.t.pc 0)
        | _ => .ok (st.updThread x.r fun t => t.puts (putW d (status Code.absent 0)))

/-- The header of an active thread can be read now: no page of it is absent or in transition (R388, R400). -/
def State.hdrReady (s : State) (k : Task) (x : Ctx) (h : Nat) : Bool :=
  match s.readHdr k x h with
  | .absent .. | .wait => false
  | _ => true

/-- The words of the ring that m launch packets write, one after another, as far as they fit. -/
def QEntry.launchWords : Nat → QEntry → List Nat
  | 0, _ => []
  | m + 1, e =>
    if !e.launchFits then []
    else
      (if e.launchPad = 0 then [] else [e.addr e.wptr]) ++ (List.range 40).map (fun i => e.addr (e.wptr + e.launchPad) + 8 * i) ++
        QEntry.launchWords m { e with wptr := (e.wptr + e.launchPad + 320) % 2 ^ 64 }

/-- The words of the device queue's ring that a LAUNCH of m threads writes can be written now (R437). -/
def State.ringReady (s : State) (k : Task) (m : Nat) : Bool :=
  match s.devQueue k.asid with
  | none => true
  | some (_, e) => e.halt || !((QEntry.launchWords m e).any fun a => s.storeWaits e.asid a)

/-- LAUNCH with its form. -/
def launchExec (i : Instr) (wait : Bool) (d a : Opnd) (s : State) : Res :=
  .next (issueWith i (fun st k q acts => launchPre st k q acts && st.ringReady k acts.length &&
      acts.all fun e => let x := st.ctx k q e.1 e.2; ((x.d a).toNat % 8 != 0) || st.hdrReady k x (x.d a).toNat)
    (launchBody i wait d a) s)

/-- LAUNCH (R388). -/
def execLaunch (h : Hdr) (wait : Bool) (d a : Opnd) (s : State) : Res := launchExec (.launch h wait d a) wait d a s

end Machine
end Sys2Proof
end

