-- ==== Sys2Proof/Machine/Control.lean ====
section
/-! DEFINITION. The control instructions (R145 to R156) and the return from a handler (R419). -/

namespace Sys2Proof
namespace Machine

/-- Transfer one thread to a target (R145): f is what the instruction changes in the thread, g in the machine, where
the target is a valid header. An invalid one traps with the program counter at the transfer word (R116 and R145 differ; log
entry 84). An absent target takes a ticket on the fetch and the thread waits at the word (R400). -/
def transferTo (x : Ctx) (st : State) (target : Nat) (f : Thread → Thread) (g : State → State) : Out :=
  match st.headerAt x.k target with
  | .ok w => .moved ((g st).updThread x.r fun t => (f t).enter (BitVec.ofNat 64 target) w st.clk.cycles true)
  | .bad => .trap .notheader 0 0 0
  | .prot => .stay (st.updThread x.r fun t => t.defer .prot 0 x.t.pc 0)
  | .synonym => .stay (st.updThread x.r fun t => t.defer .synonym 0 x.t.pc 0)
  | .busy => .stay st
  | .absent anon _ =>
    match st.openTicket x.r 0 none x.k.uid x.k.asid target (!anon && st.hosten x.k.asid) with
    | some (i, st1) => .stay (st1.updThread x.r fun t => { t with fetchTicket := some i })
    | none => .stay st

/-- A target a signed number of words from the transfer word. -/
def relTarget (x : Ctx) (off : BitVec 32) : Nat := (x.t.pc + (off.signExtend 64 <<< 3)).toNat

/-- NOP (R147). -/
def execNop (h : Hdr) (s : State) : Res := .next (issue (.nop h) (fun _ st => .ok st) s)

/-- BRA (R148). -/
def execBra (h : Hdr) (off : BitVec 32) (s : State) : Res :=
  .next (issue (.bra h off) (fun x st => transferTo x st (relTarget x off) id id) s)

/-- BRX (R148). -/
def execBrx (h : Hdr) (a : Opnd) (s : State) : Res :=
  .next (issue (.brx h a) (fun x st => transferTo x st (x.d a).toNat id id) s)

/-- BRX .rel (R148). -/
def execBrxRel (h : Hdr) (a : Opnd) (s : State) : Res :=
  .next (issue (.brxRel h a) (fun x st => transferTo x st (relTarget x (x.w a)) id id) s)

/-- An access of the thread to a range of its private window is still to be performed (R149). -/
def privBusy (t : Thread) (off n : Nat) : Bool :=
  t.ops.any fun o => match o.acc? with
    | some a => (match a.place with
                 | .priv p => decide (p < off + n) && decide (off < p + a.n)
                 | _ => false)
    | none => false

/-- The record's bytes are free of earlier accesses, and the version can take it: where the group's records could overflow
the version, each thread may commit (R149, R211 to R213). -/
def recordPre (down : Nat) (st : State) (k : Task) (_ : Run) (acts : List (Nat × Thread)) : Bool :=
  let fits := down == 0 || !st.overflowsBy k acts.length
  acts.all fun e =>
    let off := e.2.csp.toNat - down - privBase
    !privBusy e.2 off 16 && !st.commitHeld k && (fits || st.mayCommit k e.2)

/-- CALL with its target (R150). -/
def callBody (target : Ctx → Nat) (x : Ctx) (st : State) : Out :=
  let csp := x.t.csp.toNat
  let rec_ : DWord := x.t.csp - 16
  if csp % 8 ≠ 0 then .trap .align 0 0 rec_
  else if csp < privBase + 16 ∨ privBase + x.k.hd.privb < csp then .trap .stack 0 0 rec_
  else
    transferTo x st (target x) (fun t => { t with csp := rec_, rpt := 0 })
      (fun s1 => s1.verWrite x.r (privKey x.k.uid x.r.thr (csp - 16 - privBase))
        (leBytes 8 (x.t.pc + 8).toNat ++ leBytes 8 x.t.rpt.toNat))

/-- CALL label. -/
def execCall (h : Hdr) (off : BitVec 32) (s : State) : Res :=
  .next (issueWith (.call h off) (recordPre 16) (callBody fun x => relTarget x off) s)

/-- CALL of a pair. -/
def execCallIndirect (h : Hdr) (a : Opnd) (s : State) : Res :=
  .next (issueWith (.callIndirect h a) (recordPre 16) (callBody fun x => (x.d a).toNat) s)

/-- RET (R151). -/
def retBody (x : Ctx) (st : State) : Out :=
  let csp := x.t.csp.toNat
  if csp % 8 ≠ 0 then .trap .align 0 0 x.t.csp
  else if csp < privBase ∨ privBase + x.k.hd.privb < csp + 16 then .trap .stack 0 0 x.t.csp
  else
    let key := privKey x.k.uid x.r.thr (csp - privBase)
    if st.readsPoison x.k key 16 then .stay (st.updThread x.r fun t => t.defer .uncorr 0 x.t.pc 0)
    else
      let target := leNat (x.k.bytes st key 8)
      let point := leNat (x.k.bytes st (key + 8) 8)
      transferTo x st target (fun t => { t with csp := x.t.csp + 16, rpt := BitVec.ofNat 64 point }) id

/-- RET. -/
def execRet (h : Hdr) (s : State) : Res := .next (issueWith (.ret h) (recordPre 0) retBody s)

/-- A thread ends: its register results in flight are discarded, its memory and engine work goes on (R152). -/
def Thread.finish (t : Thread) : Thread :=
  { t with
    ended := true, wait := .none, held := none, trap := none
    ops := t.ops.filter fun o => match o.kind with | .result _ => false | _ => true }

/-- The task has ended in the ordinary way once every thread has (R19). -/
def State.endCheck (s : State) (core slot : Nat) : State :=
  if s.allEnded core slot then
    (s.updTask core slot fun k => { k with ending := some (k.ending.getD 0) }).retire core slot
  else s

/-- EXIT (R152). -/
def execExitThreads (h : Hdr) (s : State) : Res :=
  .next (issueWith (.exitThreads h) (fun st k _ acts => acts.all fun e => st.mayCommit k e.2)
    (fun x st => .moved (((st.commit x.r).updThread x.r Thread.finish).endCheck x.r.core x.r.slot)) s)

/-- What a YIELD's demotion waits for (R52): the threads of the core that are ready when it executes, by key, each with
its `issued` of then. The group's inactive members are among them; its active ones, which the YIELD demotes, are not
(log entry 35). s0 is the state the word issues in and st the one in which its members have issued it. -/
def State.coreReady (s0 st : State) (core : Nat) (q : Run) (h : Hdr) : List (Nat × Nat) :=
  (Assoc.range s0.threads (core * 32 * 4096) (core * 32 * 4096 + 17 * 4096)).filterMap fun e =>
    if (e.1 / 4096 == taskKey q.core q.slot && q.members.contains (e.1 % 4096) && e.2.active h) ||
        !(match Assoc.find? s0.tasks (e.1 / 4096) with | some k => s0.ready k e.2 | none => false) then none
    else some (e.1, ((Assoc.find? st.threads e.1).map fun t => t.issued).getD 0)

/-- YIELD: the active threads are demoted below every thread of the core that is ready now (R52, R153). -/
def execYieldCore (h : Hdr) (s : State) : Res :=
  .next (issue (.yieldCore h) (fun x st =>
    match x.s.curRun with
    | some (_, q) => .ok (st.updThread x.r fun t => { t with demoted := x.s.coreReady st x.r.core q h })
    | none => .ok st) s)

/-- WAITT at issue: a deadline already reached ends the wait at once (R154). -/
def waittBody (d : Opnd) (deadline : Ctx → Nat) (x : Ctx) (st : State) : Out :=
  if deadline x ≤ st.clk.time then .ok (st.updThread x.r fun t => t.puts (putD d (BitVec.ofNat 64 st.clk.time)))
  else .stay (st.updThread x.r fun t => { t with wait := .time (deadline x) d })

/-- WAITT .abs. -/
def execWaittAbs (h : Hdr) (d a : Opnd) (s : State) : Res :=
  .next (issue (.waittAbs h d a) (waittBody d fun x => (x.d a).toNat) s)

/-- WAITT .rel. -/
def execWaittRel (h : Hdr) (d a : Opnd) (s : State) : Res :=
  .next (issue (.waittRel h d a) (waittBody d fun x => (BitVec.ofNat 64 x.s.clk.time + x.d a).toNat) s)

/-- WAITT_DEADLINE: TIME has reached the deadline of a waiting thread; D receives TIME (R154). -/
def execWaittDeadline (r : TRef) (s : State) : Res :=
  match s.thread? r with
  | some t =>
    (match t.wait with
     | .time deadline d =>
       let s1 := s.atLeast deadline
       .next (s1.endWait r (putD d (BitVec.ofNat 64 s1.clk.time)))
     | _ => .next s)
  | none => .next s

/-- TRAP (R155). -/
def execTrap (h : Hdr) (a : Opnd) (code : Nat) (s : State) : Res :=
  .next (issue (.trap h a code) (fun x _ => .trap .swtrap code (x.w a) 0) s)

/-- The debug state a context is in: in Sealed, that of the chip for named contexts alone (R469, R473). -/
def State.dbgOf (s : State) (asid : Nat) : Dbg :=
  if s.plat.sec = .openDebug ∨ s.plat.dbgAsids.contains asid then s.plat.dbg else .off

/-- The debug state in effect in the current run: a change takes effect at run boundaries (R469). -/
def State.dbgRun (s : State) (asid : Nat) : Dbg :=
  match s.curRun.bind fun q => q.2.dbg with
  | some d => if s.plat.sec = .openDebug ∨ d.2.contains asid then d.1 else .off
  | none => s.dbgOf asid

/-- A trace event enters the chip's buffer, or is discarded and counted (R470). -/
def State.traceEvent (s : State) (e : TraceRec) : State :=
  if !(s.regs.trctl.getLsbD 31) || decide (64 ≤ s.trace.length) then
    { s with regs := { s.regs with trdrop := min (s.regs.trdrop + 1) (2 ^ 32 - 1) } }
  else { s with trace := s.trace ++ [e] }

/-- BKPT by debug state (R156): in state halt the thread halts at the end of this run, which the BKPT ends, once its results
in flight are written (R130). -/
def execBkpt (h : Hdr) (n : Nat) (s : State) : Res :=
  .next (issue (.bkpt h n) (fun x st =>
    match st.dbgRun x.k.asid with
    | .off => .trap .bkpt n 0 0
    | .trace => .ok (st.traceEvent { time := st.clk.time, lnum := x.k.lnum, thr := x.r.thr, core := x.r.core,
                                     pc := x.t.pc.toNat, tidx := x.k.tidx, sel := n })
    | .halt => .ok (st.updThread x.r fun t => { t with haltReq := true })) s)

/-- TRET: THE RETURN FROM A HANDLER (R419). Without MOD the thread resumes in the block of the trapping word, at it or,
after a software trap or breakpoint, at the next; with MOD it enters the header TPC names. -/
def tretBody (x : Ctx) (st : State) : Out :=
  if !x.t.inh then .trap .illegal 0 0 0
  else if !x.t.modf then
    let code := fld x.t.tcause.toNat 24 8
    let target := if code = 0xC ∨ code = 0xD then x.t.tpc + 8 else x.t.tpc
    let t1 := fun (t : Thread) => { t with pc := target, blk := x.t.tblk, inh := false, wins := [], ops := closeWindows t.ops }
    let st1 := st.updThread x.r t1
    .moved (if (t1 x.t).atHeader then st1.enterAt x.r x.k true else st1)
  else
    match st.headerAt x.k x.t.tpc.toNat with
    | .bad => .trap .illegal 1 0 0
    | _ => transferTo x st x.t.tpc.toNat (fun t => { t with inh := false }) id

/-- TRET. -/
def execTret (h : Hdr) (s : State) : Res := .next (issue (.tret h) tretBody s)

end Machine
end Sys2Proof
end

