-- ==== Sys2Proof/Machine/Save.lean ====
section
/-! DEFINITION. Saves, restores and pre-emption (R385, R389, R412 to R416), the agent's choice of a task (R384), and
fault tickets, their service and replay (R399 to R403). -/

namespace Sys2Proof
namespace Machine

/- ## Saving a task (R130, R415) -/

/-- The operations of a thread that a ticket stands before: those on tickets, and the accesses that may not be performed
before one of these (R402). A save keeps them as accesses to be issued again (R130, R415). -/
def State.heldBack (s : State) (k : Task) (ops : List Op) : List Op :=
  ops.foldl (fun (hs : List Op) o => if o.ticket.isSome || hs.any (fun e => s.mustPrecede k.asid e o) then hs ++ [o] else hs) []

/-- A thread lets its task be saved: its results are written, its accesses performed or held back by tickets, no halt is asked
for, and no cause is pending unless the thread is halted or its handler's page is on a ticket (R130, R400, R412). -/
def State.threadReady (s : State) (k : Task) (t : Thread) : Bool :=
  let hs := s.heldBack k t.ops
  t.acks == 0 && !(t.haltReq && !t.ended) && (t.halted || t.fetchTicket.isSome || (t.trap.isNone && t.deferred.isEmpty)) &&
    t.ops.all fun o => hs.contains o || (!o.inFlight && (match o.kind with | .engine _ => true | _ => false))

/-- A task stands between runs with nothing in flight but what a save keeps (R43, R415). -/
def State.saveReady (s : State) (core slot : Nat) (k : Task) : Bool :=
  !(s.runs.any fun e => e.2.core == core && e.2.slot == slot) && (s.copiesOf core k.uid).isEmpty && k.frozen.isNone &&
    k.ending.isNone && (s.threadsOf core slot).all fun e => s.threadReady k e.2

/-- The address of a new save area: an agent's choice, never one in use (log entry 6). -/
def State.saveArea (s : State) : Nat × State :=
  let (n, s1) := s.useFree
  let a := Config.agentAddr n
  (if (Assoc.find? s.agents.saved a).isSome then maxOf (Assoc.keys s.agents.saved) + 1 else a, s1)

/-- A thread as a save keeps it: at a header, a register at or above LIVE is kept or reads zero, by a free choice
(R38); accesses on tickets become plain ones (R415); holds and ages are taken as lengths. -/
def Thread.saved (t : Thread) (thr cycles base : Nat) : Thread :=
  let live := match t.blk with
    | some b => if b.fresh then b.live else 1024
    | none => 1024
  { t with
    regs := t.regs.filter fun e => decide (e.1 < live) || Config.liveKept (base + thr * 1024 + e.1)
    held := t.held.map fun c => cycles - c
    wins := []
    ops := (closeWindows t.ops).map fun (o : Op) => { o with ticket := none }
    fetchTicket := none, demoted := [] }

/-- A macro operation or an allotment of a task moves to another slot. -/
def EngOp.at_ (o : EngOp) (slot : Nat) : EngOp := { o with slot := slot }
def AllotOp.at_ (g : AllotOp) (slot : Nat) : AllotOp := { g with slot := slot }

/-- The operations of one task in a macro's queue. -/
def Macro.ofTask (m : Macro) (uid : Nat) : List EngOp := m.queue.filter fun o => o.uid == uid

/-- Write a task's state to a save area and free its core (R415): every FREEZE .save of it ends (R425), and PREWT of its launch,
which has a task to place again, counts from now on (R385). The model's choice: the task's current group is dropped, R415 listing
none (log entry 94). -/
def State.saveTask (s : State) (core slot : Nat) (k : Task) : State :=
  let (addr, s1) := s.saveArea
  let c := s1.core core
  let base := s1.free
  let ts := (s1.threadsOf core slot).map fun e => (e.1, e.2.saved e.1 s1.clk.cycles base)
  let k1 : Task := { k with
    saving := none, slice := s1.sliceLeft core slot k, vein := k.vein || (s1.veinOf k.asid).isSome, curGroup := none }
  let sv : Saved :=
    { task := k1, threads := ts
      macOps := (c.mac0.ofTask k.uid).map (fun o => (false, o)) ++ (c.mac1.ofTask k.uid).map fun o => (true, o)
      grants := c.grants.filter fun g => g.uid == k.uid }
  let s2 := (s1.dropEngine core slot k.uid).updCore core fun co =>
    { co with
      mac0 := if co.mac0.resident = some k.uid then { co.mac0 with resident := none } else co.mac0
      mac1 := if co.mac1.resident = some k.uid then { co.mac1 with resident := none } else co.mac1 }
  let tick := fun (e : Nat × Ticket) => if e.2.uid = k.uid then (e.1, { e.2 with uid := 0 }) else e
  let mine := s2.agents.saves.filter fun e => e.2.2.1 == k.uid
  let s3 := { s2 with
    free := base + 2 ^ 22
    tasks := Assoc.del s2.tasks (taskKey core slot)
    threads := s2.threads.filter fun e => e.1 / 4096 != taskKey core slot
    agents := { s2.agents with
      saved := Assoc.put s2.agents.saved addr sv
      tickets := s2.agents.tickets.map tick
      saves := s2.agents.saves.filter fun e => e.2.2.1 != k.uid } }
  let s4 := if k.parked.isSome then s3 else s3.updLaunch k.lnum fun l => { l with since := s.clk.time }
  mine.foldl (fun st e => (st.pokeCoh e.2.2.2 (leBytes 8 addr)).endEngine e.1.core e.1.slot e.2.1 (status Code.ok 0)) s4

/-- The save deadline of a task in nanoseconds (R413). -/
def State.saveNs (s : State) (k : Task) : Nat := (if k.hd.save = 0 then s.regs.savdef else k.hd.save) * 1000

/-- Begin a level-2 save (R413). -/
def State.beginSave (s : State) (core slot : Nat) : State :=
  match s.task? core slot with
  | none => s
  | some k =>
    if k.saving.isSome || k.frozen.isSome || k.ending.isSome then s
    else (s.setTask core slot { k with saving := some (s.clk.time + s.saveNs k) }).event core 3

/-- A save under way ends when its task stands ready for it. -/
def State.trySave (s : State) (core slot : Nat) : State :=
  match s.task? core slot with
  | none => s
  | some k => if k.saving.isSome && s.saveReady core slot k then s.saveTask core slot k else s

/-- Every save that can end ends; a FREEZE .save whose task is gone ends with ABSENT (R425), and one of a frozen task waits for its
end (log entry 103). -/
def State.saveSettle (s : State) : State :=
  let s1 := s.tasks.foldl (fun st e => st.trySave (e.1 / 32) (e.1 % 32)) s
  let gone := s1.agents.saves.filter fun e => match s1.findUid e.2.2.1 with
    | some (c, t) => (match s1.task? c t with | some k => k.saving.isNone && k.frozen.isNone | none => true)
    | none => true
  gone.foldl (fun st e =>
    { st with agents := { st.agents with saves := st.agents.saves.filter fun x => x.2.1 != e.2.1 } }.endEngine e.1.core e.1.slot
      e.2.1 (openStatus 121 Code.absent)) s1

/-- FORCE_SAVE: a task is force-saved at its run boundary (R415). -/
def execForceSave (core slot : Nat) (s : State) : Res := .next ((s.beginSave core slot).trySave core slot)

/- ## Restoring a task (R416) -/

/-- Fetch a read-only staged tile again from its recorded source (R216, R263). -/
def State.refetchRo (s : State) (core slot : Nat) (k : Task) (x : RoRec) : State :=
  s.startAgain core slot k x.moves x.gather (some x.dst) none

/-- A restored task's weight tile for a macro (R303, R415): one under a record is fetched again; one without is made resident
where no other task's operation is queued on the macro. -/
def State.restoreTile (s : State) (core slot : Nat) (k : Task) (mb : Bool) : State :=
  match k.mt mb with
  | none => s
  | some t =>
    if t.src ≠ 0 then s.refetchTile core slot mb k t
    else if ((s.core core).mac mb).queue.any fun o => o.uid != k.uid then s
    else s.updMac core mb fun m => { m with resident := some k.uid }

/-- Restore a saved task into a slot of a core (R416). -/
def State.restore (s : State) (addr core slot : Nat) : State :=
  match Assoc.find? s.agents.saved addr with
  | none => s
  | some v =>
    let k : Task := { v.task with sliceFrom := s.clk.time, vein := false, drains := v.task.drains.map fun o => o.at_ slot }
    let back := fun (t : Thread) => { t with held := t.held.map fun n => s.clk.cycles - n }
    let s1 := { (s.setTask core slot k) with
      threads := v.threads.foldl (fun m (e : Nat × Thread) => Assoc.put m (thrKey ⟨core, slot, e.1⟩) (back e.2)) s.threads
      agents := { s.agents with saved := Assoc.del s.agents.saved addr } }
    let ops := fun (mb : Bool) => (v.macOps.filter fun o => o.1 == mb).map fun o => o.2.at_ slot
    let s2 := s1.updCore core fun c =>
      { c with
        mac0 := { c.mac0 with queue := c.mac0.queue ++ ops false }
        mac1 := { c.mac1 with queue := c.mac1.queue ++ ops true }
        grants := c.grants ++ v.grants.map fun g => g.at_ slot }
    let s3 := k.ro.foldl (fun st x => st.refetchRo core slot k x) (s2.ungate (core / 8))
    (s3.restoreTile core slot k false).restoreTile core slot k true

/- ## The agent's choice (R384) -/

/-- The saved tasks of a launch that may be restored on this chip now, lowest task index first. -/
def State.savedOf (s : State) (lnum : Nat) : Option (Nat × Saved) :=
  (s.agents.saved.filter fun e => e.2.task.lnum == lnum && e.2.task.parked.isNone &&
      (!e.2.task.vein || (s.veinOf e.2.task.asid).isSome)).foldl (fun best e =>
    match best with
    | none => some e
    | some b => if e.2.task.tidx < b.2.task.tidx then some e else some b) none

/-- A launch has a task to place. -/
def State.hasTask (s : State) (lnum : Nat) (l : Launch) : Bool :=
  decide (l.st = .placeable) && ((s.savedOf lnum).isSome || decide (l.counter < l.count))

/-- A core admits the next task of a launch: its saved task of lowest index before any new one (R413). -/
def State.admits (s : State) (core lnum : Nat) (l : Launch) : Bool :=
  s.hasTask lnum l &&
    match s.savedOf lnum with
    | some (_, v) => s.admitsSaved core v
    | none => s.admitsNew core l

/-- The launch an agent takes a task of (R384): the highest effective priority, then the lowest number. -/
def State.pick (s : State) (core : Nat) : Option (Nat × Launch) :=
  s.agents.launches.foldl (fun best e =>
    if !s.admits core e.1 e.2 then best
    else
      match best with
      | none => some e
      | some b => if b.2.prio < e.2.prio then some e else some b) none

/-- A launch has had a task placed on a core: its prohibitions there end (R413). -/
def State.liftBars (s : State) (core lnum : Nat) : State :=
  s.updCore core fun c => { c with barred := c.barred.filter fun b => b.2.1 != lnum }

/-- TASK_PLACEMENT_CHOICE: the agent of a core places a task of the chosen launch (R384, R424). -/
def execTaskPlacementChoice (core : Nat) (s : State) : Res :=
  match s.pick core, s.freeSlot core with
  | some (lnum, l), some slot =>
    (match s.savedOf lnum with
     | some (addr, _) =>
       .next (((s.restore addr core slot).updLaunch lnum fun x => { x with since := s.clk.time }).liftBars core lnum)
     | none =>
       let s1 := s.release core slot lnum l.asid l.counter l.prio l.hd
       let s2 := s1.updLaunch lnum fun x => { x with counter := x.counter + 1, placed := true, since := s.clk.time }
       .next (s2.liftBars core lnum))
  | _, _ => .next s

/- ## Pre-emption (R385, R389, R413, R414) -/

/-- The resident tasks of a core's slots. -/
def State.residents (s : State) (core : Nat) : List (Nat × Task) :=
  (s.slotsOf core).filterMap fun i => (s.task? core i).map fun k => (i, k)

/-- The core whose resident task has the lowest effective priority below p, with that task's context (R385). -/
def State.victim (s : State) (p : Nat) : Option (Nat × Nat × Nat) :=
  (List.range coreCount).foldl (fun best core =>
    (s.residents core).foldl (fun (b : Option (Nat × Nat × Nat)) e =>
      if p ≤ e.2.prio ∨ e.2.ending.isSome then b
      else
        match b with
        | none => some (core, e.2.asid, e.2.prio)
        | some x => if e.2.prio < x.2.2 then some (core, e.2.asid, e.2.prio) else b) best) none

/-- The tasks of a context on a core. -/
def State.ofContext (s : State) (core asid : Nat) : List (Nat × Task) := (s.residents core).filter fun e => e.2.asid == asid

/-- The first pre-emption level against a context on one core (R413). -/
def State.preempt (s : State) (core asid lnum : Nat) : State :=
  let s1 := (s.updCore core fun c =>
    { c with barred := (c.barred.filter fun b => !(b.1 == asid && b.2.1 == lnum)) ++ [(asid, lnum, s.clk.time)] }).event core 3
  (s1.ofContext core asid).foldl (fun st e => if e.2.hd.drain = 0 then (st.beginSave core e.1).trySave core e.1 else st) s1

/-- PREWT_EXPIRY (R385): a placeable launch has found no core for PREWT. -/
def execPrewtExpiry (lnum : Nat) (s : State) : Res :=
  match Assoc.find? s.agents.launches lnum with
  | none => .next s
  | some l =>
    if s.hasTask lnum l && (List.range coreCount).all (fun c => !s.admits c lnum l) then
      let s1 := s.atLeast (l.since + 1000 * s.regs.prewt)
      let s2 := s1.updLaunch lnum fun x => { x with since := s1.clk.time }
      match s2.victim l.prio with
      | some (core, asid, _) => .next (s2.preempt core asid lnum)
      | none => .next s2
    else .next (s.updLaunch lnum fun x => { x with since := s.clk.time })

/-- The TIME at which a task of a barred context must be gone. -/
def drainDue (since : Nat) (k : Task) : Nat := since + 1000 * k.hd.drain

/-- DRAIN_DEADLINE_EXPIRY (R413): the tasks of the context whose DRAIN has passed go to level 2. -/
def execDrainDeadlineExpiry (core asid : Nat) (s : State) : Res :=
  match (s.core core).barred.find? fun b => b.1 == asid with
  | none => .next s
  | some b =>
    let left := (s.ofContext core asid).filter fun e => e.2.saving.isNone
    match leastOf (left.map fun e => drainDue b.2.2 e.2) with
    | none => .next s
    | some due =>
      let s1 := s.atLeast due
      .next ((left.filter fun e => decide (drainDue b.2.2 e.2 ≤ s1.clk.time)).foldl
        (fun st e => (st.beginSave core e.1).trySave core e.1) s1)

/-- The cores that a pre-emption against a context covers which covers this one: those that a request of the host driver's
names, or this one alone (R413). -/
def State.barredWith (s : State) (core asid : Nat) : List Nat :=
  let host := fun (c : Core) => c.barred.any fun b => b.1 == asid && b.2.1 == 0
  if host (s.core core) then (s.cores.filter fun e => host e.2).map Prod.fst else [core]

/-- SAVE_DEADLINE_EXPIRY (R413): level 3 kills every task of the context on the cores of its pre-emption with OUT 5. -/
def execSaveDeadlineExpiry (core slot : Nat) (s : State) : Res :=
  match s.task? core slot with
  | none => .next s
  | some k =>
    match k.saving with
    | none => .next s
    | some due =>
      let s1 := s.atLeast due
      .next ((s1.barredWith core k.asid).foldl
        (fun st c => (st.ofContext c k.asid).foldl (fun st1 e => st1.killTask c e.1 5) st) s1)

/-- A placeable launch of equal or higher effective priority waits on the chip (R414). -/
def State.rivalWaits (s : State) (p : Nat) : Bool := s.agents.launches.any fun e => s.hasTask e.1 e.2 && decide (p ≤ e.2.prio)

/-- TIME_SLICE_EXPIRY (R414): the slice starts again, in full; the task is saved where a rival waits, and its new slice does
not run while that save is under way. -/
def execTimeSliceExpiry (core slot : Nat) (s : State) : Res :=
  match s.task? core slot with
  | none => .next s
  | some k =>
    match k.slice with
    | none => .next s
    | some left =>
      if (s.threadsOf core slot).any fun e => e.2.halted then .next s
      else
        let s1 := s.atLeast (k.sliceFrom + left)
        let s2 := s1.setTask core slot { k with slice := some (k.hd.tslice * 1000), sliceFrom := s1.clk.time }
        if s.rivalWaits k.prio then
          (let s3 := s2.beginSave core slot
           let s4 := s3.updTask core slot fun k1 => { k1 with sliceFrom := k1.saving.getD s1.clk.time }
           .next (s4.trySave core slot))
        else .next s2

/-- A live thread of a task waits for a child launch that has found no place since its dependences were met (R389). -/
def State.stuckOn (s : State) (core slot uid : Nat) (l : Launch) : Bool :=
  (match l.parent with
   | some (r, _, u) => u == uid && (match s.thread? ⟨core, slot, r.thr⟩ with | some t => !t.ended | none => false)
   | none => false) && decide (l.st = .placeable) && !l.placed

/-- The child a task is stuck on that has waited longest, with its number; the lowest number breaks ties (R389). -/
def State.stuckChild (s : State) (core slot uid : Nat) : Option (Nat × Launch) :=
  (s.agents.launches.filter fun e => s.stuckOn core slot uid e.2).foldl (fun best e =>
    match best with
    | none => some e
    | some b => if e.2.readyAt < b.2.readyAt then some e else some b) none

/-- PARK (R389): the parent is force-saved, and placeable again when its child's signal is written. -/
def execPark (core slot : Nat) (s : State) : Res :=
  match s.task? core slot with
  | none => .next s
  | some k =>
    match s.stuckChild core slot k.uid with
    | none => .next s
    | some (n, l) =>
      if k.frozen.isSome || k.ending.isSome || k.parked.isSome then .next s
      else
        let s1 := s.atLeast (l.readyAt + 1000 * s.regs.parkt)
        let s2 := (s1.beginSave core slot).updTask core slot fun k1 => { k1 with parked := some n }
        .next (s2.trySave core slot)

/-- The host driver's request through Vebry begins the first level against a context on the cores it names, and ends it
(R413); no row of the opcode table carries the request (log entry 56). -/
def State.hostPreempt (s : State) (cores : List Nat) (asid : Nat) : State := cores.foldl (fun st c => st.preempt c asid 0) s
def State.hostPreemptEnd (s : State) (cores : List Nat) (asid : Nat) : State :=
  cores.foldl (fun st c => st.updCore c fun x => { x with barred := x.barred.filter fun b => !(b.1 == asid && b.2.1 == 0) }) s

/-- A task's pool share, checkpoint reserve or version lines are found uncorrectable: it consumes the error, at its lowest live
thread (R409), and after its rollback is force-saved, to be restored on another core (R410); no row of the opcode table carries the finding (log entry 56). -/
def State.errorFound (s : State) (core slot : Nat) : State :=
  let p := s.firstLive core slot
  (s.deferOr ⟨core, slot, p.1⟩ .uncorr 0 p.2).beginSave core slot

/-- FHOLD_EXPIRY (R411): a frozen task is killed. -/
def execFholdExpiry (core slot : Nat) (s : State) : Res :=
  match s.task? core slot with
  | none => .next s
  | some k =>
    match k.frozen with
    | none => .next s
    | some t0 => .next ((s.atLeast (t0 + 1000 * s.regs.fhold)).killTask core slot 3)

/- ## Fault tickets (R400 to R403) -/

/-- Where a thread's next fetch, or the header its next LAUNCH reads, meets an absent page. -/
def State.fetchAbsent (s : State) (r : TRef) (k : Task) (t : Thread) (pc : Nat) : Option (Nat × Bool) :=
  match s.fetchWord k pc with
  | .absent anon _ => some (pc, anon)
  | .ok w =>
    if t.atHeader then none
    else
      match decodeWord w none with
      | .ok (.launch _ _ _ a) =>
        let x : Ctx := { s := s, r := r, k := k, t := t }
        (match s.readHdr k x (x.d a).toNat with
         | .absent va anon => some (va, anon)
         | _ => none)
      | _ =>
        (match s.fetchWord k (pc + 8) with
         | .absent anon _ => if fld w 57 7 = 41 then some (pc + 8, anon) else none
         | _ => none)
  | _ => none

/-- The peer that owns the page of an address. -/
def State.pagePeer (s : State) (asid va : Nat) : Option Nat :=
  [Kind.r, .w, .x].findSome? fun k => match s.translate asid va k with
    | .ok key _ _ => s.peerOf key
    | _ => none

/-- Set or clear the ticket of an operation of a thread. -/
def State.setOpTicket (s : State) (r : TRef) (op : Nat) (x : Option Nat) : State :=
  s.updThread r fun t => { t with ops := t.ops.map fun (o : Op) => if o.id = op then { o with ticket := x } else o }

/-- Set or clear the ticket of a copy. -/
def State.setCopyTicket (s : State) (core cslot : Nat) (x : Option Nat) : State :=
  s.updCore core fun c => { c with copies := Assoc.modify c.copies cslot fun (o : CopyOp) => { o with ticket := x } }

/-- The absent page that a transfer in a copy slot meets (R263). -/
def State.copyAbsent (s : State) (core cslot : Nat) (k : Task) (c : CopyOp) : Option (Nat × Bool) :=
  let of := fun (x : Xfer) => match x with
    | .absent va anon => some (va, anon)
    | _ => none
  match c.done, c.aout, c.alook with
  | some _, _, _ => none
  | none, none, none =>
    (match s.copyRun core cslot c c.left.length with
     | .absent _ _ va anon => some (va, anon)
     | _ => none)
  | none, some x, _ => of (s.assayWrite core c.slot cslot c.bad x.1 x.2.2 c.outParts)
  | none, none, some _ => of (s.assayRead k c.bad c.cuts)

/-- A ticket on the fetch of a thread, opened where it meets an absent page, here or at its owner (R400). -/
def State.fetchReturn (s : State) (r : TRef) (k : Task) (t : Thread) (pc : Nat) : State :=
  let at_ := (s.fetchAbsent r k t pc).orElse fun _ => if s.forwarded k.asid pc .x then some (pc, true) else none
  match t.fetchTicket, at_ with
  | none, some (va, anon) =>
    (match s.openTicket r 0 none k.uid k.asid va (!anon && s.hosten k.asid) with
     | some (i, s1) => s1.setThread r { t with fetchTicket := some i }
     | none => s)
  | _, _ => s

/-- The first page of what a transfer still moves that is a peer's: where its owner may answer with a ticket (R394, R400). -/
def State.copyForwarded (s : State) (k : Task) (c : CopyOp) : Option (Nat × Bool) :=
  if c.done.isSome then none
  else
    (c.parts.drop c.moved).findSome? fun p =>
      if p.1 < privBase ∧ s.forwarded k.asid p.1 .r ∧ !c.bad.contains (s.unitKey k.asid p.1) then some (p.1, true)
      else if p.2.1 < privBase ∧ s.forwarded k.asid p.2.1 .w ∧ !c.bad.contains (s.unitKey k.asid p.2.1) then some (p.2.1, true)
      else none

/-- A ticket on the copy of an identifier, where it meets an absent page (R263). -/
def State.copyReturn (s : State) (r : TRef) (k : Task) (id : Nat) : State :=
  match (s.copiesOf r.core k.uid).find? fun e => e.2.id == id with
  | some (cslot, c) =>
    (match c.ticket, (s.copyAbsent r.core cslot k c).orElse fun _ => s.copyForwarded k c with
     | none, some (va, anon) =>
       (match s.openTicket r id (some (r.core, cslot)) k.uid k.asid va (!anon && s.hosten k.asid) with
        | some (i, s1) => s1.setCopyTicket r.core cslot (some i)
        | none => s)
     | _, _ => s)
  | none => s

/-- A ticket on an access, a copy or an assay read or line copy of a thread, where its page is absent, here or at its owner
(R263, R400). -/
def State.accessReturn (s : State) (r : TRef) (k : Task) (o : Op) : State :=
  match o.acc? with
  | some a =>
    if o.ticket.isSome ∨ a.place ≠ .glob then s
    else
      (let kind := if a.write then Kind.w else .r
       let at_ := match s.locate k.asid a.va kind with
         | .absent anon => some anon
         | _ => if s.forwarded k.asid a.va kind then some true else none
       match at_ with
       | some anon =>
         (match s.openTicket r o.id none k.uid k.asid a.va (!anon && s.hosten k.asid) with
          | some (i, s1) => s1.setOpTicket r o.id (some i)
          | none => s)
       | none => s)
  | none => s.copyReturn r k o.id

/-- A ticket on a remote write of a task, whose page is absent at its owner: it stays unacknowledged until its replay (R400,
R403). -/
def State.writeReturn (s : State) (r : TRef) (k : Task) (id : Nat) : State :=
  match Assoc.find? s.rws id with
  | some w =>
    if w.uid ≠ k.uid ∨ w.copy.isSome ∨ (s.agents.tickets.any fun t => t.2.waiting && t.2.op == id) then s
    else (match s.openTicket r id none k.uid k.asid ((w.cells.head?.map fun e => e.1).getD 0) false with
      | some (_, s1) => s1
      | none => s)
  | none => s

/-- A ticket on the fetch of an agent that checks a launch's header, from the owner of a peer's page (R62, R400). -/
def State.checkReturn (s : State) (lnum : Nat) : State :=
  match Assoc.find? s.agents.launches lnum with
  | some l =>
    (match s.codeForwarded l with
     | some va =>
       if l.st ≠ .check ∨ s.agents.tickets.any (fun t => t.2.waiting && t.2.lnum == some lnum) then s
       else
         (match s.openTicket ⟨coreCount, 0, 0⟩ 0 none 0 l.asid va false with
          | some (i, s1) =>
            { s1 with agents := { s1.agents with tickets := Assoc.modify s1.agents.tickets i fun (t : Ticket) => { t with lnum := some lnum } } }
          | none => s)
     | none => s)
  | none => s

/-- FAULT_TICKET_RETURN: an access, a copy, a remote write or a fetch (operation 0) that meets an absent page receives a
ticket; with the table full it is held (R400). For a page of a reachable peer the row is the owner's answer. Past the last core,
op is the launch whose header an agent checks. -/
def execFaultTicketReturn (r : TRef) (op : Nat) (s : State) : Res :=
  if r.core = coreCount then .next (s.checkReturn op) else
  match s.task? r.core r.slot, s.thread? r with
  | some k, some t =>
    if op = 0 then
      (let pc := match s.runs.find? fun e => e.2.core == r.core && e.2.slot == r.slot && e.2.members.contains r.thr with
         | some e => e.2.pc
         | none => t.pc
       .next (s.fetchReturn r k t pc.toNat))
    else
      match t.ops.find? fun o => o.id == op with
      | some o => .next (s.accessReturn r k o)
      | none => .next (if (Assoc.find? s.rws op).isSome then s.writeReturn r k op else s.copyReturn r k op)
  | _, _ => .next s

/-- A ticket's table entry retires. -/
def State.closeTicket (s : State) (i : Nat) : State :=
  { s with agents := { s.agents with tickets := Assoc.modify s.agents.tickets i fun (t : Ticket) => { t with open_ := false } } }

/-- The replay of a ticket that has been served is still to be performed: its access is outstanding. -/
def State.replaying (s : State) (t : Ticket) : Bool :=
  t.copy.isNone && t.lnum.isNone && t.op != 0 &&
    match s.task? t.ref.core t.ref.slot, s.thread? t.ref with
    | some k, some th => k.uid == t.uid && th.ops.any fun o => o.id == t.op && o.openAcc && o.ticket.isNone
    | _, _ => false

/-- Entries retire when their replays have been performed (R401). -/
def State.ticketSettle (s : State) : State :=
  { s with agents := { s.agents with tickets := s.agents.tickets.map fun (e : Nat × Ticket) =>
      if e.2.open_ && e.2.served && !s.replaying e.2 then (e.1, { e.2 with open_ := false }) else e } }

/-- The ticket is this chip's own to serve: its page is not one that a peer owns (R401). -/
def State.ticketOwn (s : State) (t : Ticket) : Bool :=
  (Assoc.find? s.rws t.op).isNone && !s.forwarded t.asid t.va .r && !s.forwarded t.asid t.va .w && !s.forwarded t.asid t.va .x

/-- The page of a ticket is present, or no walk stands in its way any more. -/
def State.ticketPresent (s : State) (t : Ticket) : Bool :=
  match s.translate t.asid t.va .r with
  | .absent .. => false
  | _ => true

/-- The owner's service of an absent anonymous page of a ticket (R399, R401). -/
def State.serveAnon (s : State) (t : Ticket) : State :=
  match s.translate t.asid t.va .r with
  | .absent true pte => (s.backfill t.asid pte).getD s
  | _ => s

/-- The host has made a page present again that it had invalidated under a lease (R401, R434). -/
def State.freshen (s : State) (asid va : Nat) : State :=
  let all : State := { s with host := { s.host with stale := [] } }
  match all.xlHost asid va .r 0 with
  | .ok key _ _ => { s with host := { s.host with stale := s.host.stale.filter fun p => p != (key - 2 ^ 64) / 4096 } }
  | _ => s

/-- IDLE's event of a notice for a ticket of one of a core's tasks; a launch's ticket is none's (R426). -/
def State.ticketEvent (s : State) (t : Ticket) : State := if t.lnum.isSome then s else s.event t.ref.core 4

/-- The page of a ticket that the owner served by migration is pinned for the replay window (R401). -/
def State.pinPage (s : State) (t : Ticket) : State :=
  { s with agents := { s.agents with pins := Assoc.put s.agents.pins (tlbKey t.asid t.va) (s.clk.time + 1000 * s.regs.rpwin) } }

/-- An access whose service failed completes as poisoned, and its task consumes UNCORR (R401); a copy goes on, with the bytes
of that page poisoned (R263). -/
def State.failAccess (s : State) (t : Ticket) : Res :=
  if let some n := t.lnum then
    .next (s.updLaunch n fun l => { l with badPages := l.badPages ++ [s.unitKey t.asid t.va] })
  else
  match s.task? t.ref.core t.ref.slot, s.thread? t.ref with
  | some k, some th =>
    if k.uid ≠ t.uid then .next s
    else
      match t.copy with
      | some (core, cslot) =>
        (match Assoc.find? (s.core core).copies cslot with
         | some c =>
           if c.id = t.op then .next (s.setCopy core cslot { c with ticket := none, bad := c.bad ++ [s.unitKey t.asid t.va] })
           else .next s
         | none => .next s)
      | none =>
        if t.op = 0 then
          .next (s.setThread t.ref { th with
            fetchTicket := none
            trap := some { cause := .uncorr, detail := 0, pc := th.pc, tval := 0, taddr := 0, deferred := true } })
        else
          match th.ops.find? fun o => o.id == t.op, Assoc.find? s.rws t.op with
          | some o, _ => .next (s.failOp t.ref o .uncorr 0)
          | none, some _ =>
            .next ({ s with rws := Assoc.del s.rws t.op }.updThread t.ref fun x => x.defer .uncorr 0 x.pc 0)
          | none, none => .next s
  | _, _ => .next s

/-- The access of a ticket may go on: its replay is the access itself, performed as issued (R403). -/
def State.replayAccess (s : State) (t : Ticket) : State :=
  match s.task? t.ref.core t.ref.slot with
  | none => s
  | some k =>
    if k.uid ≠ t.uid then s
    else
      match t.copy with
      | some (core, cslot) => s.setCopyTicket core cslot none
      | none => if t.op = 0 then s.updThread t.ref fun th => { th with fetchTicket := none } else s.setOpTicket t.ref t.op none

/-- REPLAY_NOTICE (R401, R403): a notice of another generation is dropped and counted; FAIL completes the access as
poisoned; otherwise the page is served, by this chip or by its owner,
and the access replays; the entry retires when the replay has been performed. -/
def execReplayNotice (id gen : Nat) (fail : Bool) (s : State) : Res :=
  match Assoc.find? s.agents.tickets id with
  | none => .next { s with agents := { s.agents with staleNotices := s.agents.staleNotices + 1 } }
  | some t =>
    if !t.waiting ∨ t.gen ≠ gen then .next { s with agents := { s.agents with staleNotices := s.agents.staleNotices + 1 } }
    else
      let s0 := { s with agents := { s.agents with tickets := Assoc.put s.agents.tickets id { t with served := true } } }.ticketEvent t
      let done := fun (x : Res) => match x with
        | .next s1 => Host.Outcome.next (s1.ticketSettle.retire t.ref.core t.ref.slot)
        | e => e
      if fail then done (s0.failAccess t)
      else if s.ticketOwn t then done (.next (((s0.serveAnon t).freshen t.asid t.va).replayAccess t |>.pinPage t))
      else done (.next (s0.replayAccess t))

/-- The end of a peer's ticket: the requester is told, and a page that has been served is pinned for the replay window
(R401). -/
def State.endPeerTick (s : State) (n : Nat) (t : PTicket) (fail : Bool) : State :=
  let s1 := ({ s with agents := { s.agents with peerTicks := Assoc.del s.agents.peerTicks n } }).send (.replay t.src t.id t.gen fail)
  if fail then s1
  else { s1 with agents := { s1.agents with pins := Assoc.put s1.agents.pins (tlbKey t.asid t.va) (s1.clk.time + 1000 * s1.regs.rpwin) } }

/-- Serve a peer's ticket as far as this chip can now: from the pool, or with nothing left to do (R399, R401). -/
def State.servePeer (s : State) (n : Nat) : State :=
  match Assoc.find? s.agents.peerTicks n with
  | none => s
  | some t =>
    match s.translate t.asid t.va .r with
    | .absent true pte =>
      (match s.backfill t.asid pte with
       | some s1 => s1.endPeerTick n t false
       | none => s)
    | .absent false _ => if s.hosten t.asid then s else s.endPeerTick n t true
    | _ => s.endPeerTick n t false

/-- PRI_RESPONSE: the host answers for the page of a ticket, or, from 4096 on, for the pages of a claim or of a peer's ticket
(R397, R401). -/
def execPriResponse (id : Nat) (ok : Bool) (s : State) : Res :=
  if id < 4096 then
    match Assoc.find? s.agents.tickets id with
    | some t => if t.waiting && t.pri then execReplayNotice id t.gen (!ok) s else .next s
    | none => .next s
  else
    match s.agents.cwaits.find? fun w => w.id + 4096 == id with
    | some w =>
      (match claimWords w.asid w.granted 0 w.words s [] with
       | (_, .host i) =>
         if ok then
           (let w1 := { w with granted := w.granted ++ [i] }
            .next (({ s with agents := { s.agents with cwaits := s.agents.cwaits.map fun (x : CWait) => if x.id = w.id then w1 else x } }).claimTry w1 true))
         else .next (s.claimFail w i 2)
       | _ => .next s)
    | none =>
      match Assoc.find? s.agents.peerTicks (id - 4096) with
      | some t =>
        if !t.pri then .next s
        else if ok then .next ((s.freshen t.asid t.va).endPeerTick (id - 4096) t false)
        else .next (s.endPeerTick (id - 4096) t true)
      | none => .next s

/-- CLMWT_EXPIRY: no frame or no answer within CLMWT: the service of a ticket fails, or a claim does (R397, R401). -/
def execClmwtExpiry (id : Nat) (s : State) : Res :=
  let due := fun (t : Nat) => s.atLeast (t + 1000 * s.regs.clmwt)
  if id < 4096 then
    match Assoc.find? s.agents.tickets id with
    | some t => if t.waiting then execReplayNotice id t.gen true (due t.since) else .next s
    | none => .next s
  else
    match s.agents.cwaits.find? fun w => w.id + 4096 == id with
    | some w =>
      (match claimWords w.asid w.granted 0 w.words (due w.since) [] with
       | (s1, .frame i) => .next (s1.claimFail w i 1)
       | (s1, .host i) => .next (s1.claimFail w i 2)
       | (s1, _) => .next (s1.claimTry w false))
    | none =>
      match Assoc.find? s.agents.peerTicks (id - 4096) with
      | some t => .next ((due t.since).endPeerTick (id - 4096) t true)
      | none => .next s

/-- RPWIN_EXPIRY: a page's pin ends with its replay window (R401). -/
def execRpwinExpiry (page : Nat) (s : State) : Res :=
  match Assoc.find? s.agents.pins page with
  | some due => .next { s.atLeast due with agents := { s.agents with pins := Assoc.del s.agents.pins page } }
  | none => .next s

/-- A frame of this chip is held in place: a lease binds a unit that lies in it (R398), or its page is pinned for a replay
window (R401). -/
def State.framePinned (s : State) (frame : Nat) : Bool :=
  let here := fun (va e lvl : Nat) =>
    let b := pageBits lvl
    fld e 5 2 == 0 && fld e 51 13 == s.chip.toNat &&
      (fld e 12 39 * 2 ^ 12 / 2 ^ b * 2 ^ b + va % 2 ^ b) / 2 ^ 16 == frame / 2 ^ 16
  (s.agents.leases.any fun l => l.2.any fun e => here (e.1 % 2 ^ 41 * 2 ^ 16) e.2.1 e.2.2) ||
  s.agents.pins.any fun p => match s.walkOf (p.1 / 2 ^ 41) (p.1 % 2 ^ 41 * 2 ^ 16) with
    | .leaf e lvl => here (p.1 % 2 ^ 41 * 2 ^ 16) e lvl
    | _ => false

/-- BACKFILL_REFILL: a zeroed 64 KiB frame of this chip joins the pool, and what waits for one goes on: peers' tickets and claims (R399). A frame
that a lease binds or a pin holds is not returned to it (R398). -/
def execBackfillRefill (frame : Nat) (s : State) : Res :=
  if frame % 2 ^ 16 ≠ 0 ∨ hbmBytes ≤ frame ∨ s.agents.pool.contains frame ∨ s.framePinned frame then .next s
  else
    let lo := hbmKey s.chip.toNat frame
    let out := fun (key : Nat) => decide (key < lo) || decide (lo + 2 ^ 16 ≤ key)
    let s1 := { s with
      mem := s.mem.filter fun c => out c.1
      poison := s.poison.filter fun e => out (e.1 * 8)
      agents := { s.agents with pool := s.agents.pool ++ [frame], owner := Assoc.del s.agents.owner (lo / 2 ^ 16) } }
    let s2 := s1.agents.peerTicks.foldl (fun st e => st.servePeer e.1) s1
    .next (s2.agents.cwaits.foldl (fun st w => st.claimTry w false) s2)

/- ## Forwarded accesses and their owners (R326, R394, R401) -/

/-- A peer becomes lost: its tickets retire, and their accesses complete as R326 gives; what this chip serves for it is
dropped (R401). -/
def State.peerTickets (s : State) (c : Nat) : State :=
  let mine := s.agents.tickets.filter fun e => e.2.open_ &&
    (s.pagePeer e.2.asid e.2.va == some c || (Assoc.find? s.rws e.2.op).any fun w => w.peer == c)
  let s1 := mine.foldl (fun st e => (st.closeTicket e.1).replayAccess e.2) s
  { s1 with agents := { s1.agents with peerTicks := s1.agents.peerTicks.filter fun e => e.2.src != c } }

/-- The owner's walk forbids a copy's access: the copy is frozen and completes (R263, R394). -/
def State.copyDenied (s : State) (core cslot : Nat) (k : Task) (c : CopyOp) : State :=
  match s.copyForwarded k c with
  | none => s
  | some (va, _) =>
    let src := (c.parts.drop c.moved).any fun p => p.1 == va && s.forwarded k.asid va .r
    if c.again then (s.againTrap core c .prot 0).copyEnd core cslot c 0
    else (s.copyFreeze core c.slot cslot k.asid).copyEnd core cslot c (status Code.baddesc (0x020000 + if src then 1 else 0))

/-- The owner of a page answers that its own walk forbids the fetch of an agent that checks a launch: the context cannot fetch
the field's word (R62, R394). -/
def State.checkDenied (s : State) (lnum : Nat) : State :=
  match Assoc.find? s.agents.launches lnum with
  | some l =>
    (match s.codeForwarded l with
     | some va => s.updLaunch lnum fun x => { x with badPages := x.badPages ++ [s.unitKey l.asid va] }
     | none => s)
  | none => s

/-- The owner of a page answers that its own walk forbids a forwarded access: the accessing master traps PROT (R394). Past the
last core, op is the launch whose header an agent checks. -/
def State.denied (s : State) (r : TRef) (op : Nat) : State :=
  if r.core = coreCount then s.checkDenied op else
  match s.task? r.core r.slot, s.thread? r with
  | some k, some t =>
    (match t.ops.find? (fun o => o.id == op), Assoc.find? s.rws op, (s.copiesOf r.core k.uid).find? fun e => e.2.id == op with
     | some o, _, _ =>
       (match o.acc? with
        | some a => if a.place = .glob ∧ s.forwarded k.asid a.va (if a.write then .w else .r) then s.failOp r o .prot 0 else s
        | none => (match (s.copiesOf r.core k.uid).find? fun e => e.2.id == op with
          | some (cslot, c) => s.copyDenied r.core cslot k c
          | none => s))
     | none, some w, _ =>
       if w.uid = k.uid ∧ w.copy.isNone then { s with rws := Assoc.del s.rws op }.updThread r fun x => x.defer .prot 0 x.pc 0
       else s
     | none, none, some (cslot, c) => s.copyDenied r.core cslot k c
     | none, none, none =>
       if op = 0 ∧ s.forwarded k.asid t.pc.toNat .x then s.updThread r fun x => x.defer .prot 0 x.pc 0 else s)
  | _, _ => s

end Machine
end Sys2Proof
end

