-- ==== Sys2Proof/Machine/System.lean ====
section
/-! DEFINITION. System registers (R13, R367, R396, R418, R428), TSTATE (R420, R421), and the agent instructions CLAIM,
PLACE, FREEZE, IDLE and DLOG (R422 to R427). -/

namespace Sys2Proof
namespace Machine

/- ## System registers: reading (R428) -/

/-- The chip's registers of R428, by number. -/
def State.chipReg (s : State) (reg : Nat) : Nat :=
  match reg with
  | 0x100 => s.clk.time
  | 0x101 => s.inc.toNat * 2 ^ 16 + s.chip.toNat
  | 0x102 => s.regs.qtab.toNat
  | 0x105 => s.regs.ctxb.toNat
  | 0x107 => s.regs.plto
  | 0x108 => s.regs.alease
  | 0x109 => s.regs.prewt
  | 0x10A => s.regs.parkt
  | 0x10B => s.regs.rpwin
  | 0x10C => s.regs.savdef
  | 0x10D => s.regs.fhold
  | 0x10E => s.regs.clmwt
  | 0x10F => s.agents.pool.length
  | 0x110 => s.regs.trbase.toNat
  | 0x111 => s.regs.trctl.toNat
  | 0x112 => s.regs.trwp.toNat
  | 0x113 => s.regs.trdrop
  | n =>
    if 0x120 ≤ n ∧ n ≤ 0x123 then (s.acfg (n - 0x120)).toNat
    else if 0x124 ≤ n ∧ n ≤ 0x127 then (Assoc.getD s.regs.aroot 0 (n - 0x124)).toNat
    else if 0x130 ≤ n ∧ n ≤ 0x13F then (Assoc.getD s.regs.asalt 0 (n - 0x130)).toNat
    else if 0x140 ≤ n ∧ n ≤ 0x143 then s.pdcfgOf (n - 0x140)
    else if 0x144 ≤ n ∧ n ≤ 0x14B then (Assoc.getD s.regs.pdnbr 0 (n - 0x144)).toNat
    else 0

/-- The registers of thread, task and core scope of R428, then the chip's; a write-only register reads zero. -/
def Ctx.sysReg (x : Ctx) (reg : Nat) : Nat :=
  match reg with
  | 0 => x.t.sstat.toNat
  | 1 => x.k.drophint
  | 2 => (if x.k.peerOvf then 256 else 0) + x.k.peerCount % 256
  | 3 => match x.s.sliceLeft x.r.core x.r.slot x.k with
         | some ns => ns / 1000
         | none => 0xFFFFFFFF
  | 4 => x.k.lnum
  | 5 => x.k.tidx
  | 0x200 => (x.s.core x.r.core).tfair
  | 0x201 => (x.s.core x.r.core).thold
  | n =>
    if 0x10 ≤ n ∧ n ≤ 0x1F then
      (match x.k.peers[n - 0x10]? with
       | some c => 2 ^ 31 + c
       | none => 0)
    else x.s.chipReg n

/-- A strong operation of the thread is outstanding (R246). -/
def Thread.strongOut (t : Thread) : Bool :=
  t.ops.any fun o => match o.kind with
    | .strong .. => true
    | _ => false

/-- SYSRD (R418): a read of SSTAT waits for the thread's strong operations (R246). -/
def execSysrd (h : Hdr) (w : Bool) (d : Opnd) (reg : Nat) (s : State) : Res :=
  .next (issueWith (.sysrd h w d reg)
    (fun _ _ _ acts => reg != 0 || acts.all fun e => !e.2.strongOut)
    (shortWrites fun x =>
      let v := x.sysReg reg
      if w then putD d (BitVec.ofNat 64 v) else putW d (BitVec.ofNat 32 v)) s)

/- ## System registers: writing (R13, R418) -/

/-- TLBINV (R396): a unit's translations, or with bit 47 every one of the ASID. -/
def State.tlbInvalidate (s : State) (v : DWord) : State :=
  let asid := fld v.toNat 48 16
  let page := fld v.toNat 0 41
  { s with
    tlb := s.tlb.filter fun e => !(xlAsid e.1 == asid && (fld v.toNat 47 1 == 1 || xlPage e.1 == page))
    harts := s.harts.map fun (e : Nat × Hart) => (e.1, { e.2 with tlb := e.2.tlb.filter fun x =>
      !(x.1 / 2 ^ 45 == asid && (fld v.toNat 47 1 == 1 || x.1 % 2 ^ 45 / 16 == page)) }) }

/-- TLBINV: the translations are dropped; a leased range keeps what the device pinned (R396). -/
def execTlbinv (v : DWord) (s : State) : Res := .next (s.tlbInvalidate v)

/-- QTAB (R367, R368): a write that sets EN while EN = 1, or LOGN above 20, is ignored; clearing EN writes the entry
cache back. Bits [7:0] are reserved (R13). -/
def State.qtabWrite (s : State) (v : DWord) : State :=
  if (s.qtabEn && v.getLsbD 63) || decide (20 < fld v.toNat 57 5) then s
  else
    let s1 := if s.qtabEn then s.qFlush else s
    { s1 with regs := { s1.regs with qtab := v >>> 8 <<< 8 } }

/-- QTAB_WRITE. -/
def execQtabWrite (v : DWord) (s : State) : Res := .next (s.qtabWrite v)

/-- A value within a field's range. -/
def inRange (lo hi v : Nat) : Bool := decide (lo ≤ v) && decide (v ≤ hi)

/-- Store a chip parameter within its range (R428). -/
def State.param (s : State) (lo hi v : Nat) (f : SysRegs → SysRegs) : State :=
  if inRange lo hi v then { s with regs := f s.regs } else s

/-- PDCFGn (R330, R428): reconfigured only while disabled; enabling starts PH and PHN at 0. -/
def State.pdcfgWrite (s : State) (n : Nat) (v : Word) : State :=
  let v1 := v &&& 0x800FFFFF
  if s.pdEn n then s
  else if v1.getLsbD 31 && !(inRange 1 8 (fld v1.toNat 16 4) && inRange 1 65535 (fld v1.toNat 0 16)) then s
  else ({ s with regs := { s.regs with pdcfg := Assoc.setD s.regs.pdcfg 0 n v1 } }).setPhase n PhaseSt.reset

/-- Vebry offers the granule of an address to the host: its bias is HOST at first (R437; log entry 106). -/
def State.offerGranule (s : State) (addr : Nat) : State :=
  let g := hbmKey s.chip.toNat addr / 2 ^ 16
  if !s.up || decide (hbmBytes ≤ addr) || (Assoc.find? s.host.bias g).isSome then s
  else { s with host := { s.host with bias := Assoc.put s.host.bias g .host } }

/-- Vebry records the owning context of a frame of this chip (R443). -/
def State.recordOwner (s : State) (frame asid : Nat) : State :=
  if !s.up || decide (hbmBytes ≤ frame * 2 ^ 16) then s
  else { s with agents := { s.agents with owner := Assoc.put s.agents.owner (hbmKey s.chip.toNat (frame * 2 ^ 16) / 2 ^ 16) asid } }

/-- The write of a register that needs nothing but its fields stored: reserved bits stay zero (R13), a value outside a
field's range leaves the register unchanged (R418), and registers of a region slot that is enabled ignore it (R343). From 0x10000 on a number is that of the host's BAR4, at the
offset above it: DLSEL and the mailbox's registers are stored, and a write to the log window is dropped (R462, R467; log entry 82).
From 0x20000 on a number is the model's own, for what Vebry sets and the spec gives no number: RCDARK in µs (R453), a granule to be
offered (R437), a frame with its owner (R443), the grandmaster (R451; log entry 106). -/
def State.regWrite (s : State) (core reg : Nat) (v : DWord) : State :=
  let n := v.toNat
  let w := n % 2 ^ 32
  match reg with
  | 0x103 => { s with regs := { s.regs with qkey0 := v } }
  | 0x104 => { s with regs := { s.regs with qkey1 := v } }
  | 0x105 => { s with regs := { s.regs with ctxb := BitVec.ofNat 64 (fld n 22 35 * 2 ^ 22) } }
  | 0x107 => s.param 500 20000 w fun r => { r with plto := w }
  | 0x108 => s.param 1 64 w fun r => { r with alease := w }
  | 0x109 => s.param 5 5000 w fun r => { r with prewt := w }
  | 0x10A => s.param 10 10000 w fun r => { r with parkt := w }
  | 0x10B => s.param 10 10000 w fun r => { r with rpwin := w }
  | 0x10C => s.param 10 100000 w fun r => { r with savdef := w }
  | 0x10D => s.param 100 1000000 w fun r => { r with fhold := w }
  | 0x10E => s.param 10 100000 w fun r => { r with clmwt := w }
  | 0x110 => { s with regs := { s.regs with trbase := BitVec.ofNat 64 (fld n 5 52 * 2 ^ 5) } }
  | 0x111 => s.param 4 20 (w % 32) fun r => { r with trctl := BitVec.ofNat 32 (fld w 31 1 * 2 ^ 31 + w % 32) }
  | 0x200 => if inRange 256 65536 w then s.updCore core fun c => { c with tfair := w } else s
  | 0x201 => if inRange 64 65536 w then s.updCore core fun c => { c with thold := w } else s
  | 0x11000 => { s with plat := { s.plat with dlsel := n % 4 } }
  | 0x10000 => if s.plat.sec = .recovery then { s with plat := { s.plat with cmd := w, status := 0 } } else s
  | 0x10008 => if s.plat.sec = .recovery then { s with plat := { s.plat with arg := n } } else s
  | 0x20000 => if s.up && inRange 100 100000 w then { s with fab := { s.fab with rcdark := w } } else s
  | 0x20001 => s.offerGranule n
  | 0x20002 => s.recordOwner (fld n 16 41) (n % 2 ^ 16)
  | 0x20003 => if s.up then { s with fab := { s.fab with grand := some (n % 2 ^ 13) } } else s
  | _ =>
    if 0x124 ≤ reg ∧ reg ≤ 0x127 then
      (if acfgEn (s.acfg (reg - 0x124)) || decide (65536 < fld n 16 17) then s
       else { s with regs := { s.regs with aroot := Assoc.setD s.regs.aroot 0 (reg - 0x124) (BitVec.ofNat 64 (n % 2 ^ 33)) } })
    else if 0x130 ≤ reg ∧ reg ≤ 0x13F then
      (if acfgEn (s.acfg ((reg - 0x130) / 4)) then s
       else { s with regs := { s.regs with asalt := Assoc.setD s.regs.asalt 0 (reg - 0x130) v } })
    else if 0x10100 ≤ reg ∧ reg < 0x11000 then
      (if s.plat.sec = .recovery ∧ reg % 8 = 0 then
        { s with plat := { s.plat with data := (leBytes 8 n).zipIdx.foldl (fun m e => Assoc.setD m 0 (reg - 0x10100 + e.2) e.1) s.plat.data } }
       else s)
    else if 0x140 ≤ reg ∧ reg ≤ 0x143 then s.pdcfgWrite (reg - 0x140) (BitVec.ofNat 32 w)
    else if 0x144 ≤ reg ∧ reg ≤ 0x14B then
      (if s.pdEn ((reg - 0x144) / 2) then s
       else { s with regs := { s.regs with pdnbr := Assoc.setD s.regs.pdnbr 0 (reg - 0x144) (v &&& 0x1FFF1FFF1FFF1FFF) } })
    else s

/-- REGISTER_WRITE: a register with no row of its own stores its fields (R13). -/
def execRegisterWrite (core reg : Nat) (v : DWord) (s : State) : Res := .next (s.regWrite core reg v)

/-- The state after an event that ends in a next state. -/
def Res.orElse (r : Res) (s : State) : State :=
  match r with
  | .next s1 => s1
  | _ => s

/-- A SYSWR of any register that may be written (R418): the registers whose writing does more go to their own events. -/
def State.sysWrite (s : State) (core reg : Nat) (v : DWord) : State :=
  if reg = 0x102 then s.qtabWrite v
  else if reg = 0x106 then s.tlbInvalidate v
  else if 0x120 ≤ reg ∧ reg ≤ 0x123 then
    (if acfgEn v then (execAssayRegionEnable (reg - 0x120) v s).orElse s else (execAssayRegionDisable (reg - 0x120) v s).orElse s)
  else if (0x140 ≤ reg ∧ reg ≤ 0x143) ∧ s.pdEn (reg - 0x140) then
    (if v.getLsbD 31 then s else (execPhaseSlotDisable (reg - 0x140) (v.setWidth 32) s).orElse s)
  else s.regWrite core reg v

/-- A write of ACFGn with EN = 0 waits for the assay operations in flight on the region (R343). -/
def syswrPre (w : Bool) (a : Opnd) (reg : Nat) (st : State) (k : Task) (q : Run) (acts : List (Nat × Thread)) : Bool :=
  acts.all fun e =>
    let x := st.ctx k q e.1 e.2
    let v := if w then x.d a else (x.w a).zeroExtend 64
    !(decide (0x120 ≤ reg) && decide (reg ≤ 0x123)) || acfgEn v || !acfgEn (st.acfg (reg - 0x120)) ||
      !st.assayBusy (acfgAsid (st.acfg (reg - 0x120)))

/-- SYSWR (R418): with W = 0 bits [63:32] are written as zero. -/
def execSyswr (h : Hdr) (w : Bool) (a : Opnd) (reg : Nat) (s : State) : Res :=
  .next (issueWith (.syswr h w a reg) (syswrPre w a reg) (fun x st =>
    .ok (st.sysWrite x.r.core reg (if w then x.d a else (x.w a).zeroExtend 64))) s)

/- ## TSTATE (R420, R421) -/

/-- A TSTATE item. -/
def Thread.item (t : Thread) (n : Nat) : DWord :=
  match n with
  | 0 => t.tpc
  | 1 => t.csp
  | 2 => t.rpt
  | 3 => t.tcause.zeroExtend 64
  | 4 => t.tval.zeroExtend 64
  | 5 => t.taddr
  | _ => BitVec.ofNat 64 ((if t.inh then 1 else 0) + (if t.modf then 2 else 0) + (if t.drop then 4 else 0) + (if t.lostw then 8 else 0))

/-- TSTATE .rd. -/
def execTstateRd (h : Hdr) (d : Opnd) (item : Nat) (s : State) : Res :=
  .next (issue (.tstateRd h d item) (shortWrites fun x =>
    if tstateWide item then putD d (x.t.item item) else putW d ((x.t.item item).setWidth 32)) s)

/-- TSTATE .wr: TPC only inside the handler, and it sets MOD (R421). -/
def execTstateWr (h : Hdr) (a : Opnd) (item : Nat) (s : State) : Res :=
  .next (issue (.tstateWr h a item) (fun x st =>
    let v := x.d a
    match item with
    | 0 => if x.t.inh then .ok (st.updThread x.r fun t => { t with tpc := v, modf := true }) else .trap .illegal 0 0 0
    | 1 => .ok (st.updThread x.r fun t => { t with csp := v })
    | _ => .ok (st.updThread x.r fun t => { t with rpt := v })) s)

/- ## CLAIM (R423) -/

/-- The offset of the first bad field of a CLAIM request (R423). -/
def State.claimReqBad (s : State) (make : Bool) (bs : List Byte) : Option Nat :=
  leastOf (onCase (make && claimBad (rdBytes bs 0 8)) 0 ++ onCase (!s.ctxEn (rdBytes bs 8 2)) 8 ++ onCase (rdBytes bs 14 2 != 0) 14)

/-- CLAIM .make (R397, R423). -/
def execClaimMake (h : Hdr) (d a : Opnd) (s : State) : Res :=
  .next (issueWith (.claimMake h d a) storesQuiet (fun x st =>
    match st.localBytes x.k (x.d a).toNat 16 with
    | none => putStatus x st d (openStatus 119 Code.baddesc)
    | some bs =>
      match st.claimReqBad true bs with
      | some off => putStatus x st d (status Code.baddesc off)
      | none =>
        let (id, st1) := st.fresh
        let st2 := st1.addOp x.r (mkOp id (.claimMake h d a) x.t.pc true (.engine [d]))
        (.ok (st2.claimBegin (rdBytes bs 10 4) (rdBytes bs 8 2) [rdBytes bs 0 8] (some (x.r, id))))) s)

/-- CLAIM .end: every unit pinned under the launch number is released. -/
def execClaimEnd (h : Hdr) (d a : Opnd) (s : State) : Res :=
  .next (issueWith (.claimEnd h d a) storesQuiet (fun x st =>
    match st.localBytes x.k (x.d a).toNat 16 with
    | none => putStatus x st d (openStatus 119 Code.baddesc)
    | some bs =>
      match st.claimReqBad false bs with
      | some off => putStatus x st d (status Code.baddesc off)
      | none => putStatus x (st.unlease (rdBytes bs 10 4)) d (openStatus 119 Code.ok)) s)

/- ## PLACE (R424) -/

/-- PLACE .task. -/
def execPlaceTask (h : Hdr) (d a : Opnd) (s : State) : Res :=
  .next (issueWith (.placeTask h d a) storesQuiet (fun x st =>
    match st.localBytes x.k (x.gp a 0).toNat 296 with
    | none => putStatus x st d (openStatus 120 Code.baddesc)
    | some bs =>
      let hd := hdrParse (rdBytes bs)
      let asid := rdBytes bs 0x124 2
      let lnum := rdBytes bs 0x120 4
      let j := (x.gp a 2).toNat
      if (st.validate asid bs).isSome || decide (hd.tasks ≤ j) then putStatus x st d (openStatus 120 Code.baddesc)
      else
        match leastOf (st.lacks x.r.core hd.nthr hd.units hd.nomatrix), st.freeSlot x.r.core with
        | none, some slot =>
          let prio := match Assoc.find? st.agents.launches lnum with
            | some l => l.prio
            | none => hd.prio
          putStatus x ((st.release x.r.core slot lnum asid j prio hd).updLaunch lnum fun l => { l with placed := true }) d
            (status Code.ok slot)
        | some c, _ => putStatus x st d (status Code.toobig c)
        | none, none => putStatus x st d (status Code.toobig 9)) s)

/-- PLACE .restore. -/
def execPlaceRestore (h : Hdr) (d a : Opnd) (s : State) : Res :=
  .next (issueWith (.placeRestore h d a) storesQuiet (fun x st =>
    let addr := (x.gp a 2).toNat
    match st.localBytes x.k (x.gp a 0).toNat 296, Assoc.find? st.agents.saved addr with
    | some bs, some v =>
      if rdBytes bs 0x120 4 ≠ v.task.lnum ∨ rdBytes bs 0x124 2 ≠ v.task.asid ∨ hdrParse (rdBytes bs) ≠ v.task.hd ∨
          (v.task.vein ∧ (st.veinOf v.task.asid).isNone) then putStatus x st d (openStatus 120 Code.baddesc)
      else
        (match leastOf (st.lacks x.r.core v.task.nthr v.task.units v.task.hd.nomatrix), st.freeSlot x.r.core with
         | none, some slot => putStatus x (st.restore addr x.r.core slot) d (status Code.ok slot)
         | some c, _ => putStatus x st d (status Code.toobig c)
         | none, none => putStatus x st d (status Code.toobig 9))
    | _, _ => putStatus x st d (openStatus 120 Code.baddesc)) s)

/- ## FREEZE (R425) -/

/-- A master word's kind and, for a task, its core and slot. -/
def mwKind (m : DWord) : Nat := fld m.toNat 60 4
def mwCore (m : DWord) : Nat := fld m.toNat 52 8
def mwSlot (m : DWord) : Nat := fld m.toNat 48 4

/-- The task a master word names, where it is present. -/
def State.mwTask (s : State) (m : DWord) : Option Task :=
  match s.task? (mwCore m) (mwSlot m) with
  | some k => if k.ending.isSome then none else some k
  | none => none

/-- A FREEZE function that acts on a task: kinds other than 0 give BADDESC, an absent task ABSENT. -/
def freezeTaskFn (d : Opnd) (m : DWord) (x : Ctx) (st : State) (f : Task → State) : Out :=
  if mwKind m ≠ 0 then putStatus x st d (openStatus 121 Code.baddesc)
  else
    match st.mwTask m with
    | none => putStatus x st d (openStatus 121 Code.absent)
    | some k => putStatus x (f k) d (openStatus 121 Code.ok)

/-- FREEZE .hold: a task is frozen (R411); one that is frozen stays so. -/
def execFreezeHold (h : Hdr) (d a : Opnd) (s : State) : Res :=
  .next (issue (.freezeHold h d a) (fun x st =>
    let m := x.d a
    freezeTaskFn d m x st fun k =>
      if k.frozen.isSome then st
      else
        let p := st.firstLive (mwCore m) (mwSlot m)
        st.freezeTask (mwCore m) (mwSlot m) none p.1 p.2 0) s)

/-- FREEZE .kill (R407). -/
def execFreezeKill (h : Hdr) (d a : Opnd) (s : State) : Res :=
  .next (issue (.freezeKill h d a) (fun x st =>
    let m := x.d a
    freezeTaskFn d m x st fun _ => st.killTask (mwCore m) (mwSlot m) 3) s)

/-- FREEZE .save: the task is force-saved at level 2; D and the result word are written when it has been. -/
def execFreezeSave (h : Hdr) (d a : Opnd) (s : State) : Res :=
  .next (issue (.freezeSave h d a) (fun x st =>
    let m := x.gp a 0
    let va := (x.gp a 2).toNat
    if mwKind m ≠ 0 then putStatus x st d (openStatus 121 Code.baddesc)
    else
      match st.mwTask m, (if va % 8 = 0 then st.translate x.k.asid va .w else .prot) with
      | none, _ => putStatus x st d (openStatus 121 Code.absent)
      | some k, .ok key 0 _ =>
        if st.homeOf key ≠ .own then putStatus x st d (status Code.baddesc 8)
        else
          let (id, st1) := st.fresh
          let st2 := st1.addOp x.r (mkOp id (.freezeSave h d a) x.t.pc true (.engine [d]))
          let st3 := { st2 with agents := { st2.agents with saves := st2.agents.saves ++ [(x.r, id, k.uid, key)] } }
          .ok (st3.beginSave (mwCore m) (mwSlot m))
      | some _, _ => putStatus x st d (status Code.baddesc 8)) s)

/-- End the freeze of a hart, a host PASID context or a fabric peer: none where the master is not present. -/
def State.unfreeze (s : State) (m : DWord) : Option State :=
  let n := m.toNat
  if mwKind m = 1 then
    let h := s.hart (n % 128)
    if s.hartHere (n % 128) then some (s.setHart (n % 128) { h with frozen := none, fault := h.fault || h.frozen.isSome })
    else none
  else if mwKind m = 2 then
    if s.ctxEn (n % 2 ^ 16) then
      some { s with host := { s.host with frozen := s.host.frozen.filter fun x => x != n % 2 ^ 16 } }
    else none
  else
    (Assoc.find? s.fab.peers (fld n 16 13)).map fun _ =>
      { s with fab := { s.fab with frozenPeers := s.fab.frozenPeers.filter fun x => !(x.1 == fld n 16 13 && x.2 == n % 2 ^ 16) } }

/-- FREEZE .release. -/
def execFreezeRelease (h : Hdr) (d a : Opnd) (s : State) : Res :=
  .next (issue (.freezeRelease h d a) (fun x st =>
    let m := x.d a
    if mwKind m = 0 ∨ 3 < mwKind m then putStatus x st d (openStatus 121 Code.baddesc)
    else
      match st.unfreeze m with
      | some st1 => putStatus x st1 d (openStatus 121 Code.ok)
      | none => putStatus x st d (openStatus 121 Code.absent)) s)

/- ## IDLE and DLOG (R426, R427) -/

/-- The status of an IDLE that ends: the events since the last one, which are then cleared (R426). -/
def State.idleEnd (s : State) (core : Nat) : Word × State :=
  (status Code.ok ((s.core core).idleEvents % 32), s.updCore core fun c => { c with idleEvents := 0 })

/-- A core's pending events meet a mask. -/
def State.idleHit (s : State) (core mask : Nat) : Bool := decide ((s.core core).idleEvents &&& mask ≠ 0)

/-- IDLE: an event already pending, or no time to wait, ends it at once. -/
def execIdle (h : Hdr) (d a : Opnd) (mask : Nat) (s : State) : Res :=
  .next (issue (.idle h d a mask) (fun x st =>
    if st.idleHit x.r.core mask || decide ((x.d a).toNat = 0) then
      let (w, st1) := st.idleEnd x.r.core
      putStatus x st1 d w
    else .stay (st.updThread x.r fun t => { t with wait := .idle mask (st.clk.time + (x.d a).toNat) d })) s)

/-- IDLE_WAKE: an event of the mask has occurred, or the timeout passes, and the core's IDLE completes. -/
def execIdleWake (core : Nat) (s : State) : Res :=
  match (s.threadsOf core fwSlot).find? fun e => match e.2.wait with | .idle .. => true | _ => false with
  | none => .next s
  | some e =>
    match e.2.wait with
    | .idle mask deadline d =>
      let s0 := if s.idleHit core mask then s else s.atLeast deadline
      let (w, s1) := s0.idleEnd core
      .next (s1.endWait ⟨core, fwSlot, e.1⟩ (putW d w))
    | _ => .next s

/-- The record of a DLOG: the firmware's KIND and bytes 0x10 to 0x1F, KIND[15] forced to 1 (R461). -/
def State.dlogPut (s : State) (bs : List Byte) : State :=
  s.deputy (2 ^ 15 + rdBytes bs 0xC 2 % 2 ^ 15) (rdBytes bs 0x10 2) (rdBytes bs 0x12 2) (rdBytes bs 0x14 4) (rdBytes bs 0x18 8)

/-- DLOG. -/
def execDlog (h : Hdr) (d a : Opnd) (s : State) : Res :=
  .next (issue (.dlog h d a) (fun x st =>
    let bs := bytesOf ((List.range 8).map fun i => x.gi a i)
    if rdBytes bs 0xC 2 % 2 ^ 15 = 0x7FFF then putStatus x st d (status Code.baddesc 0xC)
    else putStatus x (st.dlogPut bs) d (status Code.ok (st.dseq % 2 ^ 14))) s)

end Machine
end Sys2Proof
end

