-- ==== Sys2Proof/Machine/Sched.lean ====
section
/-! DEFINITION. The picker (R40, R41, R50 to R54, R386): forming issue groups; holds that time out (R47), fairness
(R50), traps found between runs (R404), the debugger's halt and resume (R412), and a cluster's rebuild (R458). -/

namespace Sys2Proof
namespace Machine

/-- A thread the picker may choose: its task's slot, its index, the thread, and whether it stands at a convergent
instruction that its crew executes together. -/
structure Cand where
  slot : Nat
  thr : Nat
  t : Thread
  conv : Bool
  deriving DecidableEq, Repr

/-- The home lanes of a core that are busy with a run in progress (R41). -/
def State.busyLanes (s : State) (core : Nat) : List Nat :=
  s.runs.flatMap fun e => if e.2.core = core ∧ e.2.slot ≠ fwSlot then e.2.members.map fun i => i % 64 else []

/-- A demotion does not hold a thread back: none stands, or the thread is overdue (R52). It holds no convergent group back,
which is no choice among ready threads (R181; log entry 35). -/
def Thread.undemoted (t : Thread) : Bool := t.demoted.isEmpty || t.overdue.isSome

/-- A thread waits at a convergent instruction that it could execute (R53). -/
def State.atConv (s : State) (core slot : Nat) (k : Task) (e : Nat × Thread) : Bool :=
  e.2.idleFree k && !s.inRun core slot e.1 &&
    match s.nextInstr k e.2 with
    | some (.ok i) => convergent i
    | _ => false

/-- The convergent instruction of a thread is not stalled by its scoreboard. -/
def State.convFree (s : State) (k : Task) (t : Thread) : Bool :=
  match s.nextInstr k t with
  | some (.ok i) => !t.stalledOn i
  | _ => false

/-- The threads of a crew that execute a convergent instruction together now: every live thread of the crew waits at
one, its scoreboard no longer stalling it, and those at the lowest address execute it (R53, R54, R181). -/
def State.convGroup (s : State) (core slot : Nat) (k : Task) (crew : Nat) : List (Nat × Thread) :=
  let live := (s.threadsOf core slot).filter fun e => e.1 / 64 == crew && !e.2.ended
  if live.isEmpty || !(live.all fun e => s.atConv core slot k e && s.convFree k e.2) then []
  else
    let pc := (live.map fun e => e.2.pc.toNat).foldl min (2 ^ 64)
    live.filter fun e => e.2.pc.toNat == pc

/-- The candidates of one task, by thread index (R386). A thread whose home lane is busy with a run is none, an overdue
one too: the picker does not wait for it (log entry 94). -/
def State.candsOf (s : State) (core slot : Nat) : List Cand :=
  match s.task? core slot with
  | none => []
  | some k =>
    let busy := s.busyLanes core
    let conv := (List.range 32).flatMap fun crew =>
      let g := s.convGroup core slot k crew
      if g.all fun e => !busy.contains (e.1 % 64) then g.map Prod.fst else []
    (s.threadsOf core slot).filterMap fun e =>
      if s.inRun core slot e.1 || busy.contains (e.1 % 64) then none
      else if conv.contains e.1 then some { slot := slot, thr := e.1, t := e.2, conv := true }
      else if !e.2.undemoted then none
      else if s.ready k e.2 then some { slot := slot, thr := e.1, t := e.2, conv := false }
      else none

/-- The candidates of a core. -/
def State.cands (s : State) (core : Nat) : List Cand := (s.slotsOf core).flatMap (s.candsOf core)

/-- The first of a list by an order. -/
def firstBy (better : Cand → Cand → Bool) : List Cand → Option Cand
  | [] => none
  | c :: cs => some (cs.foldl (fun b x => if better x b then x else b) c)

/-- The task's current group's members that are candidates at its program counter (R51). -/
def curCands (k : Task) (cs : List Cand) : List Cand :=
  match k.curGroup with
  | some (pc, ms) => cs.filter fun c => !c.conv && ms.contains c.thr && c.t.pc == pc
  | none => []

/-- The task of a candidate. -/
def State.candTask (s : State) (core : Nat) (c : Cand) : Task := (s.task? core c.slot).getD (Task.reset 0 0 0 0 0 (hdrParse fun _ _ => 0) 0)

/-- The choice of R386 among ready threads: the thread whose program counter the group has. -/
def State.chooseReady (s : State) (core : Nat) (cs : List Cand) : Option Cand :=
  let late := cs.filter fun c => (s.candTask core c).hd.progress && c.t.overdue.isSome
  let od := fun (c : Cand) => c.t.overdue.getD 0
  match firstBy (fun a b => decide (od a < od b) || (od a == od b && decide (a.slot < b.slot))) late with
  | some c => some c
  | none =>
    let top := (cs.map fun c => (s.candTask core c).prio).foldl max 0
    let high := cs.filter fun c => (s.candTask core c).prio == top
    let prev := high.find? fun c =>
      let k := s.candTask core c
      decide ((s.core core).prevTask = some k.uid) && !k.hd.progress && !(curCands k (high.filter fun x => x.slot == c.slot)).isEmpty
    let task := match prev with
      | some c => some c
      | none =>
        firstBy (fun a b =>
          let x := (s.candTask core a).lastGroup
          let y := (s.candTask core b).lastGroup
          decide (x < y) || (x == y && decide (a.slot < b.slot))) high
    task.bind fun c0 =>
      let k := s.candTask core c0
      let mine := high.filter fun c => c.slot == c0.slot
      if k.hd.progress then
        firstBy (fun a b => decide (a.t.issued < b.t.issued) || (a.t.issued == b.t.issued && decide (a.thr < b.thr))) mine
      else
        match curCands k mine with
        | c :: _ => some c
        | [] => firstBy (fun a b => decide (a.thr < b.thr)) mine

/-- The picker's choice: a convergent group whose lanes are all free goes ahead of every choice of R386, the lowest task
slot and crew first (R181; log entry 35). -/
def State.choose (s : State) (core : Nat) (cs : List Cand) : Option Cand :=
  match cs.find? Cand.conv with
  | some c => some c
  | none => s.chooseReady core cs

/-- The member that a home lane gives to a group (R41): the overdue thread that was chosen, which R50 serves, then with
the promise off a member of the current group that was chosen, else the one that has waited longest, the lowest crew
first. -/
def laneMember (first : Option Cand) (keep : List Cand) (cs : List Cand) (lane : Nat) : Option Nat :=
  let here := fun (xs : List Cand) => xs.filter fun c => c.thr % 64 == lane
  let pick := firstBy (fun a b => decide (a.t.issued < b.t.issued) || (a.t.issued == b.t.issued && decide (a.thr < b.thr)))
  match first.toList.find? (fun c => c.thr % 64 == lane) with
  | some c => some c.thr
  | none =>
    match pick (here keep) with
    | some c => some c.thr
    | none => (pick (here cs)).map Cand.thr

/-- The members of the group of a chosen candidate, in ascending home lane (R41, R53). -/
def State.members (s : State) (core : Nat) (cs : List Cand) (c : Cand) : List Nat :=
  let k := s.candTask core c
  if c.conv then (s.convGroup core c.slot k (c.thr / 64)).map Prod.fst
  else
    let at_ := cs.filter fun x => x.slot == c.slot && !x.conv && x.t.pc == c.t.pc
    let keep := if k.hd.progress then [] else curCands k at_
    let keep1 := if keep.any fun x => x.thr == c.thr then keep else []
    let late := if k.hd.progress && c.t.overdue.isSome then some c else none
    (List.range 64).filterMap (laneMember late keep1 at_)

/-- A group is formed: its run is the chip's current one; its members issue, with age zero and no demotion (R50, R52). The
task's current group stands until the run ends (R51). -/
def State.formRun (s : State) (core slot : Nat) (ms : List Nat) (pc : DWord) (conv : Bool) : State :=
  let (id, s1) := s.fresh
  let q : Run := { core := core, slot := slot, members := ms, pc := pc, len := 0, conv := conv }
  let keys := ms.map fun i => thrKey ⟨core, slot, i⟩
  let upd := fun (e : Nat × Thread) =>
    if keys.contains e.1 then (e.1, { e.2 with age := 0, overdue := none, demoted := [], issued := id }) else e
  let s2 := { s1 with threads := s1.threads.map upd, runs := Assoc.put s1.runs id q, cur := some id, lastCore := core }
  if slot = fwSlot then s2
  else
    (s2.updTask core slot fun k => { k with lastGroup := id }).updCore core fun c =>
      { c with prevTask := (s.task? core slot).map fun k => k.uid }

/-- The firmware thread of a core that can run now, on its scalar path (R380); a retired cluster's agents have stopped (R458). -/
def State.fwReady (s : State) (core : Nat) : Option (Nat × Thread) :=
  match s.task? core fwSlot with
  | none => none
  | some k => (s.threadsOf core fwSlot).find? fun e => !s.plat.clOff.contains (core / 8) &&
      !s.inRun core fwSlot e.1 && (s.ready k e.2 || (s.atConv core fwSlot k e && s.convFree k e.2))

/-- The firmware thread goes first where it has not issued since the core's last group. -/
def State.fwFirst (s : State) (core : Nat) (t : Thread) : Bool :=
  (s.slotsOf core).any fun i => match s.task? core i with
    | some k => decide (t.issued < k.lastGroup)
    | none => false

/-- A firmware thread's run. -/
def State.formFw (s : State) (core : Nat) (e : Nat × Thread) : State :=
  let conv := match s.task? core fwSlot with
    | some k => s.atConv core fwSlot k e
    | none => false
  s.formRun core fwSlot [e.1] e.2.pc conv

/-- ISSUE_GROUP: the picker of a core chooses a task and a program counter and forms a group (R41, R386); the firmware
thread runs beside it. A task that is being saved has no ready thread. -/
def execIssueGroup (core : Nat) (s : State) : Res :=
  let cs := s.cands core
  match s.choose core cs, s.fwReady core with
  | none, none => .next s
  | none, some e => .next (s.formFw core e)
  | some c, fw =>
    match fw with
    | some e => if s.fwFirst core e.2 then .next (s.formFw core e) else .next (s.formRun core c.slot (s.members core cs c) c.t.pc c.conv)
    | none => .next (s.formRun core c.slot (s.members core cs c) c.t.pc c.conv)

/-- HOLD_TIMEOUT: T_hold cycles have passed since the thread arrived; every thread of the core whose hold has lasted as
long by then is released with it (R47). Nothing happens while the arithmetic clock stands. -/
def execHoldTimeout (r : TRef) (s : State) : Res :=
  match s.thread? r with
  | some t =>
    (match t.held with
     | some c =>
       let hold := (s.core r.core).thold
       let s1 := s.cyclesAtLeast (c + hold)
       if s1.clk.cycles < c + hold then .next s
       else .next { s1 with threads := s1.threads.map fun (e : Nat × Thread) =>
         if e.1 / 131072 = r.core ∧ e.2.held.any fun d => decide (d + hold ≤ s1.clk.cycles) then (e.1, { e.2 with held := none })
         else e }
     | none => .next s)
  | none => .next s

/-- FAIRNESS_OVERDUE: a thread's age has reached T_fair: it is overdue from the cycle in which it did (R50). -/
def execFairnessOverdue (r : TRef) (s : State) : Res :=
  match s.task? r.core r.slot, s.thread? r with
  | some k, some t =>
    let fair := (s.core r.core).tfair
    if k.hd.progress && t.overdue.isNone && decide (fair ≤ t.age) then
      .next (s.setThread r { t with overdue := some (s.clk.cycles - (t.age - fair)) })
    else .next s
  | _, _ => .next s

/-- The threads of a task that stand between runs with a cause to take. -/
def State.dueThreads (s : State) (core slot : Nat) : List Nat :=
  (s.threadsOf core slot).filterMap fun e =>
    if !e.2.halted && !e.2.haltReq && e.2.due.isSome && !s.inRun core slot e.1 then some e.1 else none

/-- DEFERRED_TRAP_DELIVERY: causes found after issue are delivered to threads between runs (R404). -/
def execDeferredTrapDelivery (r : TRef) (s : State) : Res := .next (s.deliverAll r.core r.slot (s.dueThreads r.core r.slot))

/-- DEBUG_HALT: the debugger halts a thread of a context in debug state halt at its run boundary, once its results in
flight are written: now, or when the boundary comes (R130, R412, R473). -/
def execDebugHalt (r : TRef) (s : State) : Res :=
  match s.task? r.core r.slot, s.thread? r with
  | some k, some t =>
    if s.dbgOf k.asid = .halt ∧ !t.ended ∧ !t.halted then
      .next ((s.setThread r { t with haltReq := true }).haltMembers r.core r.slot [r.thr])
    else .next s
  | _, _ => .next s

/-- DEBUG_RESUME: a halted thread goes on, its pending causes delivered first; the slice runs again when no thread of
the task is halted (R156, R412). A halt that has not taken place is withdrawn. -/
def execDebugResume (r : TRef) (s : State) : Res :=
  match s.thread? r with
  | some t =>
    if !t.halted then .next (s.setThread r { t with haltReq := false })
    else
      let s1 := s.setThread r { t with halted := false, haltReq := false }
      let s2 := s1.updTask r.core r.slot fun k => { k with sliceFrom := s.clk.time }
      .next (s2.deliverAll r.core r.slot [r.thr])
  | none => .next s

/-- The rebuild of a cluster's issue state: every ready thread has age 0, every demotion has ended, holds are
recomputed (R458). -/
def State.rebuild (s : State) (cluster : Nat) : State :=
  let upd := fun (e : Nat × Thread) =>
    if e.1 / 131072 / 8 = cluster then (e.1, { e.2 with age := 0, overdue := none, demoted := [] }) else e
  let s1 := { s with threads := s.threads.map upd }
  (s1.tasks.filter fun e => e.1 / 32 / 8 == cluster).foldl (fun st e => st.releaseHolds (e.1 / 32) (e.1 % 32)) s1

/-- A thread's entry of the table is found uncorrectable: its task consumes the error (R409, R458). -/
def State.entryLost (s : State) (r : TRef) : State :=
  match s.thread? r with
  | some t => if t.ended then s else s.deferOr r .uncorr 0 t.pc
  | none => s

/-- CLUSTER_REBUILD: an illegal one-hot state; a second within 1 ms of TIME retires the cluster (R458). -/
def execClusterRebuild (x : Rebuild) (s : State) : Res :=
  let cluster := x.cluster
  let again := match Assoc.find? s.plat.illegalAt cluster with
    | some t => decide (s.clk.time ≤ t + 1000000)
    | none => false
  let s1 := { s with plat := { s.plat with illegalAt := Assoc.put s.plat.illegalAt cluster s.clk.time } }
  if again && !s.plat.clOff.contains cluster then
    let s2 := { s1 with plat := { s1.plat with clOff := s1.plat.clOff ++ [cluster] } }
    let s3 := s2.deputy 4 (cluster * 256) 0 2 0
    .next ((s3.tasks.filter fun e => e.1 / 32 / 8 == cluster && decide (e.1 % 32 < 16)).foldl
      (fun st e => (st.beginSave (e.1 / 32) (e.1 % 32)).trySave (e.1 / 32) (e.1 % 32)) s3)
  else
    let s2 := (s1.rebuild cluster).deputy 4 (cluster * 256) 0 1 0
    match x.bad with
    | some r => .next (if r.core / 8 = cluster then s2.entryLost r else s2)
    | none => .next s2

end Machine
end Sys2Proof
end

