-- ==== Sys2Proof/Machine/Boundary.lean ====
section
/-! DEFINITION. The chip's other masters: wake writes from outside the cores (R372 to R375, R431), the host's snoops and
CXL.mem accesses and bias flips (R435 to R438), the harts (R439 to R446), and remote accesses of other chips with the
atomic cache (R327, R394). -/

namespace Sys2Proof
namespace Machine

/- ## Freezing the masters that are not tasks (R411) -/

/-- A hart is frozen, with its record. -/
def State.freezeHart (s : State) (n : Nat) : State :=
  let h := s.hart n
  if h.frozen.isSome then s
  else (s.setHart n { h with frozen := some s.clk.time }).deputy 3 (0xFF00 + n % 32) h.dasid 1 (2 ^ 60 + n)

/-- A host PASID context is frozen. -/
def State.freezeHost (s : State) (asid : Nat) : State :=
  if s.host.frozen.contains asid then s
  else ({ s with host := { s.host with frozen := s.host.frozen ++ [asid] } }).deputy 3 0xFF00 asid 2 (2 * 2 ^ 60 + asid)

/-- A fabric peer is frozen for a context. -/
def State.freezePeer (s : State) (chip asid : Nat) : State :=
  if s.fab.frozenPeers.contains (chip, asid) then s
  else ({ s with fab := { s.fab with frozenPeers := s.fab.frozenPeers ++ [(chip, asid)] } }).deputy 3 0xFF00 asid 3
    (3 * 2 ^ 60 + chip * 2 ^ 16 + asid)

/-- A packet or write that is dropped and counted. -/
def State.fabDrop (s : State) : State := { s with plat := { s.plat with fabDrops := s.plat.fabDrops + 1 } }

/- ## Wake writes (R372 to R375, R431) -/

/-- The context that holds a PASID on this chip (R391, R431). -/
def State.pasidOwner (s : State) (pasid : Nat) : Option Nat :=
  (List.range 65536).find? fun a => s.ctxEn a && s.pasidWord a % 2 ^ 20 == pasid

/-- A master's ASID. -/
def State.masterAsid (s : State) (m : Master) : Option Nat :=
  match m with
  | .task core slot => (s.task? core slot).map fun k => k.asid
  | .hart n _ => some (s.hart n).dasid
  | .hostPasid p => s.pasidOwner p
  | .hostNoPasid => none
  | .peer _ asid => some asid

/-- A master may write plain wakes (R375). -/
def Master.trusted : Master → Bool
  | .task _ slot => slot == fwSlot
  | .hart _ mmode => mmode
  | _ => false

/-- Freeze a master that has violated protection (R411); a host write that names no context freezes nothing (R431). -/
def State.freezeMaster (s : State) (m : Master) : State :=
  match m with
  | .task core slot =>
    let p := s.firstLive core slot
    s.freezeTask core slot (some { cause := .prot, detail := 0, pc := p.2, tval := 0, taddr := 0, deferred := true }) p.1 p.2 0
  | .hart n _ => s.freezeHart n
  | .hostPasid p => (match s.pasidOwner p with | some a => s.freezeHost a | none => s)
  | .hostNoPasid => s
  | .peer c asid => s.freezePeer c asid

/-- A master that is frozen has its writes refused. -/
def State.masterFrozen (s : State) (m : Master) : Bool :=
  match m with
  | .task core slot => (match s.task? core slot with | some k => k.frozen.isSome | none => false)
  | .hart n _ => (s.hart n).frozen.isSome
  | .hostPasid p => (match s.pasidOwner p with | some a => s.host.frozen.contains a | none => false)
  | .hostNoPasid => false
  | .peer c asid => s.fab.frozenPeers.contains (c, asid)

/-- A write to the wake port: a wake write where it is whole (R372), judged by R373 to R375. -/
def State.portWrite (s : State) (m : Master) (whole : Bool) (cap : BitVec 256) : State :=
  if s.masterFrozen m || !s.up then s
  else if !whole then s.portDrop
  else
    let r := s.wake (s.masterAsid m) (Master.trusted m) cap
    if r.2 then r.1.freezeMaster m else r.1

/-- WAKE_WRITE: a write to the wake port by a master outside the threads' own ST (R372, R373). -/
def execWakeWrite (m : Master) (whole : Bool) (cap : BitVec 256) (s : State) : Res := .next (s.portWrite m whole cap)

/-- PLAIN_WAKE (R375): from a master that is not trusted, or with PLAIN = 0, it is judged as a sealed wake. -/
def execPlainWake (m : Master) (cap : BitVec 256) (s : State) : Res := .next (s.portWrite m true cap)

/- ## Host snoops and CXL.mem (R435 to R438) -/

/-- A page of the host that some lease pins (R398, R434). -/
def State.hostLeased (s : State) (page : Nat) : Bool :=
  s.agents.leases.any fun l => l.2.any fun e =>
    fld e.2.1 5 2 == 1 && (List.range 16).any fun i =>
      match s.xlHost (e.1 / 2 ^ 41) (e.1 % 2 ^ 41 * 2 ^ 16 + 4096 * i) .r 0 with
      | .ok key _ _ => (key - 2 ^ 64) / 4096 == page
      | _ => false

/-- HOST_SNOOP (R436): a miss is answered as not held; a hit invalidates or downgrades the copies, writes back written
data and answers with the committed bytes. A page under a lease whose line the host takes away is absent at the next
access (R434). -/
def execHostSnoop (pa : Nat) (keepShared : Bool) (s : State) : Res :=
  if !s.up then .next s else
  match Assoc.find? s.host.filter (pa / 64) with
  | none => .next (s.send (.snoopAnswer pa none))
  | some e =>
    let lo := hostKey (pa / 64 * 64)
    let s1 := s.send (.snoopAnswer pa (some (s.peek lo 64)))
    if keepShared then
      .next { s1 with host := { s1.host with filter := Assoc.put s1.host.filter (pa / 64) { e with writable := false } } }
    else
      let s2 := (s1.l1Recall lo 64)
      let page := pa / 4096
      .next { s2 with host := { s2.host with
        filter := Assoc.del s2.host.filter (pa / 64)
        stale := if s.hostLeased page && !s2.host.stale.contains page then s2.host.stale ++ [page] else s2.host.stale } }

/-- The granule of an address of this chip's HBM. -/
def State.granule (s : State) (addr : Nat) : Nat := hbmKey s.chip.toNat addr / 2 ^ 16

/-- A host CXL.mem access is served, the device's copies recalled first (R437). -/
def State.cxlServe (s : State) (addr : Nat) (write : Option (List Byte)) (n : Nat) : State :=
  let key := hbmKey s.chip.toNat addr
  match write with
  | some bs => (s.acacheTake key).pokeCoh key bs
  | none => ((s.acacheTake key).l1Recall key n).send (.cxlData (s.peek key n))

/-- HOST_CXL_MEM_ACCESS (R437): served in every state but TOHOST, where it waits; a granule that is not offered is not the
host's to reach. -/
def execHostCxlMemAccess (addr : Nat) (write : Option (List Byte)) (n : Nat) (s : State) : Res :=
  if !s.up then .next s else
  match Assoc.find? s.host.bias (s.granule addr) with
  | none => .next s
  | some .tohost => .next { s with host := { s.host with cxlWaits := s.host.cxlWaits ++ [(addr, write, n)] } }
  | some _ => .next (s.cxlServe addr write n)

/-- The atomic cache writes back and gives up every line of a range (R327, R438). -/
def State.acacheClear (s : State) (lo n : Nat) : State :=
  { s with fab := { s.fab with acache := s.fab.acache.filter fun e => !(decide (lo / 512 ≤ e.1) && decide (e.1 < (lo + n) / 512)) } }

/-- Set a granule's bias. -/
def State.setBias (s : State) (addr : Nat) (b : Bias) : State :=
  { s with host := { s.host with bias := Assoc.put s.host.bias (s.granule addr) b } }

/-- BIAS_FLIP_TO_DEV (R438): a granule in HOST enters TODEV, and the copies that the host still holds are snooped away; in a
changing state the request is ignored, and in Recovery BAR0 drops it (R466). -/
def execBiasFlipToDev (addr : Nat) (s : State) : Res :=
  if !s.up then .next s else
  match Assoc.find? s.host.bias (s.granule addr) with
  | some .host => .next ((s.setBias addr .todev).send (.cxlSnoop (s.granule addr)))
  | _ => .next s

/-- BIAS_FLIP_TO_HOST (R438): a granule in DEV enters TOHOST. -/
def execBiasFlipToHost (addr : Nat) (s : State) : Res :=
  if !s.up then .next s else
  match Assoc.find? s.host.bias (s.granule addr) with
  | some .dev => .next (s.setBias addr .tohost)
  | _ => .next s

/-- Some version holds a byte of a granule that is not committed, one whose task has been saved or stopped among them. -/
def State.granuleVersioned (s : State) (g : Nat) : Bool :=
  let has := fun (m : Map Byte) => m.any fun e => e.1 / 2 ^ 16 == g
  (s.tasks.any fun e => has e.2.version || has e.2.owed) || (s.agents.saved.any fun e => has e.2.task.version || has e.2.task.owed) ||
    s.fab.owed.any fun x => has x.cells

/-- A granule in TOHOST still has device operations in flight, or version lines whose commit is to come (R438). -/
def State.granuleBusy (s : State) (g : Nat) : Bool :=
  s.granuleVersioned g || s.invs.any fun e => decide (e.2.lo / 2 ^ 16 ≤ g) && decide (g ≤ (e.2.lo + e.2.n - 1) / 2 ^ 16)

/-- The host accesses that waited for a granule are served, in order (R437). -/
def State.cxlRelease (s : State) (g : Nat) : State :=
  let here := fun (x : Nat × Option (List Byte) × Nat) => s.granule x.1 == g
  (s.host.cxlWaits.filter here).foldl (fun st x => st.cxlServe x.1 x.2.1 x.2.2)
    { s with host := { s.host with cxlWaits := s.host.cxlWaits.filter fun x => !here x } }

/-- BIAS_FLIP_COMPLETE (R438): the copies are gone and the granule has its new state, its bytes unchanged; TOHOST stands while
an operation is in flight to the granule or a version holds a line of it. -/
def execBiasFlipComplete (addr : Nat) (s : State) : Res :=
  let g := s.granule addr
  match Assoc.find? s.host.bias g with
  | some .todev => .next (s.setBias addr .dev)
  | some .tohost =>
    if s.granuleBusy g then .next s
    else .next ((((s.acacheClear (g * 2 ^ 16) (2 ^ 16)).l1Recall (g * 2 ^ 16) (2 ^ 16)).setBias addr .host).cxlRelease g)
  | _ => .next s

/- ## Harts (R439 to R446) -/

/-- Where a hart's physical address lies (R442). -/
inductive HartPlace where
  | hbm (key : Nat)
  | port (chip off : Nat)
  | host (key : Nat)
  | fault
  deriving DecidableEq, Repr

/-- The package map (R442): c names the chip of this package. -/
def State.hartPlace (s : State) (pa : Nat) : HartPlace :=
  let c := pa / 2 ^ 40
  let a := pa % 2 ^ 40
  if c < 4 then (if a < hbmBytes then .hbm (hbmKey (s.chip.toNat / 4 * 4 + c) a) else .fault)
  else if 0x0F0000000000 ≤ pa ∧ pa < 0x0F0000004000 then .port (pa / 4096 % 4) (pa % 4096)
  else if 2 ^ 47 ≤ pa then .host (hostKey (pa - 2 ^ 47))
  else .fault

/-- The bytes and access size of a hart operation. -/
def HartOp.size : HartOp → Nat
  | .load n _ | .store n _ _ => n
  | .amo _ w _ _ _ | .lr w _ | .sc w _ _ => if w then 8 else 4
  | .fence _ => 0

/-- The operation writes. -/
def HartOp.writes : HartOp → Bool
  | .store .. | .amo .. | .sc .. => true
  | _ => false

/-- A reservation still stands: nothing has written its bytes since it was taken. -/
def State.resvStands (s : State) (key n : Nat) (h : Hart) : Bool :=
  match h.resv with
  | some (k, m, stamp) =>
    decide (k ≤ key) && decide (key + n ≤ k + m) && !(s.hist.any fun e => decide (stamp ≤ e.2.1) && decide (k ≤ e.1) && decide (e.1 < k + m))
  | none => false

/-- What a hart's instruction gives it: a load's data, an AMO's or LR's old value, 0 or 1 of an SC, a CSR's value; and the
exception that it takes instead. -/
def State.hartGives (s : State) (n v : Nat) : State := s.setHart n { s.hart n with result := v, exc := none }
def State.hartTakes (s : State) (n : Nat) (e : HartExc) : State := s.setHart n { s.hart n with exc := some e }

/-- A hart's access to memory is performed at its home, as one of scope sys, whatever its aq and rl (R444): no copy of a line is
left stale, so it stands behind every access of the hart that came before it. -/
def State.hartPerform (s : State) (n key : Nat) (op : HartOp) : State :=
  let h := s.hart n
  match op with
  | .load k _ => s.hartGives n (s.peekN key k)
  | .fence _ => s
  | .store k v _ => ((s.pokeCoh key (leBytes k v)).sfOwn key k).setHart n { h with exc := none }
  | .amo aop w b c _ =>
    let k := if w then 8 else 4
    let old := s.peekN key k
    (if aopWrites aop old b.toNat then (s.pokeCoh key (leBytes k (aopVal aop w old b.toNat c.toNat))).sfOwn key k else s).hartGives n old
  | .lr w _ =>
    let k := if w then 8 else 4
    (s.setHart n { h with resv := some (key, k, s.nextId) }).hartGives n (s.peekN key k)
  | .sc w v _ =>
    let k := if w then 8 else 4
    let s1 := s.setHart n { h with resv := none }
    if s.resvStands key k h then ((s1.pokeCoh key (leBytes k v.toNat)).sfOwn key k).hartGives n 0 else s1.hartGives n 1

/-- A fill of a hart meets another translation (R198, R443): the physical page is held with the other tracking, by the TLBs or
by the fetch of a block that a thread is in, or a task's fill in the hart's ASID has given the address another page or tracking. -/
def State.hartClash (s : State) (n va key : Nat) (trk : Bool) : Bool :=
  let asid := (s.hart n).dasid
  (s.tlb.any fun e => (e.2.1 == frameOf key && e.2.2 != trk) ||
    ((e.1 == xlKey asid va 0 || e.1 == xlKey asid va 1) && (heldPage e va != key / 2 ^ 12 || e.2.2 != trk))) ||
  (s.harts.any fun e => e.2.tlb.any fun x =>
    !(e.1 == n && x.1 == hartKey asid va) && frameOf (x.2.1 * 2 ^ 12) == frameOf key && x.2.2 != trk) ||
  s.fetchPages.any fun p => match s.translate p.1 p.2 .x with
    | .ok key2 cls2 grain => decide (cls2 ≤ 1) &&
        ((frameOf key2 == frameOf key && decide (0 < grain) != trk) ||
          (p.1 == asid && p.2 / 4096 == va / 4096 && (key2 / 4096 != key / 4096 || decide (0 < grain) != trk)))
    | _ => false

/-- A hart's access to a page with its tracking: the owner's check, the alias detector, then its effect (R198, R443); the
snoop filter records a tracked host line (R435). A granule whose bias changes makes it wait (R437); a write to a peer that
takes none is dropped (R326). -/
def State.hartMemory (s : State) (n va key pbmt : Nat) (hbm : Bool) (op : HartOp) : State :=
  let h := s.hart n
  let trk := decide (pbmt = 0)
  let page := key / 2 ^ 16
  if hbm && (Assoc.find? s.agents.owner page).any (fun o => o != h.dasid) then s.freezeHart n
  else if s.hartClash n va key trk then s.freezeHart n
  else if (match Assoc.find? s.host.bias page with | some .todev | some .tohost => true | _ => false) then s
  else
    let s1 := s.setHart n { h with tlb := Assoc.put h.tlb (hartKey h.dasid va) (key / 2 ^ 12, trk) }
    let s2 := (if !hbm && trk then s1.sfFill h.dasid va key else s1).acacheTake key
    match s.peerOf key with
    | some c => if s.peerOpen c then s2.hartPerform n key op else s2
    | none => s2.hartPerform n key op

/-- HART_ACCESS: one access of a hart after its own translation (R441 to R446). A frozen hart retires nothing; a released
one first takes the access-fault exception of the violating access; with dasid = 0 the access traps PROT. A store to another
chip's wake port goes to that chip, and a load of a port gives zero (log entry 105). -/
def execHartAccess (n : Nat) (pa : HartAddr) (pbmt : Nat) (op : HartOp) (s : State) : Res :=
  let h := s.hart n
  if !s.hartHere n || h.frozen.isSome then .next s
  else if h.fault then .next ((s.setHart n { h with fault := false }).hartTakes n .accessFault)
  else
    match op with
    | .fence _ => .next s
    | _ =>
      if h.dasid = 0 then .next (s.freezeHart n)
      else
        match s.hartPlace pa.pa with
        | .hbm key => .next (s.hartMemory n pa.va key pbmt true op)
        | .host key => .next (s.hartMemory n pa.va key pbmt false op)
        | .port c off =>
          (match op with
           | .store k v _ =>
             let whole := decide (k = 32) && decide (off % 32 = 0)
             if c ≠ s.chip.toNat % 4 then .next (s.send (.wakeTo (s.chip.toNat / 4 * 4 + c) whole (BitVec.ofNat 256 v)))
             else .next (s.portWrite (.hart n false) whole (BitVec.ofNat 256 v))
           | .amo .. | .sc .. =>
             let s1 := s.hartGives n (match op with | .sc .. => 1 | _ => 0)
             if c = s.chip.toNat % 4 then .next s1.portDrop else .next (s1.send (.wakeTo (s.chip.toNat / 4 * 4 + c) false 0))
           | _ => .next (s.hartGives n 0))
        | .fault => .next (s.hartTakes n .accessFault)

/-- DASID_WRITE: an access to the CSR dasid (R440): M and HS mode read it and write it, bits [63:16] zero; in VS mode it raises
a virtual-instruction exception, and in U mode an illegal-instruction exception. S mode is HS's (log entry 105). -/
def execDasidWrite (n : Nat) (mode : HartMode) (v : CsrOp) (s : State) : Res :=
  let h := s.hart n
  if !s.hartHere n || h.frozen.isSome then .next s
  else
    match mode, v with
    | .vs, _ => .next (s.hartTakes n .virtualInstr)
    | .u, _ => .next (s.hartTakes n .illegalInstr)
    | _, .read => .next (s.hartGives n h.dasid)
    | _, .write w => .next (s.setHart n { h with dasid := w.toNat % 2 ^ 16, exc := none })

/-- HART_SFENCE: the hart's permissions and every TLB entry for its dasid are dropped (R441). -/
def execHartSfence (n : Nat) (s : State) : Res :=
  let h := s.hart n
  if !s.hartHere n || h.frozen.isSome then .next s
  else .next { s with
    tlb := s.tlb.filter fun e => xlAsid e.1 != h.dasid
    harts := s.harts.map fun (e : Nat × Hart) => (e.1, { e.2 with tlb := e.2.tlb.filter fun x => x.1 / 2 ^ 45 != h.dasid }) }

/-- HART_FREEZE_TIMEOUT: a hart frozen for FHOLD is reset, its dasid cleared (R446). -/
def execHartFreezeTimeout (n : Nat) (s : State) : Res :=
  match (s.hart n).frozen with
  | some t0 => .next ((s.atLeast (t0 + 1000 * s.regs.fhold)).setHart n Hart.reset)
  | none => .next s

/- ## Remote accesses at their owner (R327, R394) -/

/-- What a remote access asks for: size and kind. -/
def RemoteOp.size : RemoteOp → Nat
  | .load n => n
  | .write bs => bs.length
  | .commit _ => 1
  | .atomic _ w _ _ => if w then 8 else 4

/-- The kind of translation it needs. -/
def RemoteOp.kind : RemoteOp → Kind
  | .load _ => .r
  | _ => .w

/-- Lines the atomic cache has room for: 2 MiB (R191). -/
def acacheLines : Nat := 4096

/-- The atomic cache owns a line for its lease; needing room, it writes back and gives up the one whose lease ends first
(R327; log entry 77). -/
def State.acacheOwn (s : State) (key : Nat) : State :=
  let m := Assoc.del s.fab.acache (key / 512)
  let first := leastOf (m.map fun e => e.2)
  let room := if m.length < acacheLines then m
    else (match m.find? fun e => first == some e.2 with
      | some e => Assoc.del m e.1
      | none => m)
  { s with fab := { s.fab with acache := Assoc.put room (key / 512) (s.clk.time + 1000 * s.regs.alease) } }

/-- A remote access whose page is present is performed at this chip, its home (R245, R327). -/
def State.remotePerform (s : State) (src asid va key cls grain : Nat) (op : RemoteOp) : State :=
  match op with
  | .load n => (s.touch asid va key cls grain).send (.remoteReply src (s.peek key n))
  | .write bs => (s.touch asid va key cls grain).pokeCoh key bs
  | .commit cells => cells.foldl (fun st e => st.pokeCoh (key + (e.1 - va)) [e.2]) (s.touch asid va key cls grain)
  | .atomic aop w b c =>
    let k := if w then 8 else 4
    let old := s.peekN key k
    let s0 := if aopWrites aop old b.toNat then s.pokeCoh key (leBytes k (aopVal aop w old b.toNat c.toNat)) else s
    let s1 := (s0.fill asid va key cls grain).send (.remoteReply src (leBytes k old))
    s1.acacheOwn key

/-- An absent page at the owner: the requester gets a ticket, and the page is served by the backfill unit or asked of the
host, or the service fails (R400, R401; log entry 80 for the ticket's name). -/
def State.remoteAbsent (s : State) (src asid va : Nat) (anon : Bool) : State :=
  let (n, s0) := s.fresh
  let pri := !anon && s.hosten asid
  let t : PTicket := { src := src, asid := asid, va := va, id := n % 4096, gen := n / 4096 % 16, pri := pri, since := s.clk.time }
  let s1 := ({ s0 with agents := { s0.agents with peerTicks := Assoc.put s0.agents.peerTicks n t } }).send
    (.ticket src t.id t.gen asid va)
  if pri then s1.send (.pri (s.pasidWord asid % 2 ^ 20) (va / 4096)) else s1.servePeer n

/-- REMOTE_REQUEST_RECEIVE: the owner translates the access again with its own walk, whose result is authoritative
(R394); a frozen peer's packets are dropped and counted, and a violation is answered with a denial and freezes it (R411). -/
def execRemoteRequestReceive (src asid va : Nat) (op : RemoteOp) (s : State) : Res :=
  if !s.up then .next s
  else if s.fab.frozenPeers.contains (src, asid) then .next s.fabDrop
  else
    match s.locate asid va (RemoteOp.kind op) with
    | .ok key cls grain =>
      if s.homeOf key = .own then .next (s.remotePerform src asid va key cls grain op)
      else .next ((s.freezePeer src asid).send (.denial src asid va))
    | .zero | .wake _ =>
      (match op with
       | .load n => .next (s.send (.remoteReply src (List.replicate n 0)))
       | _ => .next s)
    | .fault _ => .next ((s.freezePeer src asid).send (.denial src asid va))
    | .absent anon => .next (s.remoteAbsent src asid va anon)
    | .wait => .next s
    | .hole key => .fault (.noSuchMemory key)

/-- ATOMIC_CACHE_LEASE_END: the line is written back and given up (R327). -/
def execAtomicCacheLeaseEnd (line : Nat) (s : State) : Res :=
  match Assoc.find? s.fab.acache line with
  | some due => .next { s.atLeast due with fab := { s.fab with acache := Assoc.del s.fab.acache line } }
  | none => .next s

end Machine
end Sys2Proof
end

