-- ==== Sys2Proof/Machine/Float.lean ====
section
/-! DEFINITION. The floating-point, transcendental, packed, conversion and dot-product instructions (R172 to R180). -/

namespace Sys2Proof
namespace Machine

/-- Round an exact .f32 result into the destination (R173). -/
def putF (d : Opnd) (rm : Rm) (sat : Bool) (y : FNum) : List (Nat × Word) :=
  putW d (BitVec.ofNat 32 (Fmt.single.round rm sat y))

/-- FADD (R172, R173). -/
def execFadd (h : Hdr) (rm : Rm) (sat : Bool) (d a b : Opnd) (s : State) : Res :=
  .next (issue (.fadd h rm sat d a b) (shortWrites fun x => putF d rm sat (FNum.add rm (f32 (x.w a)) (f32 (x.w b)))) s)

/-- FSUB: a + (−b), whose zero signs are those of subtraction (R172, R173). -/
def execFsub (h : Hdr) (rm : Rm) (sat : Bool) (d a b : Opnd) (s : State) : Res :=
  .next (issue (.fsub h rm sat d a b) (shortWrites fun x =>
    putF d rm sat (FNum.add rm (f32 (x.w a)) (f32 (x.w b)).neg)) s)

/-- FMUL (R172, R173). -/
def execFmul (h : Hdr) (rm : Rm) (sat : Bool) (d a b : Opnd) (s : State) : Res :=
  .next (issue (.fmul h rm sat d a b) (shortWrites fun x => putF d rm sat (FNum.times rm (f32 (x.w a)) (f32 (x.w b)))) s)

/-- FFMA: one rounding (R172, R173). -/
def execFfma (h : Hdr) (rm : Rm) (sat : Bool) (d a b c : Opnd) (s : State) : Res :=
  .next (issue (.ffma h rm sat d a b c) (shortWrites fun x =>
    putF d rm sat (FNum.fused rm (f32 (x.w a)) (f32 (x.w b)) (f32 (x.w c)))) s)

/-- FMIN (R79, R172). -/
def execFmin (h : Hdr) (d a b : Opnd) (s : State) : Res :=
  .next (issue (.fmin h d a b) (shortWrites fun x => putF d .rn false (FNum.minNum (f32 (x.w a)) (f32 (x.w b)))) s)

/-- FMAX (R79, R172). -/
def execFmax (h : Hdr) (d a b : Opnd) (s : State) : Res :=
  .next (issue (.fmax h d a b) (shortWrites fun x => putF d .rn false (FNum.maxNum (f32 (x.w a)) (f32 (x.w b)))) s)

/-- FSET (R174). -/
def execFset (h : Hdr) (cc : Cc) (p : Nat) (a b : Opnd) (q : Nat) (s : State) : Res :=
  .next (issue (.fset h cc p a b q) (shortWrites fun x =>
    putP p (Cc.holdsFloat cc (f32 (x.w a)) (f32 (x.w b)) && x.t.pred q)) s)

/-- FRCP (R176, R177). -/
def execFrcp (h : Hdr) (rm : Rm) (sat : Bool) (d a : Opnd) (s : State) : Res :=
  .next (issue (.frcp h rm sat d a) (longWrites (.frcp h rm sat d a) fun x => putF d rm sat (frcpVal (f32 (x.w a)))) s)

/-- FRSQ (R176, R177). -/
def execFrsq (h : Hdr) (sat : Bool) (d a : Opnd) (s : State) : Res :=
  .next (issue (.frsq h sat d a) (longWrites (.frsq h sat d a) fun x => putF d .rn sat (frsqVal (f32 (x.w a)))) s)

/-- FSQRT (R176, R177). -/
def execFsqrt (h : Hdr) (rm : Rm) (sat : Bool) (d a : Opnd) (s : State) : Res :=
  .next (issue (.fsqrt h rm sat d a) (longWrites (.fsqrt h rm sat d a) fun x => putF d rm sat (fsqrtVal (f32 (x.w a)))) s)

/-- FEX2 (R176, R177). -/
def execFex2 (h : Hdr) (sat : Bool) (d a : Opnd) (s : State) : Res :=
  .next (issue (.fex2 h sat d a) (longWrites (.fex2 h sat d a) fun x => putF d .rn sat (fex2Val (f32 (x.w a)))) s)

/-- FLG2 (R176, R177). -/
def execFlg2 (h : Hdr) (sat : Bool) (d a : Opnd) (s : State) : Res :=
  .next (issue (.flg2 h sat d a) (longWrites (.flg2 h sat d a) fun x => putF d .rn sat (flg2Val (f32 (x.w a)))) s)

/-- FTRIG (R176, R177). -/
def execFtrig (h : Hdr) (cos sat : Bool) (d a : Opnd) (s : State) : Res :=
  .next (issue (.ftrig h cos sat d a) (longWrites (.ftrig h cos sat d a) fun x =>
    putF d .rn sat (if cos then ftrigCos (f32 (x.w a)) else ftrigSin (f32 (x.w a)))) s)

/-- FCLS (R175). -/
def execFcls (h : Hdr) (ty : Ty) (d a : Opnd) (s : State) : Res :=
  .next (issue (.fcls h ty d a) (shortWrites fun x =>
    putW d (BitVec.ofNat 32 (fclsVal ty ((x.w a).toNat % 2 ^ Ty.bits ty)))) s)

/-- Element e of a packed register as a value (R65). -/
def halfOf (ty : Ty) (w : Word) (e : Nat) : FNum := (Ty.fmt ty).decode (w.toNat / 2 ^ (16 * e) % 2 ^ 16)

/-- A packed operation, element by element (R178). -/
def packed (ty : Ty) (rm : Rm) (sat : Bool) (f : Nat → FNum) : Word :=
  BitVec.ofNat 32 ((Ty.fmt ty).round rm sat (f 1) * 2 ^ 16 + (Ty.fmt ty).round rm sat (f 0))

/-- HADD2 (R178). -/
def execHadd2 (h : Hdr) (ty : Ty) (rm : Rm) (sat : Bool) (d a b : Opnd) (s : State) : Res :=
  .next (issue (.hadd2 h ty rm sat d a b) (longWrites (.hadd2 h ty rm sat d a b) fun x =>
    putW d (packed ty rm sat fun e => FNum.add rm (halfOf ty (x.w a) e) (halfOf ty (x.w b) e))) s)

/-- HMUL2 (R178). -/
def execHmul2 (h : Hdr) (ty : Ty) (rm : Rm) (sat : Bool) (d a b : Opnd) (s : State) : Res :=
  .next (issue (.hmul2 h ty rm sat d a b) (longWrites (.hmul2 h ty rm sat d a b) fun x =>
    putW d (packed ty rm sat fun e => FNum.times rm (halfOf ty (x.w a) e) (halfOf ty (x.w b) e))) s)

/-- HFMA2 (R178). -/
def execHfma2 (h : Hdr) (ty : Ty) (rm : Rm) (sat : Bool) (d a b c : Opnd) (s : State) : Res :=
  .next (issue (.hfma2 h ty rm sat d a b c) (longWrites (.hfma2 h ty rm sat d a b c) fun x =>
    putW d (packed ty rm sat fun e =>
      FNum.fused rm (halfOf ty (x.w a) e) (halfOf ty (x.w b) e) (halfOf ty (x.w c) e))) s)

/-- CVT (R85 to R87, R179). -/
def execCvt (h : Hdr) (dt st : Ty) (rm : Rm) (sat : Bool) (d a : Opnd) (s : State) : Res :=
  .next (issue (.cvt h dt st rm sat d a) (longWrites (.cvt h dt st rm sat d a) fun x =>
    putTy dt d (cvtVal dt st rm sat (x.ty st a))) s)

/-- FSCAL (R172, R173). -/
def execFscal (h : Hdr) (rm : Rm) (sat : Bool) (d a b : Opnd) (s : State) : Res :=
  .next (issue (.fscal h rm sat d a b) (longWrites (.fscal h rm sat d a b) fun x =>
    putF d rm sat ((f32 (x.w a)).scale (x.w b).toInt)) s)

/-- The exact sum of four products of 8-bit elements (R180). -/
def dotSum (ty : Ty) (a b : Word) : FNum :=
  sumExact ((List.range 4).map fun i =>
    FNum.mul (Ty.value ty (a.toNat / 2 ^ (8 * i) % 256)) (Ty.value ty (b.toNat / 2 ^ (8 * i) % 256)))

/-- The exact integer sum of four products (R180). -/
def dotInt (ty : Ty) (a b : Word) : Int :=
  ((List.range 4).map fun i =>
    Ty.exact ty (a.toNat / 2 ^ (8 * i) % 256) * Ty.exact ty (b.toNat / 2 ^ (8 * i) % 256)).sum

/-- DOT4 on values (R180). -/
def dot4Val (ty : Ty) (rm : Rm) (sat : Bool) (a b c : Word) : Word :=
  match ty with
  | .dm8 =>
    let m := dotSum .dm8 a b
    BitVec.ofNat 32 (Fmt.single.round rm sat (if m.isZero then f32 c else FNum.add rm (f32 c) m))
  | .n8 => BitVec.ofNat 32 (Ty.round .n32 (Ty.exact .n32 c.toNat + dotInt .n8 a b) sat)
  | _ => BitVec.ofNat 32 (Ty.round .i32 (Ty.exact .i32 c.toNat + dotInt .i8 a b) sat)

/-- DOT4 (R180). -/
def execDot4 (h : Hdr) (ty : Ty) (rm : Rm) (sat : Bool) (d a b c : Opnd) (s : State) : Res :=
  .next (issue (.dot4 h ty rm sat d a b c) (longWrites (.dot4 h ty rm sat d a b c) fun x =>
    putW d (dot4Val ty rm sat (x.w a) (x.w b) (x.w c))) s)

end Machine
end Sys2Proof
end

