-- ==== Sys2Proof/Machine/Cross.lean ====
section
/-! DEFINITION. The convergent instructions SHFL, VOTE and CRDX (R181 to R186). -/

namespace Sys2Proof
namespace Machine

/-- The present threads of the convergent group that issues (R182). -/
def Ctx.present (x : Ctx) : List (Nat × Thread) :=
  match x.s.curRun with
  | some (_, q) => x.s.live q
  | none => []

/-- The vote set V: present threads that are active and take no trap at the word (R182, R184). -/
def Ctx.voters (x : Ctx) (i : Instr) (h : Hdr) : List Ctx :=
  (x.present.filter fun e => e.2.active h && (precheck x.k x.r.slot e.1 e.2 i).isNone).map fun e =>
    { x with r := { x.r with thr := e.1 }, t := e.2 }

/-- A present active thread traps by the field that names the source (R182). The model's choice: a LOOKAHEAD to which A and
another field both contribute counts as raised by A (log entry 94). -/
def sourceTraps (h : Hdr) (rs : List Nat) (t : Thread) : Bool :=
  t.active h && t.wins.any fun w => meets rs w.wr

/-- The source position of a shuffle (R183). -/
def shflSrc (mode : ShflMode) (l s : Nat) : Int :=
  match mode with
  | .idx => s % 64
  | .up => (l : Int) - s
  | .down => l + s
  | .xor => (l ^^^ (s % 64) : Nat)

/-- The value one thread's shuffle gives: a pair where wide (R183). -/
def shflVal (h : Hdr) (w64 : Bool) (mode : ShflMode) (a b : Opnd) (x : Ctx) : DWord :=
  let src := shflSrc mode (x.r.thr % 64) (x.w b).toNat
  let own := x.d a
  match x.present.find? (fun e => ((e.1 % 64 : Nat) : Int) == src) with
  | some e =>
    if sourceTraps h (wRegs w64 a) e.2 then own
    else Ctx.d { x with r := { x.r with thr := e.1 }, t := e.2 } a
  | none => own

/-- SHFL. -/
def execShfl (h : Hdr) (w64 : Bool) (mode : ShflMode) (d a b : Opnd) (s : State) : Res :=
  .next (issue (.shfl h w64 mode d a b) (shortWrites fun x =>
    let v := shflVal h w64 mode a b x
    if w64 then putD d v else putW d (v.extractLsb' 0 32)) s)

/-- The result of a vote, the same for every active thread (R184). -/
def voteWrites (f : VoteForm) (vs : List Ctx) : List (Nat × Word) :=
  match f with
  | .all p q => putP p (vs.all fun u => u.t.pred q)
  | .any p q => putP p (vs.any fun u => u.t.pred q)
  | .ballot d q => putD d (BitVec.ofNat 64 (((vs.filter fun u => u.t.pred q).map fun u => 2 ^ (u.r.thr % 64)).sum))
  | .uni p a => putP p (match vs with
      | [] => true
      | u :: _ => vs.all fun v => v.w a == u.w a)

/-- VOTE. -/
def execVote (h : Hdr) (f : VoteForm) (s : State) : Res :=
  .next (issue (.vote h f) (shortWrites fun x => voteWrites f (x.voters (.vote h f) h)) s)

/-- Combine the values of the vote set two at a time. -/
def fold1 {α : Type} (z : α) (f : α → α → α) : List α → α
  | [] => z
  | v :: vs => vs.foldl f v

/-- The sum of .add.f32 (R186): the exact sum rounded once. -/
def crdxSum (vs : List FNum) : FNum :=
  if vs.all FNum.isZero then .fin (vs.all FNum.sign) 0 1 else sumExact vs

/-- The result of a reduction over the vote set (R185). -/
def crdxVal (op : RedOp) (vs : List Word) : Word :=
  let fs := vs.map f32
  match op with
  | .addI32 => fold1 0 (· + ·) vs
  | .minI32 => fold1 0 (fun a b => if a.toInt ≤ b.toInt then a else b) vs
  | .maxI32 => fold1 0 (fun a b => if a.toInt ≤ b.toInt then b else a) vs
  | .minN32 => fold1 0 (fun a b => if a.toNat ≤ b.toNat then a else b) vs
  | .maxN32 => fold1 0 (fun a b => if a.toNat ≤ b.toNat then b else a) vs
  | .andB32 => fold1 0 (· &&& ·) vs
  | .orB32 => fold1 0 (· ||| ·) vs
  | .xorB32 => fold1 0 (· ^^^ ·) vs
  | .addF32 => roundF32 (crdxSum fs)
  | .minF32 => roundF32 (fold1 (.fin false 0 1) FNum.minNum fs)
  | .maxF32 => roundF32 (fold1 (.fin false 0 1) FNum.maxNum fs)

/-- CRDX. -/
def execCrdx (h : Hdr) (op : RedOp) (d a : Opnd) (s : State) : Res :=
  .next (issue (.crdx h op d a) (shortWrites fun x =>
    putW d (crdxVal op ((x.voters (.crdx h op d a) h).map fun u => u.w a))) s)

end Machine
end Sys2Proof
end

