-- ==== Sys2Proof/Machine/Fabric.lean ====
section
/-! DEFINITION. The fabric: peers and their loss (R325 to R328), packets and send allowance (R449, R450), time
(R451, R452), and ring reconfiguration (R453 to R455). -/

namespace Sys2Proof
namespace Machine

/-- Set what the chip holds of a peer. -/
def State.setPeer (s : State) (c : Nat) (p : Peer) : State := { s with fab := { s.fab with peers := Assoc.put s.fab.peers c p } }

/-- A peer of incarnation inc as it is first known: its ordered sequences start at 0. -/
def Peer.fresh (st : PeerSt) (inc now : Nat) : Peer := { st := st, inc := inc, since := now, oseqOut := 0, oseqIn := 0, pend := [] }

/-- The threads that wait for one unacknowledged write to a peer that has become lost: LOSTW, and the peer's entry in
the record of the task (R328); a copy's write ends its copy with PEERLOST (R326). -/
def State.loseWrite (s : State) (w : RemoteWr) : State :=
  if let some cslot := w.copy then
    s.updCore w.core fun co => { co with copies := Assoc.modify co.copies cslot fun (c : CopyOp) =>
      if c.uid = w.uid then { c with done := some (status Code.peerlost 0) } else c }
  else
  let thrs := if w.thrs.isEmpty then (match s.findUid w.uid with
    | some (core, slot) => (s.threadsOf core slot).map fun e => e.1
    | none => []) else w.thrs
  let s1 := thrs.foldl (fun st i => st.updByUid w.uid i none (fun _ => []) fun t => { t with lostw := true }) s
  match s.findUid w.uid with
  | some (core, slot) => s1.updTask core slot fun k => k.notePeer w.peer
  | none =>
    { s1 with agents := { s1.agents with saved := s1.agents.saved.map fun (e : Nat × Saved) =>
        if e.2.task.uid = w.uid then (e.1, { e.2 with task := e.2.task.notePeer w.peer }) else e } }

/-- Every set with a member at the peer begins its departure (R318). -/
def State.departPeer (s : State) (gone : Nat → Bool) : State :=
  s.veins.foldl (fun st e =>
    let ranks := (e.2.members.filter fun m => m.1 != e.2.rank && gone m.2.1).map fun m => m.1
    if ranks.isEmpty || e.2.forming.isSome || e.2.joining.isSome then st else st.beginDepart e.1 e.2 ranks) s

/-- A remote write that has not left its chip is dropped: DROP of its threads and the peer's entry, or its copy's end with a
code (R262, R326, R328). -/
def State.dropRemote (s : State) (id code : Nat) (w : RemoteWr) : State :=
  let s1 := { s with rws := Assoc.del s.rws id }
  match w.copy with
  | some cslot =>
    s1.updCore w.core fun co => { co with copies := Assoc.modify co.copies cslot fun (c : CopyOp) =>
      if c.uid = w.uid then { c with done := some (status code 0) } else c }
  | none =>
    (match s1.findUid w.uid with
     | some (core, slot) =>
       let thrs := if w.thrs.isEmpty then (s1.threadsOf core slot).map (fun e => e.1) else w.thrs
       thrs.foldl (fun st i => st.dropWrite ⟨core, slot, i⟩ w.peer) s1
     | none => s1)

/-- What waits for a peer that cannot be reached any more never leaves: its headers for that peer go, and stores among it are
dropped (R326, R455). -/
def State.dropWaits (s : State) (c code : Nat) : State :=
  let places := (s.fab.waits.filter fun w => w.2 == c).map Prod.fst
  let s1 := { s with fab := { s.fab with
      waits := s.fab.waits.filter fun w => w.2 != c
      sentTo := s.fab.sentTo.zipIdx.map fun e => if places.contains e.2 then e.1.filter (fun h => h.tgt != c) else e.1 } }
  places.foldl (fun (st : State) (i : Nat) => match s.out[i]? with
    | some (OutMsg.remote _ id) => (match Assoc.find? st.rws id with | some w => st.dropRemote id code w | none => st)
    | _ => st) s1

/-- A peer becomes lost, with the incarnation known (R326): its tickets retire, what waits for it and its unacknowledged writes
are settled, and its members depart. -/
def State.peerLost (s : State) (c : Nat) (p : Peer) : State :=
  let s0 := ((s.setPeer c { p with st := .lost, since := s.clk.time, pend := [] }).peerTickets c).dropWaits c Code.peerlost
  let dead := (s0.rws.filter fun e => e.2.peer == c).map fun e => e.2
  let s1 := dead.foldl (fun st w => st.loseWrite w) s0
  ({ s1 with rws := s1.rws.filter fun e => e.2.peer != c }).departPeer fun x => x == c

/-- LINK_DOWN: a reachable peer loses its last working route, or its packets are refused; a held or lost one stays as it is
(R326, R454). -/
def execLinkDown (peer : Nat) (s : State) : Res :=
  match Assoc.find? s.fab.peers peer with
  | some p => if p.st = .reachable then .next (s.setPeer peer { p with st := .unreachable, since := s.clk.time }) else .next s
  | none => .next (s.setPeer peer (Peer.fresh .unreachable 0 s.clk.time))

/-- PEER_LOSS_TIMEOUT: unreachable for PLTO µs without a break (R326). A peer never heard of is unreachable from the start, and
is lost by its age alone. -/
def execPeerLossTimeout (peer : Nat) (s : State) : Res :=
  match Assoc.find? s.fab.peers peer with
  | some p =>
    if p.st = .unreachable then .next ((s.atLeast (p.since + 1000 * s.regs.plto)).peerLost peer p) else .next s
  | none => .next (s.atLeast (1000 * s.regs.plto))

/-- What a peer's incarnation learned at a link means: a new one makes it lost, the one known makes it reachable, from relock on
where a reconfiguration holds it (R454), and
Vebry's restoring of a lost entry is a bring-up with the incarnation that the entry holds (R325, R326). -/
def State.learn (s : State) (peer inc : Nat) : State :=
  match Assoc.find? s.fab.peers peer with
  | none => s.setPeer peer (Peer.fresh .reachable inc s.clk.time)
  | some p =>
    if p.inc = inc then
      (match p.st, s.fab.reconf with
       | .held, some r => { s with fab := { s.fab with reconf := some { r with routed := (r.routed ++ [peer]).dedup } } }
       | _, _ => s.setPeer peer { p with st := .reachable, since := s.clk.time })
    else s.peerLost peer (Peer.fresh .lost inc s.clk.time)

/-- LINK_BRINGUP (R325, R326). -/
def execLinkBringup (peer inc : Nat) (s : State) : Res :=
  if s.up then .next (s.learn peer (inc % 2 ^ 16)) else .next s

/-- The packets held behind a gap whose turn has come, with what they bring, in order. -/
def Peer.drainPend (p : Peer) : Nat → Peer × List FabMsg
  | 0 => (p, [])
  | n + 1 =>
    match p.pend.find? fun e => e.1 == p.oseqIn with
    | some e =>
      let x := Peer.drainPend { p with pend := p.pend.filter fun y => y.1 != e.1, oseqIn := (p.oseqIn + 1) % 2 ^ 16 } n
      (x.1, e.2 :: x.2)
    | none => (p, [])

/- ## Packets (R448 to R450) -/

/-- A header's 32 bytes (R449). -/
def FabHdr.bits (hd : FabHdr) : BitVec 256 :=
  BitVec.ofNat 256 (hd.tinc % 2 ^ 16 * 2 ^ 240 + hd.tgt % 2 ^ 13 * 2 ^ 227 + hd.src % 2 ^ 13 * 2 ^ 214 + hd.asid % 2 ^ 16 * 2 ^ 198 +
    hd.cls % 4 * 2 ^ 196 + hd.vc % 8 * 2 ^ 193 + hd.kind % 64 * 2 ^ 187 + hd.nflit % 32 * 2 ^ 182 + hd.oseq % 2 ^ 16 * 2 ^ 166 +
    hd.addr % 2 ^ 57 * 2 ^ 109 + hd.rest % 2 ^ 109)

/-- The header that 32 bytes hold, of a packet that has come by a link of a type and brings what it brings (R449). -/
def FabHdr.ofBits (b : BitVec 256) (via : LinkType) (msg : FabMsg) : FabHdr :=
  let f := fun (lo n : Nat) => fld b.toNat lo n
  { tinc := f 240 16, tgt := f 227 13, src := f 214 13, asid := f 198 16, cls := f 196 2, vc := f 193 3, kind := f 187 6,
    nflit := f 182 5, oseq := f 166 16, addr := f 109 57, rest := f 0 109, via := via, msg := msg }

/-- A packet's header has a field that makes its receiver drop it (R325, R449). -/
def FabHdr.bad (hd : FabHdr) (inc : Nat) : Bool :=
  hd.tinc != inc || hd.cls == 3 || decide (6 ≤ hd.vc) || (hd.cls == 2 && hd.vc != 0) || decide (kindCount ≤ hd.kind) ||
    (hd.cls != 0 && hd.oseq != 0)

/-- The hop by which a packet has come (R448). -/
def FabHdr.hop (hd : FabHdr) : Option Hop := hopTable.find? fun h => decide (h.via = hd.via) && h.vc == hd.vc

/-- A packet for another chip passes through: it leaves on the hop that follows on its route, whose channel its header then
names (R448, R449). One of the control class goes over one link alone; one that has no hop left, or a field that is dropped, is
dropped and counted (log entry 99). -/
def State.forward (s : State) (hd : FabHdr) : State :=
  if hd.cls = 2 then s
  else if FabHdr.bad hd hd.tinc then s.fabDrop
  else
    let (f, s1) := s.useFree
    match (FabHdr.hop hd).bind fun h => pickHop s.chip.toNat hd.src hd.tgt hd.cls f (some h) with
    | some h => s1.send (.forward { hd with vc := h.vc, via := h.via })
    | none => s.fabDrop

/-- The messages that waited for a peer leave (R453). -/
def State.letGo (s : State) (c : Nat) : State :=
  { s with fab := { s.fab with waits := s.fab.waits.filter fun w => w.2 != c } }

/-- An event of the chip's own follows, in its turn. -/
def State.follow (s : State) (i : Instr) : State := { s with agenda := s.agenda ++ [i] }

/-- A peer enters low-power hold, or leaves it (R472): it is held as in a reconfiguration, and is reachable again at its end
where no reconfiguration holds it. -/
def State.holdLearn (s : State) (src : Nat) (held : Bool) : State :=
  match Assoc.find? s.fab.peers src with
  | none => s
  | some p =>
    if held then
      if p.st = .reachable then
        { s with fab := { s.fab with peers := Assoc.put s.fab.peers src { p with st := .held }, asleep := s.fab.asleep ++ [src] } }
      else s
    else if !s.fab.asleep.contains src then s
    else
      let s1 := { s with fab := { s.fab with asleep := s.fab.asleep.filter fun c => c != src } }
      if p.st = .held ∧ s.fab.reconf.isNone then (s1.setPeer src { p with st := .reachable, since := s.clk.time }).letGo src else s1

/-- What a packet brings whose delivery has no row of its own is learned. -/
def State.msgLearn (s : State) (src : Nat) : FabMsg → State
  | .none => s
  | .lowPower held => s.holdLearn src held
  | .rot vsid rots rott => s.rotLearn vsid rots rott
  | .form vsid rank desc => s.formLearn vsid rank desc
  | .freeze vsid ranks => s.freezeLearn vsid ranks
  | .leave vsid rank => s.leaveLearn vsid rank
  | .joined vsid rank => s.joinedLearn vsid rank
  | .denied r op => s.denied r op
  | .remote asid va op => s.follow (.remoteRequestReceive src asid va op)
  | .mark slot m => s.follow (.phaseMarkReceive slot src m)
  | .vein p => s.follow (.veinUpdateReceive p)
  | .drain link => s.send (.drainAck link)

/-- FABRIC_PACKET_RECEIVE: a packet for another chip passes through; a bad one, or one of a frozen peer, is dropped and
counted (R411); an ordered one is delivered in its turn, and what it brings follows in that order (R450). -/
def execFabricPacketReceive (hd : FabHdr) (s : State) : Res :=
  if !s.up then .next s
  else if hd.tgt ≠ s.chip.toNat then .next (s.forward hd)
  else if FabHdr.bad hd s.inc.toNat ∨ s.fab.frozenPeers.contains (hd.src, hd.asid) then .next s.fabDrop
  else if hd.cls ≠ 0 then .next (s.msgLearn hd.src hd.msg)
  else
    match Assoc.find? s.fab.peers hd.src with
    | none => .next s
    | some p =>
      if hd.oseq = p.oseqIn then
        let x := Peer.drainPend { p with oseqIn := (p.oseqIn + 1) % 2 ^ 16 } p.pend.length
        .next (x.2.foldl (fun st m => st.msgLearn hd.src m) ((s.setPeer hd.src x.1).msgLearn hd.src hd.msg))
      else if p.pend.any fun e => e.1 == hd.oseq then .next s
      else .next (s.setPeer hd.src { p with pend := p.pend ++ [(hd.oseq, hd.msg)] })

/-- ALLOWANCE_RETURN: a receiver has freed buffers of one set of one link (R450). -/
def execAllowanceReturn (link bufset flits : Nat) (s : State) : Res :=
  let k := link * 64 + bufset
  .next { s with fab := { s.fab with allow := Assoc.put s.fab.allow k (Assoc.getD s.fab.allow 0 k + flits) } }

/- ## Time (R451, R452) -/

/-- The chip is this fabric's grandmaster (R451). -/
def State.isGrand (s : State) : Bool := s.fab.grand == some s.chip.toNat

/-- PTP_SYNC_MESSAGE: offset is how far the grandmaster's TIME lies ahead of this chip's, as measured. Sixteen intervals in a
row within the bound lock the chip (R452). The first lock after a reset may step TIME forwards; while the chip is locked a
correction changes TIME's rate, and one that is not keeps its own (R451; log entry 104). The grandmaster follows none, and in
Recovery and in S2 no time message comes (R466, R472). -/
def execPtpSyncMessage (offset : Int) (bound : Nat) (s : State) : Res :=
  if !s.up ∨ s.plat.power = .s2 ∨ s.isGrand then .next s
  else
    let streak := if offset.natAbs ≤ bound then min (s.clk.streak + 1) 16 else 0
    let locked := decide (streak = 16)
    let first := locked && !s.clk.stepped
    .next { s with clk := { s.clk with
      streak := streak
      locked := locked
      stepped := s.clk.stepped || locked
      time := if first then s.clk.time + offset.toNat else s.clk.time
      slew := if locked then (-offset).toNat else 0
      gain := if locked && !first then offset.toNat else 0 } }

/-- 2^-7 s in nanoseconds. -/
def syncNs : Nat := 7812500

/-- The links that a reconfiguration holds in the dark (R453). -/
def State.darkLinks (s : State) : List Nat :=
  match s.fab.reconf with
  | some r => if r.darkSince.isSome then r.links else []
  | none => []

/-- SYNC_INTERVAL: a sync message is sent in the control class, and the next is due 2^-7 s later. None goes out in Recovery or in
S2, where the links are held (R466, R472), nor on a link in the dark (R453). -/
def execSyncInterval (s : State) : Res :=
  let due := s.clk.tick + syncNs
  let s1 := s.atLeast due
  let s2 := { s1 with clk := { s1.clk with tick := due } }
  .next (if !s.up || decide (s.plat.power = .s2) then s2 else s2.send (.sync s1.clk.time s1.darkLinks))

/- ## Ring reconfiguration (R453 to R455) -/

/-- The drain of links begins (R453 step 1): a drain marker goes out on each, the peers that have no other route are held, and
so are the ordered packets to those whose fixed route uses one of the links. -/
def State.drainBegin (s : State) (links : List Nat) (x : DrainPeers) : State :=
  let s1 := links.foldl (fun st l => st.send (.drain l)) s
  let old := match s.fab.reconf with
    | some r => (r.links, r.unacked)
    | none => ([], [])
  let was := match s.fab.reconf with
    | some r => (r.ordered, r.routed)
    | none => ([], [])
  { s1 with fab := { s1.fab with
    peers := s1.fab.peers.map fun (e : Nat × Peer) => if x.only.contains e.1 ∧ e.2.st = .reachable then (e.1, { e.2 with st := .held }) else e
    reconf := some { links := (old.1 ++ links).dedup, unacked := (old.2 ++ links).dedup, darkSince := none,
                     ordered := (was.1 ++ x.ordered).dedup, routed := was.2 } } }

/-- A departure of some set is in its freeze (R455). -/
def State.inFreeze (s : State) : Bool := s.veins.any fun e => !e.2.frozen.isEmpty

/-- RECONFIG_DRAIN: the drain begins, or waits for a departure that is in its freeze (R455). -/
def execReconfigDrain (links : List Nat) (peers : DrainPeers) (s : State) : Res :=
  if s.inFreeze then .next { s with fab := { s.fab with drainDue := s.fab.drainDue ++ [(links, peers)] } }
  else .next (s.drainBegin links peers)

/-- Drains that waited begin once every departure has resumed (R455). -/
def State.drainSettle (s : State) : State :=
  if s.inFreeze then s
  else s.fab.drainDue.foldl (fun st x => st.drainBegin x.1 x.2) { s with fab := { s.fab with drainDue := [] } }

/-- DRAIN_MARKER_ACK: with the last the switch may move, and the dark interval begins. -/
def execDrainMarkerAck (link : Nat) (s : State) : Res :=
  match s.fab.reconf with
  | none => .next s
  | some r =>
    let left := r.unacked.filter fun l => l != link
    .next { s with fab := { s.fab with reconf := some { r with
      unacked := left
      darkSince := if left.isEmpty ∧ r.darkSince.isNone then some s.clk.time else r.darkSince } } }

/-- The ordered packets that waited for a new route to a peer leave (R453), where the peer is not in low-power hold. -/
def State.letOrdered (s : State) (cs : List Nat) : State :=
  cs.foldl (fun st c => if decide (st.peerSt c = .held) then st else st.letGo c) s

/-- Relock (R453 steps 3 and 4, R455): a held peer with a route is reachable, and what waited for it leaves; one whose new
incarnation is learned is lost, and any other becomes unreachable now, but for one in low-power hold (R472), and the stores that
waited for it are dropped; then the vein sets re-form, and a sweep that fell due and the joins that waited take place. -/
def State.relock (s : State) (reachable newInc : List Nat) : State :=
  let held := s.fab.peers.filter fun e => decide (e.2.st = .held) && !s.fab.asleep.contains e.1
  let ordered := match s.fab.reconf with
    | some r => r.ordered
    | none => []
  let s0 := held.foldl (fun (st : State) e =>
    if newInc.contains e.1 then st.peerLost e.1 (Peer.fresh .lost ((e.2.inc + 1) % 2 ^ 16) st.clk.time)
    else if reachable.contains e.1 then (st.setPeer e.1 { e.2 with st := .reachable, since := st.clk.time }).letGo e.1
    else (st.setPeer e.1 { e.2 with st := .unreachable, since := st.clk.time }).dropWaits e.1 Code.unreach)
    { s with fab := { s.fab with reconf := none } }
  let s1 := s0.letOrdered ordered
  let s2 := s1.departPeer fun c => decide (s1.peerSt c = .unreachable)
  s2.veins.foldl (fun (st : State) e =>
    let due := decide (e.2.banksman = e.2.rank) && e.2.sweep.isNone && decide (2 ^ 28 - 2 ^ 24 < e.2.nextSeq)
    (st.updVein e.1 fun w => { w with sweepDue := w.sweepDue || due }).slotSettle e.1) s2

/-- RECONFIG_RELOCK. -/
def execReconfigRelock (reachable newInc : List Nat) (s : State) : Res :=
  if s.fab.reconf.isSome then .next (s.relock reachable newInc) else .next s

/-- RCDARK_EXPIRY: the dark interval exceeds RCDARK: relock is declared, with the routes of the links brought up by then (R455). -/
def execRcdarkExpiry (s : State) : Res :=
  match s.fab.reconf with
  | some r =>
    (match r.darkSince with
     | some t0 => .next ((s.atLeast (t0 + 1000 * s.fab.rcdark)).relock r.routed [])
     | none => .next s)
  | none => .next s

end Machine
end Sys2Proof
end

