-- ==== Sys2Proof/Machine/Sm2.lean ====
section
/-! DEFINITION. The verification of a signature under SM2 (GB/T 32918.2-2016) with SM3 and the default distinguishing
identifier, as the boot ROM makes it (R463, R464; log entry 101 for the curve and the byte order). -/

namespace Sys2Proof
namespace Machine
namespace Sm2

/-- The field's prime, the curve's coefficients, the group's order and the base point of the recommended curve. -/
def p : Nat := 0xFFFFFFFEFFFFFFFFFFFFFFFFFFFFFFFFFFFFFFFF00000000FFFFFFFFFFFFFFFF
def a : Nat := 0xFFFFFFFEFFFFFFFFFFFFFFFFFFFFFFFFFFFFFFFF00000000FFFFFFFFFFFFFFFC
def b : Nat := 0x28E9FA9E9D9F5E344D5A9E4BCF6509A7F39789F515AB8F92DDBCBD414D940E93
def n : Nat := 0xFFFFFFFEFFFFFFFFFFFFFFFFFFFFFFFF7203DF6B21C6052B53BBF40939D54123
def gx : Nat := 0x32C4AE2C1F1981195F9904466A39C9948FE30BBFF2660BE1715A4589334C74C7
def gy : Nat := 0xBC3736A2F4F6779C59BDCEE36B692153D0A9877CC62A474002DF32E52139F0A0

/-- x to the power e mod p, over the bits of e from bit i − 1 down. -/
def pow (x e : Nat) : Nat → Nat
  | 0 => 1
  | i + 1 =>
    let r := pow x (e / 2) i
    if e % 2 = 0 then r * r % p else r * r % p * x % p

/-- The inverse in the field. -/
def inv (x : Nat) : Nat := pow x (p - 2) 256

/-- Difference in the field. -/
def sub (x y : Nat) : Nat := (x + p - y % p) % p

/-- A point of the curve; none is the point at infinity. -/
abbrev Point := Option (Nat × Nat)

/-- The sum of two points. -/
def add : Point → Point → Point
  | none, q => q
  | q, none => q
  | some (x1, y1), some (x2, y2) =>
    if x1 = x2 ∧ (y1 + y2) % p = 0 then none
    else
      let l := if x1 = x2 then (3 * x1 * x1 + a) * inv (2 * y1 % p) % p else sub y2 y1 * inv (sub x2 x1) % p
      let x3 := sub (l * l % p) (x1 + x2)
      some (x3, sub (l * sub x1 x3 % p) y1)

/-- k times a point, over i bits of k. -/
def mul (q : Point) (k : Nat) : Nat → Point
  | 0 => none
  | i + 1 =>
    let h := mul q (k / 2) i
    let d := add h h
    if k % 2 = 0 then d else add d q

/-- A number of 32 bytes, the most significant first, and back. -/
def ofBytes (bs : List Byte) : Nat := bs.foldl (fun acc x => acc * 256 + x.toNat) 0
def toBytes (v : Nat) : List Byte := (leBytes 32 v).reverse

/-- The default distinguishing identifier, 1234567812345678, after its length in bits. -/
def ident : List Byte :=
  [0x00, 0x80, 0x31, 0x32, 0x33, 0x34, 0x35, 0x36, 0x37, 0x38, 0x31, 0x32, 0x33, 0x34, 0x35, 0x36, 0x37, 0x38]

/-- The digest of the signer's identifier, the curve and the public key. -/
def za (x y : Nat) : List Byte := Sm3.digest (ident ++ [a, b, gx, gy, x, y].flatMap toBytes)

/-- The point lies on the curve. -/
def onCurve (x y : Nat) : Bool := decide (x < p) && decide (y < p) && (y * y) % p == (x * x * x + a * x + b) % p

/-- Whether a signature, r then s, of a message verifies under a public key, x then y. -/
def verify (pubk sig msg : List Byte) : Bool :=
  let x := ofBytes (pubk.take 32)
  let y := ofBytes (pubk.drop 32)
  let r := ofBytes (sig.take 32)
  let s := ofBytes (sig.drop 32)
  let e := ofBytes (Sm3.digest (za x y ++ msg))
  let t := (r + s) % n
  onCurve x y && decide (0 < r) && decide (r < n) && decide (0 < s) && decide (s < n) && decide (t ≠ 0) &&
    match add (mul (some (gx, gy)) s 256) (mul (some (x, y)) t 256) with
    | some (x1, _) => (e + x1) % n == r
    | none => false

end Sm2
end Machine
end Sys2Proof
end

