-- ==== Sys2Proof/Machine/Platform.lean ====
section
/-! DEFINITION. The platform: trace records (R470), power and throttling (R471 to R474), resets and boot (R463, R464,
R499), Recovery's mailbox (R466, R467), fuses (R465), attestation (R468) and debug states (R469, R473). -/

namespace Sys2Proof
namespace Machine

/- ## The trace ring (R470) -/

/-- The 32 bytes of a trace record. -/
def TraceRec.bytes (e : TraceRec) : List Byte :=
  leBytes 8 e.time ++ leBytes 4 e.lnum ++ leBytes 2 e.thr ++ leBytes 2 e.core ++ leBytes 8 e.pc ++ leBytes 6 e.tidx ++
    leBytes 2 e.sel

/-- Where the next record lies. -/
def State.traceAddr (s : State) : Nat :=
  fld s.regs.trbase.toNat 5 52 * 32 + 32 * (s.regs.trwp.toNat % 2 ^ fld s.regs.trctl.toNat 0 5)

/-- TRACE_RECORD_WRITE: the oldest waiting event enters the ring, or is discarded and counted where its write would
fault; in a granule whose bias changes it waits (R437), and so it does for a set that holds commits. -/
def execTraceRecordWrite (s : State) : Res :=
  match s.trace with
  | [] => .next s
  | e :: rest =>
    let s1 := { s with trace := rest }
    if s.devBusy 0 s.traceAddr .w || s.storeWaits 0 s.traceAddr then .next s else
    match s1.devStoreCoh 0 s.traceAddr (TraceRec.bytes e) with
    | some s2 => .next { s2 with regs := { s2.regs with trwp := s2.regs.trwp + 1 } }
    | none => .next { s1 with regs := { s1.regs with trdrop := min (s1.regs.trdrop + 1) (2 ^ 32 - 1) } }

/- ## The host's window on the deputy log (R459, R462) -/

/-- The 32 bytes of a log record. -/
def DRec.bytes (e : DRec) : List Byte :=
  leBytes 8 e.time ++ leBytes 4 e.seqn ++ leBytes 2 e.kind ++ leBytes 2 e.inc ++ leBytes 2 e.unit_ ++ leBytes 2 e.asid ++
    leBytes 4 e.arg0 ++ leBytes 8 e.arg1

/-- This chip is the one of its package that DLSEL selects (R325, R462). -/
def State.dlogHere (s : State) : Bool := s.plat.dlsel == s.chip.toNat % 4

/-- Where an offset in a BAR of the function lies (R430): a chip's management registers, a chip's wake port, or BAR4's window. -/
inductive BarPlace where
  | mgmt (chip off : Nat)
  | port (chip off : Nat)
  | window (off : Nat)
  deriving DecidableEq, Repr

/-- The BARs, with their sizes and the order of the chips in them (R430); none outside. -/
def barPlace (bar off : Nat) : Option BarPlace :=
  match bar with
  | 0 => if off < 2 ^ 26 then some (.mgmt (off / 2 ^ 24) (off % 2 ^ 24)) else none
  | 2 => if off < 2 ^ 14 then some (.port (off / 2 ^ 12) (off % 2 ^ 12)) else none
  | 4 => if off < 2 ^ 20 then some (.window off) else none
  | _ => none

/-- The management registers of a chip that the spec names, by name: it gives no offsets (log entry 106). -/
inductive Mgmt where
  | cec
  | cloff
  | mfail (word : Nat)
  | lock
  | bias (addr : Nat)
  | cert (word : Nat)
  deriving DecidableEq, Repr

/-- MFAIL: bit 2 × core + macro of each macro marked failed (R457). -/
def State.mfailMap (s : State) : Nat :=
  (s.cores.map fun (e : Nat × Core) => (if e.2.mac0.fail then 2 ^ (2 * e.1) else 0) + (if e.2.mac1.fail then 2 ^ (2 * e.1 + 1) else 0)).sum

/-- The number of a granule's bias state in the bias register; one that is not offered reads 4 (R438; log entry 106). -/
def biasCode : Option Bias → Nat
  | some .host => 0
  | some .todev => 1
  | some .dev => 2
  | some .tohost => 3
  | none => 4

/-- What a management register reads, eight bytes at most (R438, R452, R456 to R458, R468); zero in Recovery (R466). -/
def State.mgmtRead (s : State) (r : Mgmt) : Nat :=
  if !s.up then 0
  else
    match r with
    | .cec => s.plat.cec
    | .cloff => (s.plat.clOff.map fun c => 2 ^ c).sum
    | .mfail w => s.mfailMap / 2 ^ (64 * w) % 2 ^ 64
    | .lock => if s.clk.locked then 1 else 0
    | .bias addr => biasCode (Assoc.find? s.host.bias (s.granule addr))
    | .cert w => leNat (((if s.plat.sec = .openDebug then s.plat.dbgCert else s.plat.cert).drop (8 * w)).take 8)

/-- A record as the window shows it: one that has read back uncorrectable is marked (R460). -/
def State.shown (s : State) (e : DRec) : DRec := if (Assoc.find? s.plat.logBad e.seqn).isSome then { e with kind := 0xFFFF } else e

/-- Eight bytes that the host reads of BAR4: the recovery mailbox (R467), DLSEL, DLSEQ, and the selected chip's records in index
order, while the link is up (R462). None elsewhere, of another chip, and of a record not written since cold reset, whose bytes
the spec leaves open. -/
def State.barRead (s : State) (off : Nat) : Option Nat :=
  if s.plat.power = .s3 ∨ off % 8 ≠ 0 then none
  else if off = 0 then some (s.plat.cmd % 2 ^ 32 + s.plat.status % 2 ^ 32 * 2 ^ 32)
  else if off = 8 then some (s.plat.arg % 2 ^ 64)
  else if 0x100 ≤ off ∧ off < 0x1000 then
    some (leNat ((List.range 8).map fun i => Assoc.getD s.plat.data 0 (off - 0x100 + i)))
  else if off = 0x1000 then some s.plat.dlsel
  else if !s.dlogHere then none
  else if off = 0x1008 then some (s.dseq % 2 ^ 32)
  else if 0x80000 ≤ off ∧ off < 0x100000 then
    (Assoc.find? s.dlog ((off - 0x80000) / 32)).map fun e => rdBytes (DRec.bytes (s.shown e)) (off % 32) 8
  else none

/- ## Power (R471 to R474) -/

/-- The state that the arithmetic clock is to run in, in the states that run. -/
def State.clockDue (s : State) : Power := if s.plat.power = .a0 ∨ s.plat.power = .a1 then s.clockFor else s.plat.power

/-- The arithmetic clock follows what asks for it, once every core stands at a run boundary (R471). -/
def State.reclock (s : State) : State := if s.runs.isEmpty then s.powerTo s.clockDue else s

/-- The record of a thermal or power-cap action (R460). -/
def State.thermal (s : State) (cap : Bool) (entered : Power) : State :=
  s.deputy 9 0xFF00 0 (s.plat.tj % 2 ^ 16 + if cap then 2 ^ 16 else 0) (powerCode entered)

/-- POWER_CAP: the module's input has stood above 3.3 kW for 1 ms; the chip of highest draw that is not yet forced is this
one where order says so, and moves to A1. -/
def execPowerCap (milliwatts : Nat) (order : Bool) (s : State) : Res :=
  if milliwatts ≤ 3300000 ∨ !order ∨ !s.up then .next s
  else
    let s1 := ({ s with plat := { s.plat with capForce := true } }).reclock
    .next (s1.thermal true s1.clockDue)

/-- JUNCTION_THROTTLE: at 95 °C or more the chip is forced to A1; tj is in 0.1 °C. -/
def execJunctionThrottle (tj : Nat) (s : State) : Res :=
  let s0 := { s with plat := { s.plat with tj := tj } }
  if tj < 950 ∨ s.plat.thermForce ∨ !s.up then .next s0
  else
    let s1 := ({ s0 with plat := { s0.plat with thermForce := true } }).reclock
    .next (s1.thermal false s1.clockDue)

/-- THROTTLE_RELEASE: below 90 °C the throttle's force ends; the cap's ends once the input has stayed below 3.1 kW for
10 ms. -/
def execThrottleRelease (tj : Nat) (inputLow : Bool) (s : State) : Res :=
  let s0 := { s with plat := { s.plat with tj := tj } }
  let therm := s.plat.thermForce && decide (900 ≤ tj)
  let cap := s.plat.capForce && !inputLow
  if therm = s.plat.thermForce ∧ cap = s.plat.capForce then .next s0
  else
    let s1 := ({ s0 with plat := { s0.plat with thermForce := therm, capForce := cap } }).reclock
    .next (s1.thermal (s.plat.capForce && !cap) s1.clockDue)

/-- POWER_STATE_A1: Vebry asks for A1 or no longer does; refused in Recovery (R473). -/
def execPowerStateA1 (on : Bool) (s : State) : Res :=
  if s.up then .next ({ s with plat := { s.plat with wantA1 := on } }).reclock else .next s

/-- A cluster may be gated: it holds no resident task, its agents wait in IDLE, and none of its threads is halted. -/
def State.mayGate (s : State) (cluster : Nat) : Bool :=
  !(s.tasks.any fun e => e.1 / 32 / 8 == cluster && decide (e.1 % 32 < fwSlot)) &&
    s.threads.all fun e => e.1 / 131072 / 8 != cluster || e.2.ended || (!e.2.halted && match e.2.wait with
      | .idle .. => true
      | _ => false)

/-- S1_ENTRY (R471, R473). -/
def execS1Entry (cluster : Nat) (s : State) : Res :=
  if s.up && s.mayGate cluster && !s.plat.gated.contains cluster then
    .next (({ s with plat := { s.plat with gated := s.plat.gated ++ [cluster], gatedAt := Assoc.put s.plat.gatedAt cluster s.clk.cycles } }).deputy 11 (cluster * 256) 0 (powerCode s.plat.power) 2)
  else .next s

/-- S1_EXIT: on a placement the cluster runs again. -/
def execS1Exit (cluster : Nat) (s : State) : Res := .next (s.ungate cluster)

/-- Every step of the sequence of R472 can be made now: the chip runs, no thread is halted, every resident task stands
ready for its save, every set is in use with no strong operation, sweep or departure under way (R318), and every cached queue
entry can be written back. -/
def State.mayS2 (s : State) : Bool :=
  s.up && (decide (s.plat.power = .a0) || decide (s.plat.power = .a1)) && s.threads.all (fun e => !e.2.halted) &&
    s.tasks.all (fun e => decide (fwSlot ≤ e.1 % 32) || s.saveReady (e.1 / 32) (e.1 % 32) e.2) &&
    (s.veins.all fun e => e.2.forming.isNone && e.2.joining.isNone && e.2.strongs.isEmpty && e.2.frozen.isEmpty &&
      e.2.sweep.isNone && e.2.sweepSlot.isNone) &&
    s.agents.cache.all fun e => match s.translate 0 (s.qtabBase + 256 * e.1) .w with
      | .ok .. => true
      | _ => false

/-- What a core holds of its own is not kept in S2 (R471): L1 copies and what its macros hold, but for their failed marks (R457). -/
def Core.asleep (c : Core) : Core :=
  { c with l1 := [], mac0 := { Macro.reset with fail := c.mac0.fail }, mac1 := { Macro.reset with fail := c.mac1.fail }, prevTask := none }

/-- The chip as S2 keeps it (R471; log entry 107): L2, HBM, the deputy log and TIME, and the registers by which it is woken and
goes on; the caches and TLBs outside L2 are empty, and no trace event is left. -/
def State.asleep (s : State) : State :=
  { s with
    cores := s.cores.map fun e => (e.1, Core.asleep e.2)
    tlb := []
    harts := s.harts.map fun (e : Nat × Hart) => (e.1, { e.2 with tlb := [], resv := none })
    trace := [] }

/-- Leave a set with the role handed over (R318, R324). -/
def State.leaveSet (s : State) (slot : Nat) : State :=
  match Assoc.find? s.veins slot with
  | some v =>
    let s1 := s.rotate slot
    ({ s1 with veins := Assoc.del s1.veins slot }).send (.leave v.vsid v.rank)
  | none => s

/-- S2_ENTRY (R472): every resident task is force-saved, each set left, the queue entries written back, and the links
held; refused where any step cannot be made. -/
def execS2Entry (s : State) : Res :=
  if !s.mayS2 then .next s
  else
    let s1 := (s.tasks.filter fun e => decide (e.1 % 32 < fwSlot)).foldl
      (fun st e => (st.beginSave (e.1 / 32) (e.1 % 32)).trySave (e.1 / 32) (e.1 % 32)) s
    let s2 := (Assoc.keys s1.veins).foldl (fun st n => st.leaveSet n) s1
    let s3 := s2.qFlush.asleep.send (.lowPower true)
    .next (({ s3 with clk := { s3.clk with locked := false, streak := 0 } }).powerTo .s2)

/-- S2_EXIT: on a wake write or a host request. -/
def execS2Exit (s : State) : Res := .next s.leaveS2

/- ## Firmware slots and boot (R463, R464) -/

/-- A firmware slot's bytes stand in flash, slot 0 for A and 1 for B, or in the staging memory. -/
def slotKey (slot : Nat) : Nat := if slot = 2 then stageKey 0 else flashKey slot 0

/-- The fields of a slot's header (R463). -/
def State.slotSvn (s : State) (slot : Nat) : Nat := s.peekN (slotKey slot + 4) 4
def State.slotLen (s : State) (slot : Nat) : Nat := s.peekN (slotKey slot + 8) 8
def State.slotDig (s : State) (slot : Nat) : List Byte := s.peek (slotKey slot + 0x10) 32

/-- The first step of R464 that a slot fails; 0 for none. -/
def State.slotFault (s : State) (slot : Nat) : Nat :=
  let k := slotKey slot
  let len := s.slotLen slot
  let pubk := s.peek (k + 0x30) 64
  if s.peekN k 4 ≠ 0x56425259 ∨ s.peekN (k + 0xB0) 80 ≠ 0 ∨ len % 256 ≠ 0 ∨ 2 ^ 26 < len then 1
  else if Sm3.digest pubk ≠ s.plat.khash then 2
  else if !Sm2.verify pubk (s.peek (k + 0x70) 64) (s.peek k 0x70) then 3
  else if s.slotSvn slot < s.plat.arb then 4
  else if Sm3.digest (s.peek (k + 256) len) ≠ s.slotDig slot then 5
  else 0

/-- The record of kind 8 for a slot tried. -/
def State.bootRec (s : State) (slot : Nat) : State := s.deputy 8 0xFF00 0 (slot + 4 * s.slotFault slot) (s.slotSvn slot)

/-- The number of a security and of a debug state in MEAS and in a report (log entry 22). -/
def secCode : Sec → Nat
  | .sealed => 0
  | .openDebug => 1
  | .recovery => 2
def dbgCode : Dbg → Nat
  | .off => 0
  | .trace => 1
  | .halt => 2

/-- MEAS: the digest of SVN, DIG, KHASH and the security state (R468; log entry 22). -/
def measure (svn : Nat) (dig khash : List Byte) (sec : Sec) : List Byte :=
  Sm3.digest (leBytes 4 svn ++ dig ++ khash ++ leBytes 1 (secCode sec))

/-- The slot that boots (R464): the higher SVN of those valid at all four chips, A in a tie. -/
def State.bootSlot (s : State) (peers : PeerSlots) : Option Nat :=
  let a := s.slotFault 0 == 0 && peers.aValid
  let b := s.slotFault 1 == 0 && peers.bValid
  if a && (!b || decide (s.slotSvn 1 ≤ s.slotSvn 0)) then some 0 else if b then some 1 else none

/-- Recovery holds the links down: no peer has a route (R466). -/
def State.linksDown (s : State) : State :=
  { s with fab := { s.fab with
      reconf := none
      peers := s.fab.peers.map fun (e : Nat × Peer) =>
        if e.2.st = .lost then e else (e.1, { e.2 with st := .unreachable, since := s.clk.time }) } }

/-- The boot ROM's work: the slots checked and recorded, one chosen and measured, or Recovery entered (R464, R466,
R468). sec is the state an authenticated boot enters. -/
def State.boot (s : State) (peers : PeerSlots) (sec : Sec) : State :=
  let s1 := (s.bootRec 0).bootRec 1
  match s.bootSlot peers with
  | some n =>
    { s1 with plat := { s1.plat with
      sec := sec, svn := s.slotSvn n, dig := s.slotDig n, meas := measure (s.slotSvn n) (s.slotDig n) s.plat.khash sec } }
  | none =>
    let s2 := { s1 with plat := { s1.plat with sec := .recovery, dbg := .off, dbgAsids := [], status := 0 } }
    (s2.linksDown.deputy 10 0xFF00 0 1 0).powerTo .a0

/-- A flat key that lies outside the chip's volatile memory: another chip's HBM, host memory, or flash. -/
def State.keptOff (s : State) (key : Nat) : Bool :=
  (decide (key < 2 ^ 64) && key / 2 ^ 51 != s.chip.toNat) || (decide (2 ^ 64 ≤ key) && decide (key < 2 ^ 65)) ||
    (decide (2 ^ 110 ≤ key) && decide (key < 2 ^ 111))

/-- The chip without power (R471): flash and fuses, and what is not the chip's, are kept; every register has its reset
value. -/
def State.powerless (s : State) : State :=
  { State.reset with
    chip := s.chip, inc := s.inc
    mem := s.mem.filter fun e => s.keptOff e.1
    host := { State.reset.host with roots := s.host.roots }
    plat := { Platform.reset with arb := s.plat.arb, khash := s.plat.khash, cert := s.plat.cert, dbgCert := s.plat.dbgCert, power := .s3 }
    out := s.out, nextId := s.nextId, free := s.free }

/-- S3_ENTRY: Vebry turns the chip off; the host's link is not the chip's. -/
def execS3Entry (s : State) : Res := if s.plat.power = .s3 then .next s else .next (s.powerTo .s3).powerless

/-- JUNCTION_TRIP: at 110 °C or more a record of kind 9, then S3. -/
def execJunctionTrip (tj : Nat) (s : State) : Res :=
  if tj < 1100 ∨ s.plat.power = .s3 then .next s
  else
    let s1 := { s with plat := { s.plat with tj := tj } }
    .next ((s1.thermal false .s3).powerTo .s3).powerless

/-- The chip's incarnation rises (R325). -/
def State.reborn (s : State) : State := { s with inc := s.inc + 1 }

/-- COLD_RESET: every register reads its reset value, the log is lost, and the boot ROM checks the slots; with an unlock
token for the chip in flash it boots into Open-debug, with its memories zero (R464, R469). The end of S3 and the leaving of
Recovery have their records (R460, R466). -/
def execColdReset (peers : PeerSlots) (unlock : Bool) (s : State) : Res :=
  let s1 := s.powerless.reborn
  let s2 := if s.plat.power = .s3 then s1.powerTo .a0 else { s1 with plat := { s1.plat with power := .a0 } }
  let s3 := if s.plat.sec = .recovery then s2.deputy 10 0xFF00 0 2 0 else s2
  .next (s3.boot peers (if unlock then .openDebug else .sealed))

/-- A core stopped at a warm reset: its failed marks and its bounds stay (R457). -/
def Core.stopped (c : Core) (now : Nat) : Core :=
  { Core.reset with
    mac0 := { Macro.reset with fail := c.mac0.fail }, mac1 := { Macro.reset with fail := c.mac1.fail }
    tfair := c.tfair, thold := c.thold, resetAt := now }

/-- Every core stops at once: the tasks, the accepted launches and their leases are abandoned without a report or a
signal, versions are discarded and engine operations dropped (R499). -/
def State.stopAll (s : State) : State :=
  let stop := fun (st : State) (i : Nat) => st.updCore i fun c => c.stopped st.clk.cycles
  (List.range coreCount).foldl stop
    { s with
      tasks := [], threads := [], runs := [], cur := none, invs := [], rws := [], veins := [], trace := [], agenda := []
      fab := { s.fab with waits := [], drainDue := [] }
      agents := { s.agents with
        launches := [], lwaits := [], leases := [], cwaits := [], saves := [], saved := [], tickets := [], pins := [], peerTicks := [], posts := [], wakesDue := [] } }

/-- A warm reset after the incarnation has risen: the cores stop, a chip in S2 returns to A0, or to A1 where it is forced there
(R474), and the boot ROM checks the slots (R325, R464, R499). -/
def State.warmBoot (s : State) (peers : PeerSlots) (sec : Sec) : State :=
  let s1 := s.stopAll
  let s2 := { s1 with clk := { s1.clk with locked := false, streak := 0, slew := 0, gain := 0, stepped := false },
                      plat := { s1.plat with gated := [], gatedAt := [] } }
  (if s2.plat.power = .s2 then (s2.powerTo .a0).reclock else s2).boot peers sec

/-- WARM_RESET: the incarnation rises, and Open-debug stays; a chip in Recovery leaves it only by REBOOT or a cold reset (R466), one in S3 only by a cold reset. -/
def execWarmReset (peers : PeerSlots) (s : State) : Res :=
  if s.up then .next (s.reborn.warmBoot peers (if s.plat.sec = .openDebug then .openDebug else .sealed)) else .next s

/- ## The recovery mailbox (R466, R467) -/

/-- A command, written to CMD, sets ARG and ends with a STATUS; it is served in Recovery only. -/
def State.mailbox (s : State) (cmd : Nat) (f : State → State) : Res :=
  if s.plat.sec = .recovery ∧ s.plat.power ≠ .s3 then .next (f { s with plat := { s.plat with cmd := cmd } }) else .next s

/-- STATUS of a command that has ended. -/
def State.mbox (s : State) (st : Nat) : State := { s with plat := { s.plat with status := st } }
def State.mboxArg (s : State) (a : Nat) : State := { s with plat := { s.plat with arg := a } }

/-- MAILBOX_BEGIN. -/
def execMailboxBegin (total : Nat) (s : State) : Res :=
  s.mailbox 1 fun st =>
    let st1 := st.mboxArg total
    if 2 ^ 26 + 256 < total then st1.mbox 2
    else ({ st1 with mem := st1.mem.filter fun e => decide (e.1 < 2 ^ 111),
                     plat := { st1.plat with total := total } }).mbox 1

/-- MAILBOX_CHUNK: data is what the host has written to the data area. -/
def execMailboxChunk (off : Nat) (data : List Byte) (s : State) : Res :=
  s.mailbox 2 fun st =>
    let bs := (data ++ List.replicate 3840 0).take 3840
    let st0 := st.mboxArg off
    let st1 := { st0 with plat := { st0.plat with data := bs.zipIdx.foldl (fun (m : Map Byte) (e : Byte × Nat) => Assoc.setD m 0 e.2 e.1) [] } }
    if off % 3840 ≠ 0 ∨ st.plat.total ≤ off then st1.mbox 3
    else (st1.poke (stageKey off) bs).mbox 1

/-- MAILBOX_SEAL: the staged slot is checked at every chip, peersFail being the first step failed at the others. -/
def execMailboxSeal (peersFail : Nat) (s : State) : Res :=
  s.mailbox 3 fun st =>
    let own := st.slotFault 2
    let step := if own = 0 then peersFail else if peersFail = 0 then own else min own peersFail
    if step ≠ 0 then st.mbox (4 + 256 * (step % 256))
    else (st.poke (flashKey (if st.slotFault 0 = 0 then 1 else 0) 0) (st.peek (stageKey 0) st.plat.total)).mbox 1

/-- MAILBOX_REBOOT: Recovery is left by a warm reset of the package; the incarnation rises, and the record of the exit
stands before those of the boot (R325, R466). -/
def execMailboxReboot (peers : PeerSlots) (s : State) : Res :=
  s.mailbox 4 fun st =>
    let st1 := ({ st with plat := { st.plat with sec := .sealed, status := 0 } }).reborn.deputy 10 0xFF00 0 2 0
    st1.warmBoot peers .sealed

/-- MAILBOX_INVALID_CMD: STATUS 5, no other effect. -/
def execMailboxInvalidCmd (cmd : Nat) (s : State) : Res :=
  if 1 ≤ cmd ∧ cmd ≤ 4 then .next s else s.mailbox cmd fun st => st.mbox 5

/-- ANTI_ROLLBACK_FUSE_BLOW: n fuses are blown; refused above the running SVN and outside Sealed (R465). -/
def execAntiRollbackFuseBlow (n : Nat) (s : State) : Res :=
  if s.plat.sec = .sealed ∧ s.up ∧ n ≤ s.plat.svn then .next { s with plat := { s.plat with arb := max s.plat.arb n } } else .next s

/-- The population count of MFAIL, the map of the macros marked failed (R457). -/
def State.mfail (s : State) : Nat :=
  (s.cores.map fun (e : Nat × Core) => (if e.2.mac0.fail then 1 else 0) + (if e.2.mac1.fail then 1 else 0)).sum

/-- ATTESTATION_REQUEST (R468; the report's layout is log entry 22). -/
def execAttestationRequest (nonce : List Byte) (s : State) : Res :=
  if !s.up then .next s
  else
    let report := (nonce ++ List.replicate 32 0).take 32 ++ leBytes 2 s.chip.toNat ++ leBytes 2 s.inc.toNat ++ s.plat.meas ++
      leBytes 4 s.plat.svn ++ leBytes 4 s.plat.arb ++ leBytes 1 (secCode s.plat.sec) ++ leBytes 1 (dbgCode s.plat.dbg) ++
      leBytes 2 s.mfail
    .next (s.send (.attest report (Config.attestSignature report (secCode s.plat.sec))))

/-- DEBUG_STATE_CHANGE: Vebry sets the chip's debug state, for named contexts in Sealed, and a run under way keeps the one it began with (R469,
R473). st: 0 off, 1 trace, 2 halt. -/
def execDebugStateChange (st : Nat) (asids : List Nat) (s : State) : Res :=
  if !s.up then .next s
  else
    let d := if st = 1 then Dbg.trace else if st = 2 then Dbg.halt else .off
    .next { s with
      plat := { s.plat with dbg := d, dbgAsids := asids }
      runs := s.runs.map fun e => (e.1, { e.2 with dbg := some (e.2.dbg.getD (s.plat.dbg, s.plat.dbgAsids)) }) }

end Machine
end Sys2Proof
end

