-- ==== Sys2Proof/Machine/Dispatch.lean ====
section
/-! DEFINITION. One arm for each instruction and event of the opcode table: its meaning, or rejected by name. -/

namespace Sys2Proof
namespace Machine

/-- One instruction or event (every row of the opcode table). -/
def exec (i : Instr) (s : State) : Host.Outcome State Fault Refusal :=
  match i with
  | .nop h => Sys2Proof.Machine.execNop h s
  | .bra h off => Sys2Proof.Machine.execBra h off s
  | .brx h a => Sys2Proof.Machine.execBrx h a s
  | .brxRel h a => Sys2Proof.Machine.execBrxRel h a s
  | .call h off => Sys2Proof.Machine.execCall h off s
  | .callIndirect h a => Sys2Proof.Machine.execCallIndirect h a s
  | .ret h => Sys2Proof.Machine.execRet h s
  | .exitThreads h => Sys2Proof.Machine.execExitThreads h s
  | .yieldCore h => Sys2Proof.Machine.execYieldCore h s
  | .waittAbs h d a => Sys2Proof.Machine.execWaittAbs h d a s
  | .waittRel h d a => Sys2Proof.Machine.execWaittRel h d a s
  | .trap h a code => Sys2Proof.Machine.execTrap h a code s
  | .bkpt h n => Sys2Proof.Machine.execBkpt h n s
  | .kset h k c => Sys2Proof.Machine.execKset h k c s
  | .ksign h d k => Sys2Proof.Machine.execKsign h d k s
  | .phadv h d slot => Sys2Proof.Machine.execPhadv h d slot s
  | .phwait h d a slot nbr => Sys2Proof.Machine.execPhwait h d a slot nbr s
  | .bar h d scope eng => Sys2Proof.Machine.execBar h d scope eng s
  | .barNock h d scope eng => Sys2Proof.Machine.execBarNock h d scope eng s
  | .commit h d eng => Sys2Proof.Machine.execCommit h d eng s
  | .iadd h ty sat d a b => Sys2Proof.Machine.execIadd h ty sat d a b s
  | .isub h ty sat d a b => Sys2Proof.Machine.execIsub h ty sat d a b s
  | .imul h ty sat d a b => Sys2Proof.Machine.execImul h ty sat d a b s
  | .imulh h ty d a b => Sys2Proof.Machine.execImulh h ty d a b s
  | .imad h ty sat d a b c => Sys2Proof.Machine.execImad h ty sat d a b c s
  | .idiv h ty sat d a b => Sys2Proof.Machine.execIdiv h ty sat d a b s
  | .irem h ty d a b => Sys2Proof.Machine.execIrem h ty d a b s
  | .imin h ty d a b => Sys2Proof.Machine.execImin h ty d a b s
  | .imax h ty d a b => Sys2Proof.Machine.execImax h ty d a b s
  | .iabs h ty sat d a => Sys2Proof.Machine.execIabs h ty sat d a s
  | .iset h cc ty p a b q => Sys2Proof.Machine.execIset h cc ty p a b q s
  | .iseti h cc ty p a imm => Sys2Proof.Machine.execIseti h cc ty p a imm s
  | .sel h ty d a b q => Sys2Proof.Machine.execSel h ty d a b q s
  | .and h d a b => Sys2Proof.Machine.execAnd h d a b s
  | .or h d a b => Sys2Proof.Machine.execOr h d a b s
  | .xor h d a b => Sys2Proof.Machine.execXor h d a b s
  | .logi h op hi d a imm => Sys2Proof.Machine.execLogi h op hi d a imm s
  | .shl h ty d a b => Sys2Proof.Machine.execShl h ty d a b s
  | .shr h ty d a b => Sys2Proof.Machine.execShr h ty d a b s
  | .rot h ty right d a b => Sys2Proof.Machine.execRot h ty right d a b s
  | .clz h wide d a => Sys2Proof.Machine.execClz h wide d a s
  | .popc h wide d a => Sys2Proof.Machine.execPopc h wide d a s
  | .brev h wide d a => Sys2Proof.Machine.execBrev h wide d a s
  | .bfx h signed d a c => Sys2Proof.Machine.execBfx h signed d a c s
  | .bfi h d a b c => Sys2Proof.Machine.execBfi h d a b c s
  | .lea h sx sh d a b => Sys2Proof.Machine.execLea h sx sh d a b s
  | .movi h wide d imm => Sys2Proof.Machine.execMovi h wide d imm s
  | .movl h single d lit => Sys2Proof.Machine.execMovl h single d lit s
  | .mov h ty d a => Sys2Proof.Machine.execMov h ty d a s
  | .iaddi h ty sat d a imm => Sys2Proof.Machine.execIaddi h ty sat d a imm s
  | .plop h tt p a b => Sys2Proof.Machine.execPlop h tt p a b s
  | .pmovPack h d => Sys2Proof.Machine.execPmovPack h d s
  | .pmovUnpack h a => Sys2Proof.Machine.execPmovUnpack h a s
  | .pmovNz h p a => Sys2Proof.Machine.execPmovNz h p a s
  | .pmovVal h d p => Sys2Proof.Machine.execPmovVal h d p s
  | .fadd h rm sat d a b => Sys2Proof.Machine.execFadd h rm sat d a b s
  | .fsub h rm sat d a b => Sys2Proof.Machine.execFsub h rm sat d a b s
  | .fmul h rm sat d a b => Sys2Proof.Machine.execFmul h rm sat d a b s
  | .ffma h rm sat d a b c => Sys2Proof.Machine.execFfma h rm sat d a b c s
  | .fmin h d a b => Sys2Proof.Machine.execFmin h d a b s
  | .fmax h d a b => Sys2Proof.Machine.execFmax h d a b s
  | .fset h cc p a b q => Sys2Proof.Machine.execFset h cc p a b q s
  | .frcp h rm sat d a => Sys2Proof.Machine.execFrcp h rm sat d a s
  | .frsq h sat d a => Sys2Proof.Machine.execFrsq h sat d a s
  | .fsqrt h rm sat d a => Sys2Proof.Machine.execFsqrt h rm sat d a s
  | .fex2 h sat d a => Sys2Proof.Machine.execFex2 h sat d a s
  | .flg2 h sat d a => Sys2Proof.Machine.execFlg2 h sat d a s
  | .ftrig h cos sat d a => Sys2Proof.Machine.execFtrig h cos sat d a s
  | .fcls h ty d a => Sys2Proof.Machine.execFcls h ty d a s
  | .hadd2 h ty rm sat d a b => Sys2Proof.Machine.execHadd2 h ty rm sat d a b s
  | .hmul2 h ty rm sat d a b => Sys2Proof.Machine.execHmul2 h ty rm sat d a b s
  | .hfma2 h ty rm sat d a b c => Sys2Proof.Machine.execHfma2 h ty rm sat d a b c s
  | .cvt h dt st rm sat d a => Sys2Proof.Machine.execCvt h dt st rm sat d a s
  | .fscal h rm sat d a b => Sys2Proof.Machine.execFscal h rm sat d a b s
  | .dot4 h ty rm sat d a b c => Sys2Proof.Machine.execDot4 h ty rm sat d a b c s
  | .shfl h w64 mode d a b => Sys2Proof.Machine.execShfl h w64 mode d a b s
  | .vote h f => Sys2Proof.Machine.execVote h f s
  | .crdx h op d a => Sys2Proof.Machine.execCrdx h op d a s
  | .ld h sz ord scope hint d a off => Sys2Proof.Machine.execLd h sz ord scope hint d a off s
  | .st h sz ord scope hint d a off => Sys2Proof.Machine.execSt h sz ord scope hint d a off s
  | .atom h op w64 ord scope d a b => Sys2Proof.Machine.execAtom h op w64 ord scope d a b s
  | .red h op w64 ord scope a b => Sys2Proof.Machine.execRed h op w64 ord scope a b s
  | .fenceFull h d scope eng => Sys2Proof.Machine.execFenceFull h d scope eng s
  | .fenceAcq h d scope eng => Sys2Proof.Machine.execFenceAcq h d scope eng s
  | .fenceRel h d scope eng => Sys2Proof.Machine.execFenceRel h d scope eng s
  | .pref h sz hint a off => Sys2Proof.Machine.execPref h sz hint a off s
  | .cctlInv h a off => Sys2Proof.Machine.execCctlInv h a off s
  | .cctlInvall h => Sys2Proof.Machine.execCctlInvall h s
  | .cctlWb h a off => Sys2Proof.Machine.execCctlWb h a off s
  | .cctlWbinv h a off => Sys2Proof.Machine.execCctlWbinv h a off s
  | .copy h d a b q => Sys2Proof.Machine.execCopy h d a b q s
  | .copyt h d a b q => Sys2Proof.Machine.execCopyt h d a b q s
  | .gath h d a b q => Sys2Proof.Machine.execGath h d a b q s
  | .skcfg h d a b q => Sys2Proof.Machine.execSkcfg h d a b q s
  | .skopRes h d b q => Sys2Proof.Machine.execSkopRes h d b q s
  | .skopPub h d b q => Sys2Proof.Machine.execSkopPub h d b q s
  | .skopTake h d b q => Sys2Proof.Machine.execSkopTake h d b q s
  | .skopPop h d b q => Sys2Proof.Machine.execSkopPop h d b q s
  | .skopState h d q => Sys2Proof.Machine.execSkopState h d q s
  | .binit h a n => Sys2Proof.Machine.execBinit h a n s
  | .barv h d a n => Sys2Proof.Machine.execBarv h d a n s
  | .bwait h d a p => Sys2Proof.Machine.execBwait h d a p s
  | .bexp h d a n => Sys2Proof.Machine.execBexp h d a n s
  | .mload h fmt mb d a k q => Sys2Proof.Machine.execMload h fmt mb d a k q s
  | .mma h tr im fmt mb d tile b k q => Sys2Proof.Machine.execMma h tr im fmt mb d tile b k q s
  | .mzero h tile c => Sys2Proof.Machine.execMzero h tile c s
  | .mdrain h fmt rm sat za d tile k q => Sys2Proof.Machine.execMdrain h fmt rm sat za d tile k q s
  | .mstatState h d mb => Sys2Proof.Machine.execMstatState h d mb s
  | .mstatPasses h d mb => Sys2Proof.Machine.execMstatPasses h d mb s
  | .mstatCanary h d mb => Sys2Proof.Machine.execMstatCanary h d mb s
  | .mstatChecks h d mb => Sys2Proof.Machine.execMstatChecks h d mb s
  | .grow h d b k => Sys2Proof.Machine.execGrow h d b k s
  | .shrink h d b k => Sys2Proof.Machine.execShrink h d b k s
  | .alook h node d a b q => Sys2Proof.Machine.execAlook h node d a b q s
  | .aname h node d a b => Sys2Proof.Machine.execAname h node d a b s
  | .aref h d a delta => Sys2Proof.Machine.execAref h d a delta s
  | .aldSec h d a n1 => Sys2Proof.Machine.execAldSec h d a n1 s
  | .aldAddr h d a => Sys2Proof.Machine.execAldAddr h d a s
  | .aswapSwap h d a r => Sys2Proof.Machine.execAswapSwap h d a r s
  | .aswapCas h d a r => Sys2Proof.Machine.execAswapCas h d a r s
  | .aout h d a b q => Sys2Proof.Machine.execAout h d a b q s
  | .astatCount h d a => Sys2Proof.Machine.execAstatCount h d a s
  | .astatFree h d => Sys2Proof.Machine.execAstatFree h d s
  | .astatUsed h d => Sys2Proof.Machine.execAstatUsed h d s
  | .astatCollide h d => Sys2Proof.Machine.execAstatCollide h d s
  | .astatRoot h d a => Sys2Proof.Machine.execAstatRoot h d a s
  | .astatPend h d => Sys2Proof.Machine.execAstatPend h d s
  | .launch h wait d a => Sys2Proof.Machine.execLaunch h wait d a s
  | .sysrd h w d reg => Sys2Proof.Machine.execSysrd h w d reg s
  | .syswr h w a reg => Sys2Proof.Machine.execSyswr h w a reg s
  | .tret h => Sys2Proof.Machine.execTret h s
  | .tstateRd h d item => Sys2Proof.Machine.execTstateRd h d item s
  | .tstateWr h a item => Sys2Proof.Machine.execTstateWr h a item s
  | .vmembForm h d a slot => Sys2Proof.Machine.execVmembForm h d a slot s
  | .vmembJoin h d a slot => Sys2Proof.Machine.execVmembJoin h d a slot s
  | .vmembLeave h d a slot => Sys2Proof.Machine.execVmembLeave h d a slot s
  | .vmembEvict h d a slot => Sys2Proof.Machine.execVmembEvict h d a slot s
  | .vmembQuery h d slot => Sys2Proof.Machine.execVmembQuery h d slot s
  | .vmembRot h d a slot => Sys2Proof.Machine.execVmembRot h d a slot s
  | .claimMake h d a => Sys2Proof.Machine.execClaimMake h d a s
  | .claimEnd h d a => Sys2Proof.Machine.execClaimEnd h d a s
  | .placeTask h d a => Sys2Proof.Machine.execPlaceTask h d a s
  | .placeRestore h d a => Sys2Proof.Machine.execPlaceRestore h d a s
  | .freezeHold h d a => Sys2Proof.Machine.execFreezeHold h d a s
  | .freezeKill h d a => Sys2Proof.Machine.execFreezeKill h d a s
  | .freezeSave h d a => Sys2Proof.Machine.execFreezeSave h d a s
  | .freezeRelease h d a => Sys2Proof.Machine.execFreezeRelease h d a s
  | .idle h d a mask => Sys2Proof.Machine.execIdle h d a mask s
  | .dlog h d a => Sys2Proof.Machine.execDlog h d a s
  | .waittDeadline r => Sys2Proof.Machine.execWaittDeadline r s
  | .phaseMarkReceive slot src mark => Sys2Proof.Machine.execPhaseMarkReceive slot src mark s
  | .registerResultWrite r op => Sys2Proof.Machine.execRegisterResultWrite r op s
  | .loadResponse r op fromL1 => Sys2Proof.Machine.execLoadResponse r op fromL1 s
  | .invalidationAck id => Sys2Proof.Machine.execInvalidationAck id s
  | .copyCompletion core slot => Sys2Proof.Machine.execCopyCompletion core slot s
  | .skipBufferGrant core slot q => Sys2Proof.Machine.execSkipBufferGrant core slot q s
  | .mloadFire core mb => Sys2Proof.Machine.execMloadFire core mb s
  | .mmaPass core mb bad => Sys2Proof.Machine.execMmaPass core mb bad s
  | .mdrainFire core slot op => Sys2Proof.Machine.execMdrainFire core slot op s
  | .growGrant core => Sys2Proof.Machine.execGrowGrant core s
  | .shrinkApply core => Sys2Proof.Machine.execShrinkApply core s
  | .assayReclaimStep n line => Sys2Proof.Machine.execAssayReclaimStep n line s
  | .tlbinv v => Sys2Proof.Machine.execTlbinv v s
  | .qtabWrite v => Sys2Proof.Machine.execQtabWrite v s
  | .assayRegionEnable n v => Sys2Proof.Machine.execAssayRegionEnable n v s
  | .assayRegionDisable n v => Sys2Proof.Machine.execAssayRegionDisable n v s
  | .phaseSlotDisable n v => Sys2Proof.Machine.execPhaseSlotDisable n v s
  | .idleWake core => Sys2Proof.Machine.execIdleWake core s
  | .issueGroup core => Sys2Proof.Machine.execIssueGroup core s
  | .holdTimeout r => Sys2Proof.Machine.execHoldTimeout r s
  | .fairnessOverdue r => Sys2Proof.Machine.execFairnessOverdue r s
  | .deferredTrapDelivery r => Sys2Proof.Machine.execDeferredTrapDelivery r s
  | .fholdExpiry core slot => Sys2Proof.Machine.execFholdExpiry core slot s
  | .hartFreezeTimeout n => Sys2Proof.Machine.execHartFreezeTimeout n s
  | .forceSave core slot => Sys2Proof.Machine.execForceSave core slot s
  | .debugHalt r => Sys2Proof.Machine.execDebugHalt r s
  | .prewtExpiry lnum => Sys2Proof.Machine.execPrewtExpiry lnum s
  | .drainDeadlineExpiry core asid => Sys2Proof.Machine.execDrainDeadlineExpiry core asid s
  | .saveDeadlineExpiry core slot => Sys2Proof.Machine.execSaveDeadlineExpiry core slot s
  | .timeSliceExpiry core slot => Sys2Proof.Machine.execTimeSliceExpiry core slot s
  | .park core slot => Sys2Proof.Machine.execPark core slot s
  | .packetClaim core => Sys2Proof.Machine.execPacketClaim core s
  | .dependencePoll lnum => Sys2Proof.Machine.execDependencePoll lnum s
  | .taskPlacementChoice core => Sys2Proof.Machine.execTaskPlacementChoice core s
  | .completionSignalWrite lnum => Sys2Proof.Machine.execCompletionSignalWrite lnum s
  | .wakeWrite m whole cap => Sys2Proof.Machine.execWakeWrite m whole cap s
  | .plainWake m cap => Sys2Proof.Machine.execPlainWake m cap s
  | .faultTicketReturn r op => Sys2Proof.Machine.execFaultTicketReturn r op s
  | .priResponse id ok => Sys2Proof.Machine.execPriResponse id ok s
  | .replayNotice id gen fail => Sys2Proof.Machine.execReplayNotice id gen fail s
  | .clmwtExpiry id => Sys2Proof.Machine.execClmwtExpiry id s
  | .rpwinExpiry page => Sys2Proof.Machine.execRpwinExpiry page s
  | .backfillRefill frame => Sys2Proof.Machine.execBackfillRefill frame s
  | .remoteRequestReceive src asid va op => Sys2Proof.Machine.execRemoteRequestReceive src asid va op s
  | .atomicCacheLeaseEnd line => Sys2Proof.Machine.execAtomicCacheLeaseEnd line s
  | .directoryRecallAll asid line conflict => Sys2Proof.Machine.execDirectoryRecallAll asid line conflict s
  | .veinUpdateReceive u => Sys2Proof.Machine.execVeinUpdateReceive u s
  | .sumpApply slot => Sys2Proof.Machine.execSumpApply slot s
  | .slotRequest slot rank => Sys2Proof.Machine.execSlotRequest slot rank s
  | .slotGrant slot n1 => Sys2Proof.Machine.execSlotGrant slot n1 s
  | .slotAck slot n1 rank => Sys2Proof.Machine.execSlotAck slot n1 rank s
  | .handoverMarker slot n1 succ => Sys2Proof.Machine.execHandoverMarker slot n1 succ s
  | .banksmanRotationTimer slot => Sys2Proof.Machine.execBanksmanRotationTimer slot s
  | .memberDeparture slot ranks reports => Sys2Proof.Machine.execMemberDeparture slot ranks reports s
  | .lagEvictionTimeout slot rank => Sys2Proof.Machine.execLagEvictionTimeout slot rank s
  | .joinStreamComplete slot j => Sys2Proof.Machine.execJoinStreamComplete slot j s
  | .formTimeout slot => Sys2Proof.Machine.execFormTimeout slot s
  | .sweepMarkerReceive slot n1 => Sys2Proof.Machine.execSweepMarkerReceive slot n1 s
  | .readyNoticeReceive slot rank seq => Sys2Proof.Machine.execReadyNoticeReceive slot rank seq s
  | .linkDown peer => Sys2Proof.Machine.execLinkDown peer s
  | .peerLossTimeout peer => Sys2Proof.Machine.execPeerLossTimeout peer s
  | .linkBringup peer inc => Sys2Proof.Machine.execLinkBringup peer inc s
  | .fabricPacketReceive hd => Sys2Proof.Machine.execFabricPacketReceive hd s
  | .allowanceReturn link bufset flits => Sys2Proof.Machine.execAllowanceReturn link bufset flits s
  | .ptpSyncMessage offset bound => Sys2Proof.Machine.execPtpSyncMessage offset bound s
  | .reconfigDrain links peers => Sys2Proof.Machine.execReconfigDrain links peers s
  | .drainMarkerAck link => Sys2Proof.Machine.execDrainMarkerAck link s
  | .reconfigRelock reachable newInc => Sys2Proof.Machine.execReconfigRelock reachable newInc s
  | .hostSnoop pa keepShared => Sys2Proof.Machine.execHostSnoop pa keepShared s
  | .hostCxlMemAccess addr write n => Sys2Proof.Machine.execHostCxlMemAccess addr write n s
  | .biasFlipToDev addr => Sys2Proof.Machine.execBiasFlipToDev addr s
  | .biasFlipToHost addr => Sys2Proof.Machine.execBiasFlipToHost addr s
  | .biasFlipComplete addr => Sys2Proof.Machine.execBiasFlipComplete addr s
  | .hartAccess n pa pbmt op => Sys2Proof.Machine.execHartAccess n pa pbmt op s
  | .dasidWrite n mode v => Sys2Proof.Machine.execDasidWrite n mode v s
  | .hartSfence n => Sys2Proof.Machine.execHartSfence n s
  | .registerWrite core reg v => Sys2Proof.Machine.execRegisterWrite core reg v s
  | .remoteWriteAck id => Sys2Proof.Machine.execRemoteWriteAck id s
  | .accessPerformed r op => Sys2Proof.Machine.execAccessPerformed r op s
  | .debugResume r => Sys2Proof.Machine.execDebugResume r s
  | .clusterRebuild cluster => Sys2Proof.Machine.execClusterRebuild cluster s
  | .powerCap milliwatts order => Sys2Proof.Machine.execPowerCap milliwatts order s
  | .junctionThrottle tj => Sys2Proof.Machine.execJunctionThrottle tj s
  | .throttleRelease tj inputLow => Sys2Proof.Machine.execThrottleRelease tj inputLow s
  | .junctionTrip tj => Sys2Proof.Machine.execJunctionTrip tj s
  | .powerStateA1 on => Sys2Proof.Machine.execPowerStateA1 on s
  | .s1Entry cluster => Sys2Proof.Machine.execS1Entry cluster s
  | .s1Exit cluster => Sys2Proof.Machine.execS1Exit cluster s
  | .coldReset peers unlock => Sys2Proof.Machine.execColdReset peers unlock s
  | .warmReset peers => Sys2Proof.Machine.execWarmReset peers s
  | .mailboxBegin total => Sys2Proof.Machine.execMailboxBegin total s
  | .mailboxChunk off data => Sys2Proof.Machine.execMailboxChunk off data s
  | .mailboxSeal peersFail => Sys2Proof.Machine.execMailboxSeal peersFail s
  | .mailboxReboot peers => Sys2Proof.Machine.execMailboxReboot peers s
  | .mailboxInvalidCmd cmd => Sys2Proof.Machine.execMailboxInvalidCmd cmd s
  | .antiRollbackFuseBlow n => Sys2Proof.Machine.execAntiRollbackFuseBlow n s
  | .attestationRequest nonce => Sys2Proof.Machine.execAttestationRequest nonce s
  | .debugStateChange st asids => Sys2Proof.Machine.execDebugStateChange st asids s
  | .syncInterval => Sys2Proof.Machine.execSyncInterval s
  | .rcdarkExpiry => Sys2Proof.Machine.execRcdarkExpiry s
  | .traceRecordWrite => Sys2Proof.Machine.execTraceRecordWrite s
  | .s2Entry => Sys2Proof.Machine.execS2Entry s
  | .s2Exit => Sys2Proof.Machine.execS2Exit s
  | .s3Entry => Sys2Proof.Machine.execS3Entry s

end Machine
end Sys2Proof
end

