-- ==== Sys2Proof/Machine/Settle.lean ====
section
/-! DEFINITION. What a step adds around one instruction or event: what ends by itself (headers entered, waits over, saves
and retirements), and the passing of TIME and of cycles (R8, R50, R451; log entry 2). -/

namespace Sys2Proof
namespace Machine

/-- A thread that stands before a header it could not enter yet: its page was absent, or its granule was changing. -/
def State.headerStep (s : State) (key : Nat) (t : Thread) : State :=
  let r := refOf key
  match s.task? r.core r.slot with
  | some k =>
    if t.atHeader && !t.ended && !t.halted && t.fetchTicket.isNone && t.trap.isNone && t.deferred.isEmpty &&
        decide (t.wait = .none) && k.frozen.isNone && k.ending.isNone && k.saving.isNone && !s.inRun r.core r.slot r.thr then
      s.enterAt r k true
    else s
  | none => s

/-- Every such thread tries again. -/
def State.headerSettle (s : State) : State := s.threads.foldl (fun st e => st.headerStep e.1 e.2) s

/-- A demotion ends when each thread waited for has issued or is no longer ready (R52). -/
def State.demoteSettle (s : State) : State :=
  let ready := fun (w : Nat × Nat) =>
    let r := refOf w.1
    match s.task? r.core r.slot, s.thread? r with
    | some k, some t => decide (t.issued = w.2) && s.ready k t
    | _, _ => false
  { s with threads := s.threads.map fun (e : Nat × Thread) =>
      if e.2.demoted.isEmpty then e else (e.1, { e.2 with demoted := e.2.demoted.filter ready }) }

/-- Halts asked for take place between runs, before any cause is delivered (R130, R412). -/
def State.haltSettle (s : State) : State :=
  s.threads.foldl (fun st e => let r := refOf e.1; if e.2.haltReq then st.haltMembers r.core r.slot [r.thr] else st) s

/-- Held threads that no thread is expected to join any more go on, all of one moment together (R47). -/
def State.holdSettle (s : State) : State := s.tasks.foldl (fun st e => st.releaseHolds (e.1 / 32) (e.1 % 32)) s

/-- An ended task with nothing left gives its resources back (R19); a task all of whose threads have ended ends. -/
def State.retireSettle (s : State) : State := s.tasks.foldl (fun st e => st.retire (e.1 / 32) (e.1 % 32)) s

/-- The sets' own slots that are due, what waits for them, and the cut of a sweep (R315, R318, R323). -/
def State.veinSettle (s : State) : State := s.veins.foldl (fun st e => (st.slotSettle e.1).sweepCut e.1) s

/-- Everything that ends by itself after one instruction or event. -/
def State.settle (s : State) : State :=
  (s.headerSettle.haltSettle.syncSettle.matrixSettle.phaseSettle.veinSettle.drainSettle.wakeSettle.postSettle.ticketSettle.saveSettle.retireSettle.owedSettle).holdSettle.demoteSettle.reclock

/-- A held thread whose T_hold has passed: it is released before anything else happens (R47). -/
def State.holdDue (s : State) : Option TRef :=
  (s.threads.find? fun e => e.2.held.any fun c => decide (c + (s.core (refOf e.1).core).thold ≤ s.clk.cycles)).map fun e => refOf e.1

/-- TIME and the cores' cycles pass with a step, by an amount the spec leaves open (log entry 2); a hold that has lasted
long enough by then ends first of all (R47). Errors that the codes correct are counted, and a record of the deputy log may read
back uncorrectable (R456, R460; log entry 100). -/
def State.tick (s : State) : State :=
  let s0 := s.pass (Config.elapsedNs s.free)
  let s1 := { s0 with
    free := s.free + 1
    plat := { s0.plat with
      cec := min (s0.plat.cec + Config.corrected s.free) (2 ^ 32 - 1)
      logBad := match (Config.logError s.free).bind fun i => Assoc.find? s.dlog i with
        | some e => Assoc.put s0.plat.logBad e.seqn ()
        | none => s0.plat.logBad } }
  match s1.holdDue with
  | some r => { s1 with agenda := .holdTimeout r :: s1.agenda }
  | none => s1

/-- What a step makes of the outcome of an instruction or event. -/
def after : Res → Res
  | .next s => .next s.settle.tick
  | .fault f => .fault f
  | .refused r => .refused r

end Machine
end Sys2Proof
end

