-- ==== Sys2Proof/Machine/Auto.lean ====
section
/-! DEFINITION. What happens next (log entry 23): the next word of the current run, and the events that occur inside the
chip, in the order in which step takes them. The spec gives that order no rule; every event here is one of the opcode
table's. -/

namespace Sys2Proof
namespace Machine

/- ## The next word of a run -/

/-- What a run's next fetch gives. -/
inductive Fetch where
  | instr (i : Instr)
  | illegal (w : Nat)
  | absent (thr : Nat)
  | fault (c : Cause)
  | busy
  deriving DecidableEq, Repr

/-- A decoded word, or an illegal one. -/
def Fetch.ofDec (w : Nat) : Dec → Fetch
  | .ok i => .instr i
  | _ => .illegal w

/-- Fetch the word at a run's program counter for its first member, with the literal of a MOVL unless the block ends
before it (R114). -/
def State.fetchRun (s : State) (k : Task) (q : Run) (e : Nat × Thread) : Fetch :=
  match s.fetchWord k q.pc.toNat with
  | .absent .. => .absent e.1
  | .busy => .busy
  | .bad => .fault .notheader
  | .prot => .fault .prot
  | .synonym => .fault .synonym
  | .ok w =>
    if fld w 57 7 != 41 || (match e.2.blk with | some b => q.pc + 8 == b.endPc | none => true) then Fetch.ofDec w (decodeWord w none)
    else
      match s.fetchWord k (q.pc.toNat + 8) with
      | .ok l => Fetch.ofDec w (decodeWord w (some l))
      | .absent .. => .absent e.1
      | .busy => .busy
      | .bad => .fault .notheader
      | .prot => .fault .prot
      | .synonym => .fault .synonym

/-- A fetch that violates protection, conflicts in tracking or leaves the address space: a precise trap of every member (R126, R134). -/
def State.fetchFault (s : State) (id : Nat) (q : Run) (c : Cause) : State :=
  ((s.live q).foldl (fun st e => st.updThread ⟨q.core, q.slot, e.1⟩ fun t => t.raise c 0 e.2.pc 0 0) s).endRun id q

/-- The atomic cache gives up the lines that a word and its block's header are fetched from (R327). -/
def State.fetchTake (s : State) (k : Task) (t : Thread) (pc : Nat) : State :=
  let s1 := match t.blk with
    | some b => s.devTake k.asid b.hdr.toNat .x
    | none => s
  s1.devTake k.asid pc .x

/-- The next word of the current run is issued, or the run ends; none while it stalls, its state then unchanged. -/
def State.runRes (s : State) : Option Res :=
  match s.curRun with
  | none => none
  | some (id, q) =>
    if !s.coresRun then none
    else
      let moved := fun (r : Res) => match r with
        | .next t => if t.runs = s.runs then none else some r
        | _ => some r
      match s.task? q.core q.slot, s.live q with
      | none, _ => some (.next { s with runs := Assoc.del s.runs id, cur := none })
      | some _, [] => some (.next (s.endRun id q))
      | some k, e :: _ =>
        match s.fetchRun k q e with
        | .instr i => moved (exec i (s.fetchTake k e.2 q.pc.toNat))
        | .illegal w => moved (.next (illegalWord w s))
        | .fault c => some (.next (s.fetchFault id q c))
        | .busy => none
        | .absent thr =>
          if e.2.fetchTicket.isSome then none
          else
            match exec (.faultTicketReturn ⟨q.core, q.slot, thr⟩ 0) s with
            | .next t => if t.threads = s.threads then none else some (.next t)
            | r => some r

/- ## Events inside the chip -/

/-- The first row of a list that changes the state, with its outcome. -/
def State.firstRes (s : State) (rows : List Instr) : Option Res :=
  rows.findSome? fun i =>
    match exec i s with
    | .next t => if t = s then none else some (.next t)
    | r => some r

/-- An access meets an absent page of this chip: what a peer's walk finds comes from outside (R394, log entry 23). -/
def State.absentHere (s : State) (k : Task) (o : Op) : Bool :=
  match o.acc? with
  | some a => (match s.locate k.asid a.va (if a.write then .w else .r) with | .absent _ => true | _ => false)
  | none => (match o.kind with | .engine _ => true | _ => false)

/-- The rows that may end the operations in flight of one thread, oldest first. -/
def State.opRows (s : State) (k : Task) (r : TRef) (t : Thread) : List Instr :=
  t.ops.flatMap fun o =>
    let wait := if o.ticket.isSome || !s.absentHere k o then [] else [Instr.faultTicketReturn r o.id]
    match o.kind with
    | .result _ => [.registerResultWrite r o.id]
    | .load .. | .atomic _ _ _ _ _ (some _) => .loadResponse r o.id false :: wait
    | .store .. | .atomic _ _ _ _ _ none | .pref .. | .cctl .. => .accessPerformed r o.id :: wait
    | .strong .. => wait
    | .engine _ => wait

/-- The rows of every thread: its operations, its fetch and its pending causes. A debugger's halt and resume come from
outside (log entry 23). -/
def State.threadRows (s : State) : List Instr :=
  s.threads.flatMap fun e =>
    let r := refOf e.1
    (match s.task? r.core r.slot with
     | some k => s.opRows k r e.2 ++
         (if e.2.fetchTicket.isNone && !e.2.ended && (s.fetchAbsent r k e.2 e.2.pc.toNat).isSome then [Instr.faultTicketReturn r 0] else [])
     | none => []) ++
      (if e.2.due.isSome && !s.inRun r.core r.slot r.thr then [Instr.deferredTrapDelivery r] else [])

/-- The rows of the cores: copies, skip buffers, matrix operations, allotments, the firmware's IDLE, and the force-save of
tasks that use a failed macro (R301). -/
def State.coreRows (s : State) : List Instr :=
  (s.cores.flatMap fun e =>
    (Assoc.keys e.2.copies).map (fun c => Instr.copyCompletion e.1 c) ++
    ((e.2.copies.filter fun c => c.2.again && c.2.ticket.isNone &&
      match s.task? e.1 c.2.slot with
      | some k => (s.copyAbsent e.1 c.1 k c.2).isSome
      | none => false).map fun c => Instr.faultTicketReturn ⟨e.1, c.2.slot, c.2.thr⟩ c.2.id) ++
    [.mloadFire e.1 false, .mloadFire e.1 true, .mmaPass e.1 false none, .mmaPass e.1 true none, .shrinkApply e.1, .growGrant e.1] ++
    (if (e.2.idleEvents != 0) then [Instr.idleWake e.1].filter fun _ =>
      (s.threadsOf e.1 fwSlot).any fun t => match t.2.wait with | .idle mask .. => s.idleHit e.1 mask | _ => false else [])) ++
  s.tasks.flatMap fun e =>
    let core := e.1 / 32
    let slot := e.1 % 32
    (Assoc.keys e.2.qs).map (fun q => Instr.skipBufferGrant core slot q) ++
    e.2.drains.map (fun d => Instr.mdrainFire core slot d.id) ++
    (if !e.2.hd.nomatrix && ((s.core core).mac0.fail || (s.core core).mac1.fail) && decide (slot < fwSlot) then
      [Instr.forceSave core slot] else [])

/-- The rows of tickets: a page that is present, or that the backfill unit can serve, is replayed; service that needs the
host in a context that may not use it fails; a page's owner answers (R401). -/
def State.ticketRows (s : State) : List Instr :=
  (s.agents.tickets.filter fun e => e.2.waiting).filterMap fun e =>
    if !s.ticketOwn e.2 then some (.replayNotice e.1 e.2.gen false)
    else match s.translate e.2.asid e.2.va .r with
    | .absent true _ => if s.agents.pool.isEmpty then none else some (.replayNotice e.1 e.2.gen false)
    | .absent false _ => if s.hosten e.2.asid then none else some (.replayNotice e.1 e.2.gen true)
    | _ => some (.replayNotice e.1 e.2.gen false)

/-- The rows of the agents: packets, dependences, ended launches, and placements, the cores in order. -/
def State.agentRows (s : State) : List Instr :=
  (((List.range coreCount).find? fun c => !s.plat.clOff.contains (c / 8)).map fun c => Instr.packetClaim c).toList ++
  (s.agents.launches.flatMap fun e => [Instr.dependencePoll e.1, .completionSignalWrite e.1]) ++
  (if s.agents.launches.isEmpty then [] else (List.range coreCount).map fun c => Instr.taskPlacementChoice c)

/-- The rows of memory, sets and regions: acknowledgements, held updates, reclaim, trace records. -/
def State.memRows (s : State) : List Instr :=
  (Assoc.keys s.invs).map (fun i => Instr.invalidationAck i) ++
  (s.rws.filter fun e => s.peerSt e.2.peer = .reachable).map (fun e => Instr.remoteWriteAck e.1) ++
  (Assoc.keys s.veins).map (fun n => Instr.sumpApply n) ++
  (s.regions.flatMap fun e => (e.2.lines.filter fun l => !l.2.live).map fun l => Instr.assayReclaimStep e.1 l.1) ++
  (if s.trace.isEmpty || !s.coresRun then [] else [Instr.traceRecordWrite])

/-- The events that may occur inside the chip now, timers apart; those of cores, threads and agents while the cores run (R471). -/
def State.eventRows (s : State) : List Instr :=
  s.memRows ++ (if s.coresRun then s.threadRows ++ s.coreRows else []) ++ s.ticketRows ++ (if s.coresRun then s.agentRows else [])

/- ## Timers that are due -/

/-- Rows of the threads whose time has come (R47, R50, R154). -/
def State.threadTimers (s : State) : List Instr :=
  s.threads.flatMap fun e =>
    let r := refOf e.1
    (match e.2.wait with
     | .time due _ => if due ≤ s.clk.time then [Instr.waittDeadline r] else []
     | .idle _ due _ => if due ≤ s.clk.time then [Instr.idleWake r.core] else []
     | _ => []) ++
    (match e.2.held with
     | some c => if c + (s.core r.core).thold ≤ s.clk.cycles then [Instr.holdTimeout r] else []
     | none => []) ++
    (if (s.core r.core).tfair ≤ e.2.age ∧ e.2.overdue.isNone then [Instr.fairnessOverdue r] else [])

/-- Rows of the tasks whose deadline has come (R389, R411, R413, R414). -/
def State.taskTimers (s : State) : List Instr :=
  let now := s.clk.time
  (s.tasks.flatMap fun e =>
    let core := e.1 / 32
    let slot := e.1 % 32
    (match e.2.frozen with
     | some t => if t + 1000 * s.regs.fhold ≤ now then [Instr.fholdExpiry core slot] else []
     | none => []) ++
    (match e.2.saving with
     | some due => if due ≤ now then [Instr.saveDeadlineExpiry core slot] else []
     | none => []) ++
    (match e.2.slice with
     | some left => if e.2.sliceFrom + left ≤ now ∧ e.2.saving.isNone then [Instr.timeSliceExpiry core slot] else []
     | none => []) ++
    (match s.stuckChild core slot e.2.uid with
     | some (_, l) => if l.readyAt + 1000 * s.regs.parkt ≤ now then [Instr.park core slot] else []
     | none => [])) ++
  s.cores.flatMap fun e => e.2.barred.filterMap fun b =>
    if (s.ofContext e.1 b.1).any fun k => k.2.saving.isNone && decide (drainDue b.2.2 k.2 ≤ now) then
      some (.drainDeadlineExpiry e.1 b.1)
    else none

/-- Rows of the agents, tickets and masters whose deadline has come (R327, R385, R397, R401, R446). -/
def State.agentTimers (s : State) : List Instr :=
  let now := s.clk.time
  let late := now - 1000 * s.regs.clmwt
  (s.agents.launches.filter fun e => e.2.st = .placeable ∧ e.2.since + 1000 * s.regs.prewt ≤ now).map (fun e => Instr.prewtExpiry e.1) ++
  (s.agents.tickets.filter fun e => e.2.waiting && decide (e.2.since ≤ late) && decide (1000 * s.regs.clmwt ≤ now)).map (fun e => Instr.clmwtExpiry e.1) ++
  (s.agents.cwaits.filter fun w => decide (w.since + 1000 * s.regs.clmwt ≤ now)).map (fun w => Instr.clmwtExpiry (w.id + 4096)) ++
  (s.agents.peerTicks.filter fun e => decide (e.2.since + 1000 * s.regs.clmwt ≤ now)).map (fun e => Instr.clmwtExpiry (e.1 + 4096)) ++
  (s.agents.pins.filter fun e => decide (e.2 ≤ now)).map (fun e => Instr.rpwinExpiry e.1) ++
  (s.fab.acache.filter fun e => decide (e.2 ≤ now)).map (fun e => Instr.atomicCacheLeaseEnd e.1) ++
  (s.harts.filter fun e => e.2.frozen.any fun t => decide (t + 1000 * s.regs.fhold ≤ now)).map (fun e => Instr.hartFreezeTimeout e.1)

/-- Rows of the sets and the fabric whose deadline has come (R317, R322, R326, R338, R451, R455). -/
def State.fabricTimers (s : State) : List Instr :=
  let now := s.clk.time
  (s.veins.flatMap fun e =>
    (if e.2.banksman = e.2.rank ∧ 1 < e.2.members.length ∧ e.2.bankSince + 1000 * e.2.rott ≤ now then [Instr.banksmanRotationTimer e.1] else []) ++
    (match e.2.lagSince with
     | some t => if t + 1000000 < now then [Instr.lagEvictionTimeout e.1 e.2.rank] else []
     | none => []) ++
    (match e.2.forming with
     | some (t, _, _) => if t + 10000000 ≤ now then [Instr.formTimeout e.1] else []
     | none => [])) ++
  (s.fab.peers.filter fun e => e.2.st = .unreachable ∧ e.2.since + 1000 * s.regs.plto ≤ now).map (fun e => Instr.peerLossTimeout e.1) ++
  (if s.clk.tick + syncNs ≤ now then [Instr.syncInterval] else []) ++
  (match s.fab.reconf.bind fun r => r.darkSince with
   | some t => if t + 1000 * s.fab.rcdark < now then [Instr.rcdarkExpiry] else []
   | none => [])

/-- The timers that are due. -/
def State.timerRows (s : State) : List Instr := s.threadTimers ++ s.taskTimers ++ s.agentTimers ++ s.fabricTimers

/- ## Groups -/

/-- A switch between A0 and A1 is due, which waits for every core's run boundary (R471). -/
def State.switchDue (s : State) : Bool := s.coresRun && decide (s.plat.power ≠ s.clockDue)

/-- The cores that may form a group, from the one after the last to have formed one: none while a switch is due. -/
def State.groupRows (s : State) : List Instr :=
  let cores := ((Assoc.keys s.tasks).map fun k => k / 32).dedup.filter fun c => !s.plat.gated.contains (c / 8)
  let order := cores.filter (fun c => decide (s.lastCore < c)) ++ cores.filter fun c => decide (c ≤ s.lastCore)
  if s.coresRun && !s.switchDue then order.map fun c => Instr.issueGroup c else []

/-- Another run that does not stall goes on. -/
def State.otherRun (s : State) : Option Res :=
  (Assoc.keys s.runs).findSome? fun id => { s with cur := some id }.runRes

/-- The members of a run that have taken a cause that ends or freezes their task, or rolls it back. -/
def State.enders (s : State) (q : Run) : List Nat :=
  match s.task? q.core q.slot with
  | none => []
  | some k => q.members.filter fun i =>
      match s.thread? ⟨q.core, q.slot, i⟩ with
      | some t => t.due.any (endsTask k t)
      | none => false

/-- A run that stalls is stopped at its stall by such a cause (R43, R407, R410, R411). -/
def State.stallRes (s : State) : Option Res :=
  s.runs.findSome? fun (e : Nat × Run) =>
    let is := s.enders e.2
    if is.isEmpty || ({ s with cur := some e.1 }.runRes).isSome then none
    else
      let t := s.deliverAll e.2.core e.2.slot is
      if t = s then none else some (.next t)

/-- A timer that is due. -/
def State.timerRes (s : State) : Option Res :=
  (s.firstRes s.timerRows).map fun r => match r with
    | .next t => .next { t with timersFirst := false }
    | e => e

/-- A new group. -/
def State.groupRes (s : State) : Option Res :=
  (s.firstRes s.groupRows).map fun r => match r with
    | .next t => .next { t with timersFirst := true }
    | e => e

/-- What happens where the current run cannot go on: the end of a stalled run, an event inside the chip, another run, then a timer that is due and
a new group in turn. -/
def State.autoRes (s : State) : Option Res :=
  match s.stallRes with
  | some r => some r
  | none =>
    match s.firstRes s.eventRows with
    | some r => some r
    | none =>
      match s.otherRun with
      | some r => some r
      | none =>
        if s.timersFirst then (match s.timerRes with | some r => some r | none => s.groupRes)
        else (match s.groupRes with | some r => some r | none => s.timerRes)

end Machine
end Sys2Proof
end

