-- ==== Sys2Proof/Machine/Step.lean ====
section
/-! DEFINITION. One step of the chip: the oldest event the chip has asked of itself, else the next word of the current
run, else an event inside the chip, else only time passes. And the placing of a word where step fetches next. -/

namespace Sys2Proof
namespace Machine

/-- One step (log entry 23). -/
def step (s : State) : Host.Outcome State Fault Refusal :=
  if s.plat.power = .s3 then .fault .poweredOff
  else
    match s.agenda with
    | i :: rest => after (exec i { s with agenda := rest })
    | [] =>
      match s.runRes with
      | some r => after r
      | none =>
        match s.autoRes with
        | some r => after r
        | none => .next s.tick

/-- The physical address of the page that a placed word stands in, and of the tables that map it. -/
def placedPage : Nat := 0x30000
def placedTables : Nat := 0x10000

/-- The virtual address of the placed word: the first after its block's header. -/
def placedPc : Nat := 0x20008

/-- The bytes of the context entry, the tables and the block that the fetch of a placed word needs (R115, R391 to R393):
the page at 0x20000 of context 0 is mapped with all rights, untracked, class 0. -/
def placedCells (chip w : Nat) : List (Nat × List Byte) :=
  let t := fun (l : Nat) => placedTables + 0x1000 * (4 - l)
  let entry := fun (l a : Nat) => (hbmKey chip (t l), leBytes 8 (a + 1))
  [(hbmKey chip 0, leBytes 8 (chip * 2 ^ 51 + t 4 + 1)), entry 4 (t 3), entry 3 (t 2), entry 2 (t 1), entry 1 (t 0),
   (hbmKey chip (t 0 + 16), leBytes 8 (chip * 2 ^ 51 + placedPage + 0x1F)),
   (hbmKey chip placedPage, leBytes 8 (127 * 2 ^ 57 + 16 * 2 ^ 49 + 640 * 2 ^ 39 + 2 ^ 12)),
   (hbmKey chip (placedPage + 8), leBytes 16 w)]

/-- The launch header of the task a placed word runs in: one thread, 640 registers, all of the pool's units. -/
def placedHdr : LHdr :=
  { hdrParse (fun _ _ => 0) with crwc := 1, allc := 640, regu := 40, scru := 64, acct := 16, privb := 4096 }

/-- The thread that stands at a placed word. -/
def placedThread : Thread :=
  { Thread.reset (BitVec.ofNat 64 placedPc) (BitVec.ofNat 64 (privBase + 4096)) with
    blk := some { hdr := BitVec.ofNat 64 (placedPc - 8), len := 16, live := 640, fresh := false } }

/-- The word is one that a crew executes together. -/
def placedConv (nbits w : Nat) : Bool :=
  match decodeTableWord nbits w with
  | some i => convergent i
  | none => false

/-- A state with an instruction stored where step fetches next (log entry 24): a task in core 0's firmware crew slot,
where every instruction may issue, its one thread at the word, and a run of it. -/
def State.withFetchWord (s : State) (nbits w : Nat) : State :=
  let chip := s.chip.toNat
  let k : Task := { Task.reset 1 0 0 0 0 placedHdr 0 with nthr := 1 }
  let r : TRef := ⟨0, fwSlot, 0⟩
  { s with
    regs := { s.regs with ctxb := 0 }
    mem := (placedCells chip w).foldl (fun m c => Memory.writeN m c.1 c.2) s.mem
    tasks := Assoc.put s.tasks (taskKey 0 fwSlot) k
    threads := Assoc.put s.threads (thrKey r) placedThread
    runs := [(1, { core := 0, slot := fwSlot, members := [0], pc := BitVec.ofNat 64 placedPc, len := 0, conv := placedConv nbits w })]
    cur := some 1
    agenda := []
    agents := { s.agents with leases := [], owner := Assoc.del s.agents.owner (hbmKey chip placedPage / 2 ^ 16) }
    host := { s.host with bias := Assoc.del s.host.bias (hbmKey chip placedPage / 2 ^ 16) }
    plat := { s.plat with power := .a0, sec := if s.plat.sec = .recovery then .sealed else s.plat.sec }
    nextId := max s.nextId 2 }

end Machine
end Sys2Proof
end

