-- ==== Sys2Proof/Safety.lean ====
section
/-! DEFINITION. What counts as a safe state and a safe run, and when a word issues, in the terms that claims use. -/

namespace Sys2Proof
namespace Machine

/-- The canonical form of the chip's memory: strictly rising addresses, and no entry equal to what an unlisted address
reads as. -/
def State.memWf (s : State) : Bool := Memory.wf s.mem

/-- The machine goes on: its step neither faults nor refuses. -/
def Runs (s : State) : Prop := ∃ t, step s = .next t

/-- An instruction or event completes in a state. -/
def Completes (i : Instr) (s : State) : Prop := ∃ t, exec i s = .next t

/-- n steps, each of which answers a next state. -/
inductive Reaches : State → State → Prop where
  | refl (s : State) : Reaches s s
  | step (s t u : State) : step s = .next t → Reaches t u → Reaches s u

/-- The members of a run that are active for a word (R104). -/
def State.acting (s : State) (q : Run) (h : Hdr) : List (Nat × Thread) := (s.live q).filter fun e => e.2.active h

/-- The current run's group may issue a word now: no member stalls, the word stands where R42, R53 and R125 let it, and
the tables of R234 have room. The run's number, the run, its task and the word's header. -/
def State.issues? (s : State) (i : Instr) : Option (Nat × Run × Task × Hdr) :=
  match s.curRun, i.hdr? with
  | some (id, q), some h =>
    match s.task? q.core q.slot with
    | some k =>
      if decide q.members.Nodup && !((s.live q).any fun e => e.2.stalledOn i) && (!convergent i || q.conv) &&
          decide (q.len < 24) && (h.b || !((s.live q).any fun e => lastOfBlock i e.2)) &&
          !s.tableFull q i (s.acting q h).length then some (id, q, k, h) else none
    | none => none
  | _, _ => none

/-- A group of one thread issues a word that is active for it and passes the checks of R126. The run's number, the run,
the word's header, and the thread with its task and the state. -/
def State.solo? (s : State) (i : Instr) : Option (Nat × Run × Hdr × Ctx) :=
  match s.issues? i with
  | some (id, q, k, h) =>
    match s.live q with
    | [(j, t)] => if t.active h && (precheck k q.slot j t i).isNone then some (id, q, h, s.ctx k q j t) else none
    | _ => none
  | none => none

/-- The state in which a word's own effect on a thread begins: the group has reached one more word of its windows, and the
word's window is open (R127). -/
def State.begun (s : State) (q : Run) (i : Instr) (r : TRef) : State := (s.tickAll q).openWin r i

/-- A word completes its issue: wherever a group of one thread issues it and P holds, exec answers a next state, in which
the word has had the effect E, the registers it has written count as written (R273), the thread has gone on past the word,
and its run has gone on or ended. -/
def GoesOn (i : Instr) (P : Ctx → State → Prop) (E : Ctx → State → State → Prop) : Prop :=
  ∀ s id q h x, s.solo? i = some (id, q, h, x) → P x (s.begun q i x.r) →
    ∃ u, E x (s.begun q i x.r) u ∧ exec i s = .next (((u.noteWrites x.r i).advance x.r x.k (wordBytes i)).afterWord id q i h true)

/-- The same for a word whose effect says itself where the thread goes: a transfer, a wait, or the thread's end. -/
def Places (i : Instr) (P : Ctx → State → Prop) (E : Ctx → State → State → Prop) : Prop :=
  ∀ s id q h x, s.solo? i = some (id, q, h, x) → P x (s.begun q i x.r) →
    ∃ u, E x (s.begun q i x.r) u ∧ exec i s = .next (u.afterWord id q i h true)

/-- No hypothesis beyond the issue. -/
def always (_ : Ctx) (_ : State) : Prop := True

/-- The effect of writing registers, and nothing else. -/
def Writes (ws : Ctx → State → List (Nat × Word)) (x : Ctx) (st u : State) : Prop :=
  u = st.updThread x.r fun t => t.puts (ws x st)

/-- Two threads agree in everything but where they stand: registers, predicates, the stack pointer, the handler's
registers, and the records of strong operations and lost writes (R96, R149, R328, R421). -/
def SameFile (a b : Thread) : Prop :=
  a.regs = b.regs ∧ a.preds = b.preds ∧ a.csp = b.csp ∧ a.tpc = b.tpc ∧ a.tcause = b.tcause ∧ a.tval = b.tval ∧
    a.taddr = b.taddr ∧ a.inh = b.inh ∧ a.modf = b.modf ∧ a.sstat = b.sstat ∧ a.drop = b.drop ∧ a.lostw = b.lostw

/-- A thread apart from its age (R50), by which the passing of time alone changes it. -/
def Thread.unaged (t : Thread) : Thread := { t with age := 0, overdue := none }

/-- Two states hold the same threads, apart from their ages. -/
def SameThreads (s u : State) : Prop := ∀ r : TRef, (u.thread? r).map Thread.unaged = (s.thread? r).map Thread.unaged

/-- Two states hold the same tasks, apart from what their checkpoints note as written (R273). -/
def SameTasks (s u : State) : Prop :=
  ∀ c n, (u.task? c n).map (fun k => { k with ckpt := none }) = (s.task? c n).map fun k => { k with ckpt := none }

/-- A state keeps another's memory, system registers and cores, the pool contents of a slot's task, and every thread
outside a run (what a register-only word leaves). -/
def SameAround (q : Run) (s u : State) : Prop :=
  u.mem = s.mem ∧ u.poison = s.poison ∧ u.regs = s.regs ∧ u.cores = s.cores ∧ u.veins = s.veins ∧ u.regions = s.regions ∧
  u.harts = s.harts ∧ u.plat = s.plat ∧ u.clk = s.clk ∧
  (u.task? q.core q.slot).map (fun k => (k.scratch, k.tiles, k.version, k.ks, k.qs, k.allot)) =
    (s.task? q.core q.slot).map (fun k => (k.scratch, k.tiles, k.version, k.ks, k.qs, k.allot)) ∧
  ∀ r : TRef, (∀ j ∈ q.members, thrKey r ≠ thrKey ⟨q.core, q.slot, j⟩) → u.thread? r = s.thread? r

/-- A word that only writes registers, issued by a group of any size: each active member that passes the checks of R126
takes f of its own operands into its registers, each that fails them takes its trap and nothing else, an inactive member
takes nothing, and all else is as it was (R104, R119, R126). -/
def GroupWrites (i : Instr) (f : Ctx → List (Nat × Word)) : Prop :=
  ∀ s id q k h, s.issues? i = some (id, q, k, h) →
    ∃ u, exec i s = .next (u.afterWord id q i h (!(s.acting q h).isEmpty)) ∧ SameAround q s u ∧
      ∀ j t, (j, t) ∈ s.live q →
        ∃ t', u.thread? ⟨q.core, q.slot, j⟩ = some t' ∧
          (t.active h = false → SameFile t' t) ∧
          (t.active h = true → precheck k q.slot j t i = none → SameFile t' (t.puts (f (s.ctx k q j t)))) ∧
          (∀ c d, t.active h = true → precheck k q.slot j t i = some (c, d) →
            SameFile t' t ∧ t'.pc = t.pc ∧
            t'.trap = some { cause := c, detail := d, pc := t.pc, tval := 0, taddr := 0, deferred := false })

/-- The effect of a word that puts one operation in flight, and nothing else: its registers and window as R127 to R129
have them. -/
def InFlight (i : Instr) (pend closed : Bool) (kind : Ctx → State → OpKind) (x : Ctx) (st u : State) : Prop :=
  u = st.fresh.2.addOp x.r { mkOp st.nextId i x.t.pc pend (kind x st) with closed := closed }

/-- The effect of a word whose thread waits at it, and nothing else (R43). -/
def WaitsFor (w : Ctx → State → Wait) (x : Ctx) (st u : State) : Prop :=
  u = st.updThread x.r fun t => { t with wait := w x st }

/-- A long-latency computation: the word ends with its result in flight to D, which REGISTER_RESULT_WRITE writes
(R119, R129). -/
def LongWrites (i : Instr) (f : Ctx → List (Nat × Word)) : Prop :=
  GoesOn i always (InFlight i false false fun x _ => .result (f x))

/-- The header word at a transfer's target, where the target is aligned, inside the space, fetchable and valid
(R116, R145). -/
def State.target? (s : State) (k : Task) (va : Nat) : Option Nat :=
  match s.headerAt k va with
  | .ok w => some w
  | _ => none

/-- A live thread waits for an operation of its own that writes D when it ends, and no other thread of its task has one of
that identifier (R129, R152). -/
def State.waitsOn (s : State) (r : TRef) (op : Nat) (d : Opnd) (t : Thread) : Prop :=
  Assoc.wf s.threads = true ∧ r.thr < 4096 ∧ s.thread? r = some t ∧ t.ended = false ∧
    (∃ o, t.ops.find? (fun o => o.id == op) = some o ∧ o.kind = .engine [d]) ∧
    ∀ j t2, s.thread? ⟨r.core, r.slot, j⟩ = some t2 → j < 4096 → j ≠ r.thr → ∀ x ∈ t2.ops, x.id ≠ op

/-- That operation has ended with a status of a code in D (R131). -/
def State.endedWith (u : State) (r : TRef) (op : Nat) (d : Opnd) (t : Thread) (code : Nat) : Prop :=
  ∃ t' w, u.thread? r = some t' ∧ t'.regs = (t.puts (putW d w)).regs ∧ w.toNat / 2 ^ 24 = 128 + code ∧
    ∀ x ∈ t'.ops, x.id ≠ op

/-- D of a thread has received a status of a code, and nothing else of its file has changed. -/
def State.statusIn (u : State) (x : Ctx) (st : State) (d : Opnd) (code : Nat) : Prop :=
  ∃ w : Word, w.toNat / 2 ^ 24 = 128 + code ∧
    ∀ t0, st.thread? x.r = some t0 → ∃ t, u.thread? x.r = some t ∧ SameFile t (t0.puts (putW d w))

/-- An operation of a thread is in flight with D pending. -/
def State.pending (u : State) (r : TRef) (op : Nat) (d : Opnd) : Prop :=
  ∀ t, u.thread? r = some t → ∃ o ∈ t.ops, o.id = op ∧ o.pend = true ∧ o.kind = .engine [d]

/-- Nothing of a set waits to go on by itself: no strong operation, void slot, sweep to begin, join, leave or form. -/
def VeinSet.calm (v : VeinSet) : Prop :=
  v.strongs = [] ∧ v.voids = [] ∧ v.sweepDue = false ∧ v.sweepSlot = none ∧ v.joinsDue = [] ∧ v.joining = none ∧
    v.leaving = none ∧ v.forming = none

/-- A word's own condition to issue holds for the one thread of its group. -/
def Ctx.mayIssue (x : Ctx) (pre : State → Task → Run → List (Nat × Thread) → Bool) : Prop :=
  ∃ e, x.s.curRun = some e ∧ pre x.s x.k e.2 [(x.r.thr, x.t)] = true

/-- A word traps: wherever a group of one thread issues it and P holds, the thread takes the cause at the word, and the word
has no other effect (R126, R134). -/
def Traps (i : Instr) (P : Ctx → State → Prop) (c : Cause) (detail : Nat) (taddr : Ctx → DWord) : Prop :=
  ∀ s id q h x, s.solo? i = some (id, q, h, x) → P x (s.begun q i x.r) →
    exec i s = .next (((s.tickAll q).updThread x.r fun t => t.raise c detail x.t.pc 0 (taddr x)).afterWord id q i h true)

/-- A strong form of an access at issue, its earlier accesses performed (R205, R232, R239, R246): off a vein page, or in a task
with no set, it traps STRONGSEG; a lagging member gives LAG at once, zeros in D and SSTAT alone (R322); else its commit is made, it
is in flight, and it stands in its set's order, asking for a slot unless the set holds it (R315, R316). A violation that the
translation finds is its thread's deferred cause. -/
def StrongAccess (i : Instr) (chk : Ctx → Chk) (acc : Ctx → Acc) (kind : Ctx → OpKind) (d : Option Opnd) : Prop :=
  let may := fun (x : Ctx) => x.s.mayStrong x.k x.t = true
  let onVein := fun (x : Ctx) => chk x = .ok .glob ∧ x.s.pageCls x.k.asid (acc x).va = some 2
  Traps i (fun x st => may x ∧ (∃ p, chk x = .ok p) ∧ (¬onVein x ∨ st.veinOf x.k.asid = none)) .strongseg 0
    (fun x => BitVec.ofNat 64 (acc x).va) ∧
  GoesOn i (fun x st => may x ∧ onVein x ∧ ∃ slot v, st.veinOf x.k.asid = some (slot, v) ∧ v.lagging = true) (fun x st u =>
    u = st.updThread x.r fun t =>
      { t.puts (match d with | some d => putG d (List.replicate (max 1 ((acc x).n / 4)) 0) | none => []) with
        sstat := status Code.lag 0 }) ∧
  GoesOn i (fun x st => may x ∧ onVein x ∧ ∃ slot v, st.veinOf x.k.asid = some (slot, v) ∧ v.lagging = false) fun x st u =>
    ∀ slot v, st.veinOf x.k.asid = some (slot, v) →
      let o := mkOp (st.commit x.r).nextId i x.t.pc false (kind x)
      let st1 := (st.commit x.r).fresh.2.addOp x.r o
      let found := st.locate x.k.asid (acc x).va (if (acc x).write then .w else .r)
      (∀ f, found = .fault f → u = st1.failOp x.r o f 0) ∧
      ((∀ f, found ≠ .fault f) → ∀ v1, Assoc.find? st1.veins slot = some v1 →
        let so : StrongOp := { ref := x.r, op := o.id, slot := none, performed := false, acks := [], requested := !v.held }
        let st2 := { st1 with veins := Assoc.put st1.veins slot { v1 with strongs := v1.strongs ++ [so] } }
        u = if v.held then st2
          else if v1.banksman = v1.rank then { st2 with agenda := st2.agenda ++ [.slotRequest slot v1.rank] }
          else st2.send (.slotReq v1.vsid v1.rank))

end Machine
end Sys2Proof
end

