-- ==== Sys2Proof/Certificates/Slice0/Obligations.lean ====
section
/-! DEFINITION. The statements for the provers: what the LX8's rules say its instructions and events do. -/

open Sys2Proof Sys2Proof.Machine

/- ## Integer, predicate, logic and move instructions -/

/-- The integer arithmetic of R158: the exact result of R157 on the exact values of the sources, wrapped or clamped. -/
def Obligations.IntegerArithmetic : Prop :=
  (∀ h ty sat d a b, GroupWrites (.iadd h ty sat d a b) fun x =>
    putTy ty d (Ty.round ty (Ty.exact ty (x.ty ty a) + Ty.exact ty (x.ty ty b)) sat)) ∧
  (∀ h ty sat d a b, GroupWrites (.isub h ty sat d a b) fun x =>
    putTy ty d (Ty.round ty (Ty.exact ty (x.ty ty a) - Ty.exact ty (x.ty ty b)) sat)) ∧
  (∀ h ty sat d a b, GroupWrites (.imul h ty sat d a b) fun x =>
    putTy ty d (Ty.round ty (Ty.exact ty (x.ty ty a) * Ty.exact ty (x.ty ty b)) sat)) ∧
  (∀ h ty d a b, GroupWrites (.imulh h ty d a b) fun x =>
    putTy ty d (Ty.round ty (Int.fdiv (Ty.exact ty (x.ty ty a) * Ty.exact ty (x.ty ty b)) (2 ^ Ty.bits ty)) false)) ∧
  (∀ h ty sat d a b c, GroupWrites (.imad h ty sat d a b c) fun x =>
    putTy ty d (Ty.round ty (Ty.exact ty (x.ty ty a) * Ty.exact ty (x.ty ty b) + Ty.exact ty (x.ty ty c)) sat)) ∧
  (∀ h ty d a b, GroupWrites (.imin h ty d a b) fun x =>
    putTy ty d (Ty.round ty (min (Ty.exact ty (x.ty ty a)) (Ty.exact ty (x.ty ty b))) false)) ∧
  (∀ h ty d a b, GroupWrites (.imax h ty d a b) fun x =>
    putTy ty d (Ty.round ty (max (Ty.exact ty (x.ty ty a)) (Ty.exact ty (x.ty ty b))) false)) ∧
  (∀ h ty sat d a, GroupWrites (.iabs h ty sat d a) fun x =>
    putTy ty d (Ty.round ty |Ty.exact ty (x.ty ty a)| sat)) ∧
  ∀ h ty sat d a imm, GroupWrites (.iaddi h ty sat d a imm) fun x =>
    putTy ty d (Ty.round ty (Ty.exact ty (x.ty ty a) + imm.toInt) sat)

/-- IDIV and IREM of R159, for every value of both sources: the quotient toward zero and the remainder with the sign
of a; by zero, all ones and a; the minimum by −1 wraps or clamps. The results are in flight until they are written. IABS of
the minimum wraps, or clamps under .sat. -/
def Obligations.DivisionInEveryCase : Prop :=
  ∀ h ty sat d a b,
    ∃ quo : Ctx → Nat, ∃ rem : Ctx → Nat, ∃ mag : Ctx → Nat,
      LongWrites (.idiv h ty sat d a b) (fun x => putTy ty d (quo x)) ∧
      LongWrites (.irem h ty d a b) (fun x => putTy ty d (rem x)) ∧
      GroupWrites (.iabs h ty sat d a) (fun x => putTy ty d (mag x)) ∧
      ∀ x : Ctx,
        (Ty.exact ty (x.ty ty b) = 0 → quo x = 2 ^ Ty.bits ty - 1 ∧ Ty.exact ty (rem x) = Ty.exact ty (x.ty ty a)) ∧
        (Ty.exact ty (x.ty ty b) ≠ 0 →
          Ty.exact ty (rem x) =
            Ty.exact ty (x.ty ty a) - Ty.exact ty (x.ty ty b) * Int.tdiv (Ty.exact ty (x.ty ty a)) (Ty.exact ty (x.ty ty b)) ∧
          (Int.tdiv (Ty.exact ty (x.ty ty a)) (Ty.exact ty (x.ty ty b)) ≤ Ty.hi ty →
            Ty.exact ty (quo x) = Int.tdiv (Ty.exact ty (x.ty ty a)) (Ty.exact ty (x.ty ty b))) ∧
          (Ty.hi ty < Int.tdiv (Ty.exact ty (x.ty ty a)) (Ty.exact ty (x.ty ty b)) →
            Ty.exact ty (quo x) = if sat then Ty.hi ty else Ty.lo ty)) ∧
        (ty = .i32 ∨ ty = .i64 → Ty.exact ty (x.ty ty a) = Ty.lo ty → Ty.exact ty (mag x) = if sat then Ty.hi ty else Ty.lo ty)

/-- Comparisons, SEL and the predicate moves of R160 to R163: one predicate or register, and nothing else. -/
def Obligations.ComparisonsAndPredicates : Prop :=
  (∀ h cc ty p a b q, GroupWrites (.iset h cc ty p a b q) fun x =>
    putP p (Cc.holdsInt cc (Ty.exact ty (x.ty ty a)) (Ty.exact ty (x.ty ty b)) && x.t.pred q)) ∧
  (∀ h cc ty p a imm, GroupWrites (.iseti h cc ty p a imm) fun x =>
    putP p (Cc.holdsInt cc (Ty.exact ty (x.ty ty a)) (Ty.exact ty (imm.toInt % 2 ^ Ty.bits ty).toNat))) ∧
  (∀ h ty d a b q, GroupWrites (.sel h ty d a b q) fun x => putTy ty d (if x.t.pred q then x.ty ty a else x.ty ty b)) ∧
  (∀ h tt p a b, GroupWrites (.plop h tt p a b) fun x =>
    putP p (tt.testBit (2 * (x.t.pred a).toNat + (x.t.pred b).toNat))) ∧
  (∀ h d, GroupWrites (.pmovPack h d) fun x =>
    putW d (BitVec.ofNat 32 ((List.range 16).map fun i => (x.t.pred i).toNat * 2 ^ i).sum)) ∧
  (∀ h a, GroupWrites (.pmovUnpack h a) fun x =>
    (List.range' 1 15).map fun i => (1024 + i, if (x.w a).getLsbD i then 1 else 0)) ∧
  (∀ h p a, GroupWrites (.pmovNz h p a) fun x => putP p (decide (x.w a ≠ 0))) ∧
  ∀ h d p, GroupWrites (.pmovVal h d p) fun x => putW d (if x.t.pred p then 1 else 0)

/-- Logic, shifts and bit fields of R164 to R167, for every count, position and length; and the moves, immediates and LEA
of R168 to R171. -/
def Obligations.LogicShiftsAndMoves : Prop :=
  (
    (∀ h d a b, GroupWrites (.and h d a b) fun x => putW d (x.w a &&& x.w b)) ∧
    (∀ h d a b, GroupWrites (.or h d a b) fun x => putW d (x.w a ||| x.w b)) ∧
    (∀ h d a b, GroupWrites (.xor h d a b) fun x => putW d (x.w a ^^^ x.w b)) ∧
    (∀ h op hi d a imm, GroupWrites (.logi h op hi d a imm) fun x =>
      let m : Word := if hi then imm ++ (0 : BitVec 12) else imm.signExtend 32
      putW d (match op with
        | .and => x.w a &&& m
        | .or => x.w a ||| m
        | .xor => x.w a ^^^ m)) ∧
    (∀ h ty d a b, GroupWrites (.shl h ty d a b) fun x =>
      putTy ty d (x.ty ty a * 2 ^ (x.w b).toNat % 2 ^ Ty.bits ty)) ∧
    (∀ h ty d a b, GroupWrites (.shr h ty d a b) fun x =>
      putTy ty d (Int.fdiv (Ty.exact ty (x.ty ty a)) (2 ^ (x.w b).toNat) % 2 ^ Ty.bits ty).toNat) ∧
    (∀ h ty right d a b, GroupWrites (.rot h ty right d a b) fun x =>
      putW d (if right then (x.w a).rotateRight (x.w b).toNat else (x.w a).rotateLeft (x.w b).toNat)) ∧
    (∀ h wide d a, GroupWrites (.clz h wide d a) fun x =>
      putW d (BitVec.ofNat 32 ((if wide then 64 else 32) - Nat.size (if wide then (x.d a).toNat else (x.w a).toNat)))) ∧
    (∀ h wide d a, GroupWrites (.popc h wide d a) fun x =>
      putW d (BitVec.ofNat 32 (((List.range 64).filter (if wide then (x.d a).toNat else (x.w a).toNat).testBit).length))) ∧
    (∀ h wide d a, GroupWrites (.brev h wide d a) fun x =>
      if wide then putD d (x.d a).reverse else putW d (x.w a).reverse) ∧
    (∀ h signed d a c, GroupWrites (.bfx h signed d a c) fun x =>
      let p := min ((x.w c).toNat % 256) 32
      let l := min ((x.w c).toNat / 256 % 256) (32 - p)
      let f := (x.w a).toNat / 2 ^ p % 2 ^ l
      putW d (if signed ∧ f.testBit (l - 1) ∧ 0 < l then BitVec.ofInt 32 ((f : Int) - 2 ^ l) else BitVec.ofNat 32 f)) ∧
    ∀ h d a b c, GroupWrites (.bfi h d a b c) fun x =>
      let p := min ((x.w c).toNat % 256) 32
      let l := min ((x.w c).toNat / 256 % 256) (32 - p)
      let m : Word := BitVec.ofNat 32 ((2 ^ l - 1) * 2 ^ p)
      putW d ((x.w a &&& ~~~m) ||| ((x.w b <<< p) &&& m))) ∧
  (
    (∀ h ty d a, GroupWrites (.mov h ty d a) fun x => if ty.wide then putD d (x.d a) else putW d (x.w a)) ∧
    (∀ h wide d imm, GroupWrites (.movi h wide d imm) fun _ =>
      if wide then putD d (BitVec.ofInt 64 imm.toInt) else putW d (BitVec.ofInt 32 imm.toInt)) ∧
    (∀ h single d lit, GroupWrites (.movl h single d lit) fun _ =>
      if single then putW d (BitVec.ofNat 32 lit.toNat) else putD d lit) ∧
    ∀ h sx sh d a b, GroupWrites (.lea h sx sh d a b) fun x =>
      putD d (BitVec.ofInt 64 ((x.d a).toNat + (if sx then (x.w b).toInt else ((x.w b).toNat : Int)) * 2 ^ sh)))

/- ## Floating point -/

/-- The short floating-point instructions of R172 to R175: the exact result, rounded once; FCLS sets exactly one
of its nine bits. -/
def Obligations.FloatArithmetic : Prop :=
  (∀ h rm sat d a b, GroupWrites (.fadd h rm sat d a b) fun x =>
    putW d (BitVec.ofNat 32 (Fmt.single.round rm sat (FNum.add rm (f32 (x.w a)) (f32 (x.w b)))))) ∧
  (∀ h rm sat d a b, GroupWrites (.fsub h rm sat d a b) fun x =>
    putW d (BitVec.ofNat 32 (Fmt.single.round rm sat (FNum.add rm (f32 (x.w a)) (f32 (x.w b)).neg)))) ∧
  (∀ h rm sat d a b, GroupWrites (.fmul h rm sat d a b) fun x =>
    putW d (BitVec.ofNat 32 (Fmt.single.round rm sat (FNum.times rm (f32 (x.w a)) (f32 (x.w b)))))) ∧
  (∀ h rm sat d a b c, GroupWrites (.ffma h rm sat d a b c) fun x =>
    putW d (BitVec.ofNat 32 (Fmt.single.round rm sat (FNum.fused rm (f32 (x.w a)) (f32 (x.w b)) (f32 (x.w c)))))) ∧
  (∀ h d a b, GroupWrites (.fmin h d a b) fun x =>
    putW d (BitVec.ofNat 32 (Fmt.single.round .rn false (FNum.minNum (f32 (x.w a)) (f32 (x.w b)))))) ∧
  (∀ h d a b, GroupWrites (.fmax h d a b) fun x =>
    putW d (BitVec.ofNat 32 (Fmt.single.round .rn false (FNum.maxNum (f32 (x.w a)) (f32 (x.w b)))))) ∧
  (∀ h cc p a b q, GroupWrites (.fset h cc p a b q) fun x =>
    putP p (Cc.holdsFloat cc (f32 (x.w a)) (f32 (x.w b)) && x.t.pred q)) ∧
  ∀ h ty d a, GroupWrites (.fcls h ty d a) (fun x => putW d (BitVec.ofNat 32 (fclsVal ty ((x.w a).toNat % 2 ^ Ty.bits ty)))) ∧
    ∀ v, ∃ i < 9, fclsVal ty v = 2 ^ i

/-- The long-latency floating-point instructions of R176 to R180: the result is in flight to D; and
the operands of R177's table with the results it gives them, infinities, zeros of both signs and the NaN.
A register result in flight enters its live thread's registers at REGISTER_RESULT_WRITE and its operation is gone; nothing
else changes (R129). -/
def Obligations.LongResultsAreInFlightThenWritten : Prop :=
  (
    (∀ h rm sat d a, LongWrites (.frcp h rm sat d a) fun x =>
      putW d (BitVec.ofNat 32 (Fmt.single.round rm sat (frcpVal (f32 (x.w a)))))) ∧
    (∀ h sat d a, LongWrites (.frsq h sat d a) fun x =>
      putW d (BitVec.ofNat 32 (Fmt.single.round .rn sat (frsqVal (f32 (x.w a)))))) ∧
    (∀ h rm sat d a, LongWrites (.fsqrt h rm sat d a) fun x =>
      putW d (BitVec.ofNat 32 (Fmt.single.round rm sat (fsqrtVal (f32 (x.w a)))))) ∧
    (∀ h sat d a, LongWrites (.fex2 h sat d a) fun x =>
      putW d (BitVec.ofNat 32 (Fmt.single.round .rn sat (fex2Val (f32 (x.w a)))))) ∧
    (∀ h sat d a, LongWrites (.flg2 h sat d a) fun x =>
      putW d (BitVec.ofNat 32 (Fmt.single.round .rn sat (flg2Val (f32 (x.w a)))))) ∧
    (∀ h cos sat d a, LongWrites (.ftrig h cos sat d a) fun x =>
      putW d (BitVec.ofNat 32 (Fmt.single.round .rn sat (if cos then ftrigCos (f32 (x.w a)) else ftrigSin (f32 (x.w a)))))) ∧
    (∀ h rm sat d a b, LongWrites (.fscal h rm sat d a b) fun x =>
      putW d (BitVec.ofNat 32 (Fmt.single.round rm sat ((f32 (x.w a)).scale (x.w b).toInt)))) ∧
    (∀ h ty rm sat d a b, LongWrites (.hadd2 h ty rm sat d a b) fun x =>
      putW d (packed ty rm sat fun e => FNum.add rm (halfOf ty (x.w a) e) (halfOf ty (x.w b) e))) ∧
    (∀ h ty rm sat d a b, LongWrites (.hmul2 h ty rm sat d a b) fun x =>
      putW d (packed ty rm sat fun e => FNum.times rm (halfOf ty (x.w a) e) (halfOf ty (x.w b) e))) ∧
    (∀ h ty rm sat d a b c, LongWrites (.hfma2 h ty rm sat d a b c) fun x =>
      putW d (packed ty rm sat fun e =>
        FNum.fused rm (halfOf ty (x.w a) e) (halfOf ty (x.w b) e) (halfOf ty (x.w c) e))) ∧
    (∀ h dt st rm sat d a, LongWrites (.cvt h dt st rm sat d a) fun x => putTy dt d (cvtVal dt st rm sat (x.ty st a))) ∧
    (∀ h ty rm sat d a b c, LongWrites (.dot4 h ty rm sat d a b c) fun x =>
        putW d (match ty with
          | .dm8 =>
            let m := sumExact ((List.range 4).map fun i =>
              FNum.mul (dm8Decode ((x.w a).toNat / 2 ^ (8 * i) % 256)) (dm8Decode ((x.w b).toNat / 2 ^ (8 * i) % 256)))
            BitVec.ofNat 32 (Fmt.single.round rm sat (if m.isZero then f32 (x.w c) else FNum.add rm (f32 (x.w c)) m))
          | .n8 => BitVec.ofNat 32 (Ty.round .n32 ((x.w c).toNat + ((List.range 4).map fun i =>
              (((x.w a).toNat / 2 ^ (8 * i) % 256 * ((x.w b).toNat / 2 ^ (8 * i) % 256) : Nat) : Int)).sum) sat)
          | _ => BitVec.ofNat 32 (Ty.round .i32 ((x.w c).toInt + ((List.range 4).map fun i =>
              ((x.w a).extractLsb' (8 * i) 8).toInt * ((x.w b).extractLsb' (8 * i) 8).toInt).sum) sat))) ∧
    ∀ (sat : Bool) (rm : Rm) (d : Nat), 0 < d →
      (∀ f ∈ [frcpVal, frsqVal, fsqrtVal, fex2Val, flg2Val, ftrigSin, ftrigCos],
        Fmt.single.round rm sat (f .nan) = if sat then 0 else 0x7FC00000) ∧
      frcpVal (.inf true) = .fin true 0 1 ∧ frcpVal (.inf false) = .fin false 0 1 ∧
      (∀ neg, frcpVal (.fin neg 0 d) = .inf neg ∧ frsqVal (.fin neg 0 d) = .inf neg ∧ fsqrtVal (.fin neg 0 d) = .fin neg 0 1 ∧
        fex2Val (.fin neg 0 d) = .fin false 1 1 ∧ flg2Val (.fin neg 0 d) = .inf true ∧ ftrigSin (.fin neg 0 d) = .fin neg 0 1 ∧
        ftrigCos (.fin neg 0 d) = .fin false 1 1) ∧
      (∀ n, 0 < n → frsqVal (.fin true n d) = .nan ∧ fsqrtVal (.fin true n d) = .nan ∧ flg2Val (.fin true n d) = .nan) ∧
      frsqVal (.inf true) = .nan ∧ fsqrtVal (.inf true) = .nan ∧ flg2Val (.inf true) = .nan ∧ fex2Val (.inf true) = .fin false 0 1 ∧
      frsqVal (.inf false) = .fin false 0 1 ∧ fsqrtVal (.inf false) = .inf false ∧ fex2Val (.inf false) = .inf false ∧
      flg2Val (.inf false) = .inf false ∧
      (∀ neg, ftrigSin (.inf neg) = .nan ∧ ftrigCos (.inf neg) = .nan) ∧
      (∀ n, flg2Val (.fin false d d) = .fin false 0 1 ∧
        (0 < n → ftrigSin (.fin false (n * d) d) = .fin false 0 1 ∧ ftrigSin (.fin true (n * d) d) = .fin true 0 1)) ∧
      ∀ neg n, ftrigCos (.fin neg ((2 * n + 1) * d) (2 * d)) = .fin false 0 1) ∧
  (
    ∀ s r id k t o ws, s.task? r.core r.slot = some k → s.thread? r = some t → t.ended = false →
      t.ops.find? (fun o => o.id == id) = some o → o.kind = .result ws →
      exec (.registerResultWrite r id) s =
        .next ((s.setThread r { t.puts ws with ops := t.ops.filter fun o => o.id != id }).marksOf r ws))

/-- Rounding into the three binary formats. Every code that is no NaN rounds to itself, in every mode. A magnitude n / d of
either sign between the values of two neighbouring codes m and m + 1 rounds to one of them: toward zero to m, upward and
downward by the sign, to nearest to the closer one, and on a tie to the even one (R75). One at the largest finite value or
above it rounds to that value or overflows to infinity as R77's table gives for the mode, to nearest from half a step above it
on. -/
def Obligations.RoundingInEveryMode : Prop :=
  ∀ (f : Fmt), f = Fmt.half ∨ f = Fmt.brain ∨ f = Fmt.single →
    (∀ rm v, v < 2 ^ f.width → f.decode v ≠ .nan → f.round rm false (f.decode v) = v) ∧
    ∀ (val : Nat → Nat), (∀ m, m < f.infCode → f.decode m = .fin false (val m) f.den) →
      ∀ (neg : Bool) (n d : Nat), 0 < d →
        (∀ m, m + 1 < f.infCode → val m * d ≤ n * f.den → n * f.den < val (m + 1) * d →
          let exact := val m * d = n * f.den
          f.round .rz false (.fin neg n d) = f.signed neg m ∧
          f.round .ru false (.fin neg n d) = f.signed neg (if exact ∨ neg = true then m else m + 1) ∧
          f.round .rd false (.fin neg n d) = f.signed neg (if exact ∨ neg = false then m else m + 1) ∧
          (2 * n * f.den < (val m + val (m + 1)) * d → f.round .rn false (.fin neg n d) = f.signed neg m) ∧
          ((val m + val (m + 1)) * d < 2 * n * f.den → f.round .rn false (.fin neg n d) = f.signed neg (m + 1)) ∧
          (2 * n * f.den = (val m + val (m + 1)) * d →
            f.round .rn false (.fin neg n d) = f.signed neg (if m % 2 = 0 then m else m + 1))) ∧
        ∀ big, big + 1 = f.infCode → val big * d ≤ n * f.den →
          let exact := val big * d = n * f.den
          f.round .rz false (.fin neg n d) = f.signed neg big ∧
          f.round .ru false (.fin neg n d) = f.signed neg (if exact ∨ neg = true then big else f.infCode) ∧
          f.round .rd false (.fin neg n d) = f.signed neg (if exact ∨ neg = false then big else f.infCode) ∧
          f.round .rn false (.fin neg n d) =
            f.signed neg (if 2 * n * f.den < (2 * val big + (val big - val (big - 1))) * d then big else f.infCode)

/- ## Cross-lane instructions -/

/-- The threads of the issuing group that a cross-lane word reads: those that are active for it and take no trap at it
(R184). -/
def Obligations.CrossLane : Prop :=
  (∀ h w64 mode d a b, GroupWrites (.shfl h w64 mode d a b) fun x =>
    let l : Int := (x.r.thr % 64 : Nat)
    let n : Nat := (x.w b).toNat
    let src : Int := match mode with
      | .idx => (n % 64 : Nat)
      | .up => l - n
      | .down => l + n
      | .xor => ((x.r.thr % 64) ^^^ (n % 64) : Nat)
    let v : DWord := match x.present.find? (fun e => ((e.1 % 64 : Nat) : Int) == src) with
      | some (j, t) =>
        if t.active h && t.wins.any (fun w => meets (wRegs w64 a) w.wr) then x.d a
        else Ctx.d { x with r := { x.r with thr := j }, t := t } a
      | none => x.d a
    if w64 then putD d v else putW d (v.setWidth 32)) ∧
  (∀ h p q, GroupWrites (.vote h (.all p q)) fun x =>
    putP p ((x.voters (.vote h (.all p q)) h).all fun u => u.t.pred q)) ∧
  (∀ h p q, GroupWrites (.vote h (.any p q)) fun x =>
    putP p ((x.voters (.vote h (.any p q)) h).any fun u => u.t.pred q)) ∧
  (∀ h d q, GroupWrites (.vote h (.ballot d q)) fun x =>
    putD d (BitVec.ofNat 64 (((x.voters (.vote h (.ballot d q)) h).filter fun u => u.t.pred q).map
      fun u => 2 ^ (u.r.thr % 64)).sum)) ∧
  (∀ h p a, GroupWrites (.vote h (.uni p a)) fun x =>
    let vs := x.voters (.vote h (.uni p a)) h
    putP p (decide (∀ u ∈ vs, ∀ v ∈ vs, u.w a = v.w a))) ∧
  (∀ h d a, GroupWrites (.crdx h .addI32 d a) fun x =>
    putW d ((x.voters (.crdx h .addI32 d a) h).map fun u => u.w a).sum) ∧
  (∀ h d a, GroupWrites (.crdx h .addF32 d a) fun x =>
    putW d (roundF32 (crdxSum ((x.voters (.crdx h .addF32 d a) h).map fun u => f32 (u.w a))))) ∧
  ∀ h op d a, ∃ f : List Word → Word,
    GroupWrites (.crdx h op d a) (fun x => putW d (f ((x.voters (.crdx h op d a) h).map fun u => u.w a))) ∧
    ∀ v : Word, ∀ vs : List Word,
      (op = .minI32 → (∀ w ∈ v :: vs, (f (v :: vs)).toInt ≤ w.toInt) ∧ f (v :: vs) ∈ v :: vs) ∧
      (op = .maxI32 → (∀ w ∈ v :: vs, w.toInt ≤ (f (v :: vs)).toInt) ∧ f (v :: vs) ∈ v :: vs) ∧
      (op = .minN32 → (∀ w ∈ v :: vs, (f (v :: vs)).toNat ≤ w.toNat) ∧ f (v :: vs) ∈ v :: vs) ∧
      (op = .maxN32 → (∀ w ∈ v :: vs, w.toNat ≤ (f (v :: vs)).toNat) ∧ f (v :: vs) ∈ v :: vs) ∧
      (op = .andB32 → ∀ i < 32, (f (v :: vs)).getLsbD i = (v :: vs).all fun w => w.getLsbD i) ∧
      (op = .orB32 → ∀ i < 32, (f (v :: vs)).getLsbD i = (v :: vs).any fun w => w.getLsbD i) ∧
      (op = .xorB32 → ∀ i < 32, (f (v :: vs)).getLsbD i = (v :: vs).foldl (fun b w => b != w.getLsbD i) false) ∧
      (op = .minF32 → f (v :: vs) = roundF32 ((vs.map f32).foldl FNum.minNum (f32 v))) ∧
      (op = .maxF32 → f (v :: vs) = roundF32 ((vs.map f32).foldl FNum.maxNum (f32 v)))

/- ## Control -/

/-- NOP has no effect, and YIELD's only effect is to rank its thread below those that are ready on its core now
(R147, R153).
WAITT: a deadline already reached ends the wait at once with TIME in D; a later one is waited for, and then D
receives TIME and the thread goes on (R154). -/
def Obligations.NopYieldAndWaitt : Prop :=
  (
    (∀ h, GoesOn (.nop h) always fun _ st u => u = st) ∧
    ∀ h, GoesOn (.yieldCore h) always fun x st u =>
      ∃ id q, x.s.curRun = some (id, q) ∧ u = st.updThread x.r fun t => { t with demoted := x.s.coreReady st x.r.core q h }) ∧
  (
    (∀ h d a, GoesOn (.waittAbs h d a) (fun x st => (x.d a).toNat ≤ st.clk.time)
      (Writes fun _ st => putD d (BitVec.ofNat 64 st.clk.time))) ∧
    (∀ h d a, Places (.waittAbs h d a) (fun x st => st.clk.time < (x.d a).toNat)
      (WaitsFor fun x _ => .time (x.d a).toNat d)) ∧
    (∀ h d a, GoesOn (.waittRel h d a) (fun x st => ((BitVec.ofNat 64 x.s.clk.time) + x.d a).toNat ≤ st.clk.time)
      (Writes fun _ st => putD d (BitVec.ofNat 64 st.clk.time))) ∧
    (∀ h d a, Places (.waittRel h d a) (fun x st => st.clk.time < ((BitVec.ofNat 64 x.s.clk.time) + x.d a).toNat)
      (WaitsFor fun x _ => .time ((BitVec.ofNat 64 x.s.clk.time) + x.d a).toNat d)) ∧
    ∀ s r t k deadline d, s.thread? r = some t → s.task? r.core r.slot = some k → t.wait = .time deadline d →
      ∃ u t', exec (.waittDeadline r) s = .next u ∧ u.clk.time = max s.clk.time deadline ∧ u.thread? r = some t' ∧
        t'.wait = .none ∧ SameFile t' (t.puts (putD d (BitVec.ofNat 64 u.clk.time))) ∧ u.mem = s.mem)

/-- The transfers of R148 to R151 to a valid target: where each goes, and all it changes: CALL's record and CSP, RET's
pop of both; and the causes CALL and RET raise before they transfer, with the address each records: ALIGN first, then STACK,
then NOTHEADER, nothing pushed or popped. A transfer whose target is no valid header traps NOTHEADER at its word (R116,
R145; the trap's program counter is the model's choice, log entry 84); RET over poison consumes it, an UNCORR cause of its
thread; and RET to an absent page takes a ticket on the fetch and its thread stays at the word.
EXIT commits the task's version, ends its thread, and gives the task back once its last thread has ended (R152,
R19). -/
def Obligations.TransfersAndExit : Prop :=
  (
    let goes := fun (x : Ctx) (st : State) (target : Nat) (f : Thread → Thread) (s1 u : State) =>
      ∃ w, st.target? x.k target = some w ∧
        u = s1.updThread x.r fun t => (f t).enter (BitVec.ofNat 64 target) w st.clk.cycles true
    let pushes := fun (x : Ctx) =>
      x.t.csp.toNat % 8 = 0 ∧ privBase + 16 ≤ x.t.csp.toNat ∧ x.t.csp.toNat ≤ privBase + x.k.hd.privb ∧
        privBusy x.t (x.t.csp.toNat - 16 - privBase) 16 = false ∧ x.s.commitHeld x.k = false ∧
        (x.s.overflowsBy x.k 1 = false ∨ x.s.mayCommit x.k x.t = true)
    let pushed := fun (x : Ctx) (st : State) => st.verWrite x.r (privKey x.k.uid x.r.thr (x.t.csp.toNat - 16 - privBase))
      (leBytes 8 (x.t.pc + 8).toNat ++ leBytes 8 x.t.rpt.toNat)
    (∀ h off, Places (.bra h off) (fun x st => (st.target? x.k (x.t.pc + (off.signExtend 64 <<< 3)).toNat).isSome)
      fun x st u => goes x st (x.t.pc + (off.signExtend 64 <<< 3)).toNat id st u) ∧
    (∀ h a, Places (.brx h a) (fun x st => (st.target? x.k (x.d a).toNat).isSome)
      fun x st u => goes x st (x.d a).toNat id st u) ∧
    (∀ h a, Places (.brxRel h a) (fun x st => (st.target? x.k (x.t.pc + ((x.w a).signExtend 64 <<< 3)).toNat).isSome)
      fun x st u => goes x st (x.t.pc + ((x.w a).signExtend 64 <<< 3)).toNat id st u) ∧
    (∀ h off, Places (.call h off)
      (fun x st => pushes x ∧ (st.target? x.k (x.t.pc + (off.signExtend 64 <<< 3)).toNat).isSome)
      fun x st u => goes x st (x.t.pc + (off.signExtend 64 <<< 3)).toNat (fun t => { t with csp := x.t.csp - 16, rpt := 0 })
        (pushed x st) u) ∧
    (∀ h a, Places (.callIndirect h a) (fun x st => pushes x ∧ (st.target? x.k (x.d a).toNat).isSome)
      fun x st u => goes x st (x.d a).toNat (fun t => { t with csp := x.t.csp - 16, rpt := 0 }) (pushed x st) u) ∧
    (∀ h, Places (.ret h)
        (fun x st => x.t.csp.toNat % 8 = 0 ∧ privBase ≤ x.t.csp.toNat ∧ x.t.csp.toNat + 16 ≤ privBase + x.k.hd.privb ∧
          privBusy x.t (x.t.csp.toNat - privBase) 16 = false ∧ x.s.commitHeld x.k = false ∧
          st.readsPoison x.k (privKey x.k.uid x.r.thr (x.t.csp.toNat - privBase)) 16 = false ∧
          (st.target? x.k (leNat (x.k.bytes st (privKey x.k.uid x.r.thr (x.t.csp.toNat - privBase)) 8))).isSome)
        fun x st u => goes x st (leNat (x.k.bytes st (privKey x.k.uid x.r.thr (x.t.csp.toNat - privBase)) 8))
          (fun t => { t with
            csp := x.t.csp + 16
            rpt := BitVec.ofNat 64 (leNat (x.k.bytes st (privKey x.k.uid x.r.thr (x.t.csp.toNat - privBase) + 8) 8)) }) st u) ∧
    (let rec_ := fun (x : Ctx) => privKey x.k.uid x.r.thr (x.t.csp.toNat - privBase)
     let pops := fun (x : Ctx) =>
       x.t.csp.toNat % 8 = 0 ∧ privBase ≤ x.t.csp.toNat ∧ x.t.csp.toNat + 16 ≤ privBase + x.k.hd.privb ∧
         privBusy x.t (x.t.csp.toNat - privBase) 16 = false ∧ x.s.commitHeld x.k = false
     let back := fun (x : Ctx) (st : State) => leNat (x.k.bytes st (rec_ x) 8)
     let bad := fun (x : Ctx) (st : State) (va : Nat) => st.headerAt x.k va = .bad
     (∀ h off, Traps (.bra h off) (fun x st => bad x st (x.t.pc + (off.signExtend 64 <<< 3)).toNat) .notheader 0 fun _ => 0) ∧
     (∀ h a, Traps (.brx h a) (fun x st => bad x st (x.d a).toNat) .notheader 0 fun _ => 0) ∧
     (∀ h a, Traps (.brxRel h a) (fun x st => bad x st (x.t.pc + ((x.w a).signExtend 64 <<< 3)).toNat) .notheader 0 fun _ => 0) ∧
     (∀ h, Traps (.ret h) (fun x st => pops x ∧ st.readsPoison x.k (rec_ x) 16 = false ∧ bad x st (back x st)) .notheader 0
       fun _ => 0) ∧
     (∀ h, Places (.ret h) (fun x st => pops x ∧ st.readsPoison x.k (rec_ x) 16 = true)
       fun x st u => u = st.updThread x.r fun t => t.defer .uncorr 0 x.t.pc 0) ∧
     ∀ h, Places (.ret h)
       (fun x st => pops x ∧ st.readsPoison x.k (rec_ x) 16 = false ∧ ∃ anon wk, st.headerAt x.k (back x st) = .absent anon wk)
       fun x st u => ∀ anon wk, st.headerAt x.k (back x st) = .absent anon wk →
         u = match st.openTicket x.r 0 none x.k.uid x.k.asid (back x st) (!anon && st.hosten x.k.asid) with
           | some (i, st1) => st1.updThread x.r fun t => { t with fetchTicket := some i }
           | none => st) ∧
    ∀ (x : Ctx) (st : State) (target : Ctx → Nat),
      (x.t.csp.toNat % 8 ≠ 0 → callBody target x st = .trap .align 0 0 (x.t.csp - 16) ∧ retBody x st = .trap .align 0 0 x.t.csp) ∧
      (x.t.csp.toNat % 8 = 0 →
        (x.t.csp.toNat < privBase + 16 ∨ privBase + x.k.hd.privb < x.t.csp.toNat →
          callBody target x st = .trap .stack 0 0 (x.t.csp - 16)) ∧
        (x.t.csp.toNat < privBase ∨ privBase + x.k.hd.privb < x.t.csp.toNat + 16 → retBody x st = .trap .stack 0 0 x.t.csp) ∧
        (privBase + 16 ≤ x.t.csp.toNat ∧ x.t.csp.toNat ≤ privBase + x.k.hd.privb → st.headerAt x.k (target x) = .bad →
          callBody target x st = .trap .notheader 0 0 0))) ∧
  (
    ∀ h, Places (.exitThreads h) (fun x _ => x.s.mayCommit x.k x.t = true) fun x st u =>
      let v := (st.commit x.r).updThread x.r Thread.finish
      (∀ t, v.thread? x.r = some t → t.ended = true ∧ t.wait = .none ∧ ∀ o ∈ t.ops, ∀ ws, o.kind ≠ .result ws) ∧
      (v.allEnded x.r.core x.r.slot = false → u = v) ∧
      (v.allEnded x.r.core x.r.slot = true →
        u = (v.updTask x.r.core x.r.slot fun k => { k with ending := some (k.ending.getD 0) }).retire x.r.core x.r.slot))

/- ## Traps (R155, R404, R405, R419) -/

/-- TAKING AN EXCEPTION: a thread whose task has a handler, and that is not in it, enters it at TRAP and at BKPT in debug
state off: TPC, TCAUSE, TVAL and TADDR are set, MOD cleared, INH set, and the thread stands after the header at HDLR; its
registers, predicates, stack pointer and recorded point stand.
A software trap that a thread takes with no handler, or in its handler, ends its task: the task is gone, or holds no
version and waits as ended for what it still has in flight; and the newest deputy-log record is that of its fault report
(R404, R407, R408). -/
def Obligations.TakingATrap : Prop :=
  (
    ∀ (i : Instr) s id q h x w, s.solo? i = some (id, q, h, x) → Assoc.wf s.threads = true → q.members = [x.r.thr] →
      x.k.hd.handler = true → x.t.inh = false → x.t.halted = false → x.t.haltReq = false → x.k.frozen = none → x.k.ending = none →
      x.t.ops.any Op.inFlight = false → s.headerAt x.k x.k.hd.hdlr = .ok w → fld w 12 3 = 2 →
      ∀ cause detail tval,
        ((∃ a code, i = .trap h a code ∧ cause = 0xC ∧ detail = code ∧ tval = x.w a) ∨
         (∃ n, i = .bkpt h n ∧ s.dbgRun x.k.asid = .off ∧ cause = 0xD ∧ detail = n ∧ tval = 0)) →
        ∃ u t, exec i s = .next u ∧ u.thread? x.r = some t ∧
          t.tpc = x.t.pc ∧ t.tcause = BitVec.ofNat 32 (cause * 2 ^ 24 + detail % 2 ^ 24) ∧ t.tval = tval ∧ t.taddr = 0 ∧
          t.modf = false ∧ t.inh = true ∧ t.pc = BitVec.ofNat 64 x.k.hd.hdlr + 8 ∧ t.trap = none ∧
          t.regs = x.t.regs ∧ t.preds = x.t.preds ∧ t.csp = x.t.csp ∧ t.rpt = x.t.rpt ∧
          u.mem = s.mem ∧ u.regs = s.regs ∧ u.cores = s.cores) ∧
  (
    ∀ s id q h x a code, s.solo? (.trap h a code) = some (id, q, h, x) → q.members = [x.r.thr] →
      x.k.hd.handler = false ∨ x.t.inh = true → x.t.halted = false → x.t.haltReq = false → x.k.frozen = none → x.k.ending = none →
      (x.t.ops.any fun o => o.openWrite && o.ticket.isNone) = false →
      ∃ u, exec (.trap h a code) s = .next u ∧
        (∀ k, u.task? x.r.core x.r.slot = some k → k.version = [] ∧ k.ending.isSome ∧
          ∀ j t, u.thread? ⟨x.r.core, x.r.slot, j⟩ = some t → j < 4096 → t.ended = true) ∧
        ∃ rec, Assoc.find? u.dlog ((u.dseq - 1) % 16384) = some rec ∧ rec.kind = 7 ∧ rec.unit_ = coreUnit x.r.core ∧
          rec.asid = x.k.asid ∧ rec.arg0 = x.k.lnum ∧
          rec.arg1 = 0xC * 2 ^ 56 + (if x.t.inh then 2 else 1) * 2 ^ 48 + x.k.tidx % 2 ^ 48)

/-- BKPT in debug state trace writes one trace event, and in state halt asks for the halt of its thread, which stands halted
at the end of the run where no result of it is in flight; either way the thread stands at the next word (R156, R412).
TRET: without MOD the thread leaves its handler at TPC, or past it after a software trap or breakpoint, in the block
it trapped in; with MOD it enters the header TPC names; outside a handler it traps ILLEGAL (R419). -/
def Obligations.BkptAndTret : Prop :=
  (
    ∀ h n,
      GoesOn (.bkpt h n) (fun x st => st.dbgRun x.k.asid = .trace) (fun x st u =>
        u = st.traceEvent { time := st.clk.time, lnum := x.k.lnum, thr := x.r.thr, core := x.r.core, pc := x.t.pc.toNat,
                            tidx := x.k.tidx, sel := n }) ∧
      GoesOn (.bkpt h n) (fun x st => st.dbgRun x.k.asid = .halt) (fun x st u =>
        u = st.updThread x.r fun t => { t with haltReq := true }) ∧
      ∀ s id q x, s.solo? (.bkpt h n) = some (id, q, h, x) → Assoc.wf s.threads = true → q.members = [x.r.thr] →
        s.dbgRun x.k.asid = .halt → x.t.halted = false → x.t.ops.any Op.inFlight = false →
        (∀ e ∈ s.runs, e.1 = id ∨ e.2.core ≠ x.r.core ∨ e.2.slot ≠ x.r.slot ∨ x.r.thr ∉ e.2.members) →
        ∃ u t, exec (.bkpt h n) s = .next u ∧ u.thread? x.r = some t ∧ t.halted = true ∧ SameFile t x.t) ∧
  (
    (∀ h, Places (.tret h)
      (fun x _ => x.t.inh = true ∧ x.t.modf = false ∧
        ∃ b, x.t.tblk = some b ∧
          (if fld x.t.tcause.toNat 24 8 = 0xC ∨ fld x.t.tcause.toNat 24 8 = 0xD then x.t.tpc + 8 else x.t.tpc) ≠ b.endPc)
      (fun x st u =>
        u = st.updThread x.r fun t =>
          { t with
            pc := if fld x.t.tcause.toNat 24 8 = 0xC ∨ fld x.t.tcause.toNat 24 8 = 0xD then x.t.tpc + 8 else x.t.tpc
            blk := x.t.tblk, inh := false, wins := [], ops := closeWindows t.ops })) ∧
    (∀ h, Places (.tret h)
      (fun x st => x.t.inh = true ∧ x.t.modf = true ∧ (st.target? x.k x.t.tpc.toNat).isSome)
      fun x st u => ∃ w, st.target? x.k x.t.tpc.toNat = some w ∧
        u = st.updThread x.r fun t => ({ t with inh := false } : Thread).enter x.t.tpc w st.clk.cycles true) ∧
    ∀ (x : Ctx) (st : State), x.t.inh = false → tretBody x st = .trap .illegal 0 0 0)

/- ## Barriers, fences and commits (R248 to R250, R271 to R274) -/

/-- FENCE, BAR and COMMIT put their thread into a wait and do nothing else at issue. The end of the wait: first the version
is committed, once the thread's earlier accesses have been performed and its count is zero; then D takes OK, once remote
writes and engine operations are done too. The drop flags clear in the far scopes, where D takes the peer record's count
and the worst of its outcomes (R249, R250, R274, R329).
The rendezvous of BAR: with every live thread of the task at a BAR and quiet, the task's version is committed, a
checkpoint is taken where a BAR without .nock asks for one and CKPU has room for the fixed state, and every thread goes
on to its fence's end. With one live thread that is not at a BAR, nothing happens (R272, R273). What each form waits for before
its commit, the status of BAR's fence, the release in two steps and whose acknowledgements are awaited are the model's readings (log
entries 31, 32, 37, 75 and 76). -/
def Obligations.BarriersFencesAndCommits : Prop :=
  (
    let eng := fun (x : Ctx) (st : State) (e : Bool) => if e then st.engineOps x.r.core x.k else []
    (∀ h d sc e, Places (.bar h d sc e) always (WaitsFor fun _ _ => .bar false sc e d)) ∧
    (∀ h d sc e, Places (.barNock h d sc e) always (WaitsFor fun _ _ => .bar true sc e d)) ∧
    (∀ h d sc e, Places (.fenceFull h d sc e) always (WaitsFor fun x st => .fence 0 sc (eng x st e) false d)) ∧
    (∀ h d sc e, Places (.fenceAcq h d sc e) always (WaitsFor fun x st => .fence 1 sc (eng x st e) false d)) ∧
    (∀ h d sc e, Places (.fenceRel h d sc e) always (WaitsFor fun x st => .fence 2 sc (eng x st e) false d)) ∧
    (∀ h d e, Places (.commit h d e) always (WaitsFor fun x st => .fence 3 .fab (eng x st e) false d)) ∧
    ∀ (s : State) r k t sc eng b d, s.task? r.core r.slot = some k → s.thread? r = some t →
      s.acksOut r.core r.slot = false →
      (∀ kind < 3, t.ops.any Op.openAcc = false → s.commitHeld k = false →
        (s.fenceStep r k t kind sc eng b d) =
          (if sc = .task then s else s.commit r).updThread r fun t1 => { t1 with wait := .fence (kind + 8) sc eng b d }) ∧
      (∀ kind < 3, t.ops.any Op.openAcc = true → s.fenceStep r k t kind sc eng b d = s) ∧
      (t.ops.any Op.openStore = false → t.onTicket = false → s.engDone r.core k eng = true → s.commitHeld k = false →
        s.fenceStep r k t 3 .fab eng b d = (s.commit r).updThread r fun t1 => { t1 with wait := .fence 11 .fab eng b d }) ∧
      (∀ kind, 8 ≤ kind → s.engDone r.core k eng = true → s.remoteOut k = false →
        ∃ t', (s.fenceStep r k t kind sc eng b d).thread? r = some t' ∧ t'.wait = .none ∧
          t'.regs = (t.puts (putW d (if Scope.far sc then
            status (if t.lostw then 1 else if t.drop then 2 else 0) (k.peerCount % 256 + (if b then 2 ^ 23 else 0))
            else status 0 (if b then 2 ^ 23 else 0)))).regs ∧
          (Scope.far sc = true → t'.drop = false ∧ t'.lostw = false) ∧ (Scope.far sc = false → t'.drop = t.drop))) ∧
  (
    ∀ (s : State) core slot k, s.task? core slot = some k → Assoc.wf s.threads = true →
      let ts := (s.threadsOf core slot).filter fun e => !e.2.ended
      ((∃ e ∈ ts, e.2.atBar = false) → s.barStep core slot = s) ∧
      (k.frozen = none → k.ending = none → k.parked = none → s.commitHeld k = false → ts ≠ [] →
        (∀ e ∈ ts, e.2.atBar = true ∧ e.2.halted = false ∧ e.2.held = none ∧ e.2.ops.any Op.openAcc = false ∧ e.2.acks = 0) →
        (∀ e ∈ ts, ∃ t, (s.barStep core slot).thread? ⟨core, slot, e.1⟩ = some t ∧ t.regs = e.2.regs ∧
          ∃ sc eng ck d, t.wait = .fence 8 sc eng ck d) ∧
        ∃ k1, (s.barStep core slot).task? core slot = some k1 ∧ k1.version = [] ∧
          ((∃ e ∈ ts, ∃ sc eng d, e.2.wait = .bar false sc eng d) → ckptFixed k.nthr ≤ k.hd.ckpu →
            ∃ c, k1.ckpt = some c ∧ c.dirty = [] ∧ c.rollbacks = 0 ∧ c.clean = true ∧ c.scratch = k1.scratch)))

/- ## Privilege (R120) -/

/-- A word of the firmware crew slot alone, met by any other thread, never has its effect: the thread takes PRIV, or the
word has not issued yet (R120). And the order of the causes of R126 that stand before a word's own: ILLEGAL, PRIV, MATRIXOFF,
REGBOUND, LOOKAHEAD. -/
def Obligations.PrivilegeAndCauseOrder : Prop :=
  (
    ∀ (i : Instr) s id q k h j t, privileged i = true → i.wf = true → s.issues? i = some (id, q, k, h) →
      q.slot ≠ fwSlot → s.live q = [(j, t)] → t.active h = true →
      ∃ u, exec i s = .next u ∧ (u = s ∨
        u = ((s.tickAll q).updThread ⟨q.core, q.slot, j⟩ fun t1 => t1.raise .priv 0 t.pc 0 0).afterWord id q i h true)) ∧
  (
    ∀ (k : Task) (slot thr : Nat) (t : Thread) (i : Instr),
      let priv := privileged i && slot != fwSlot
      let moff := isMatrix i && k.hd.nomatrix
      (i.wf = false → precheck k slot thr t i = some (.illegal, 0)) ∧
      (i.wf = true → priv = true → precheck k slot thr t i = some (.priv, 0)) ∧
      (i.wf = true → priv = false → moff = true → precheck k slot thr t i = some (.matrixoff, 0)) ∧
      (i.wf = true → priv = false → moff = false → regbound k thr i = true → precheck k slot thr t i = some (.regbound, 0)) ∧
      (i.wf = true → priv = false → moff = false → regbound k thr i = false → (t.wins.any (conflicts i)) = true →
        precheck k slot thr t i = some (.lookahead, 0)) ∧
      (i.wf = true → priv = false → moff = false → regbound k thr i = false → (t.wins.any (conflicts i)) = false →
        precheck k slot thr t i = none))

/-- A group none of whose members is active for a word passes it without an effect, whatever the word: every member keeps
its file, and memory, the system registers, the cores and the task's own state stand (R104, R124). -/
def Obligations.NoActiveMemberNoEffect : Prop :=
  ∀ (i : Instr) s id q k h, s.issues? i = some (id, q, k, h) → s.acting q h = [] →
    ∃ u, exec i s = .next (u.afterWord id q i h false) ∧ SameAround q s u ∧
      ∀ j t, (j, t) ∈ s.live q → ∃ t', u.thread? ⟨q.core, q.slot, j⟩ = some t' ∧ SameFile t' t

/- ## Memory instructions -/

/-- What the access words of R236 to R254 do at issue when their checks pass: one operation in flight, an atomic on global
memory after a commit and of scope chip at least, a wake write with no window of its own, a hint that is dropped none at all; and
the strong forms, which trap, give LAG or ask for a slot.
The checks of an access of n bytes in their order, with what each failure traps (R187, R190, R231, R232): ALIGN before
any window, then the space, the scratchpad window, the private window, and the claims. That an absent page of a strong form gives
STRONGSEG, and what a strong form over poison does, are the model's readings (log entries 30 and 50). -/
def Obligations.AccessesAreCheckedAndIssue : Prop :=
  (
    (∀ h sz ord sc hint d a off, ord ≠ .strong → GoesOn (.ld h sz ord sc hint d a off)
      (fun x _ => ∃ p, x.check (x.ea a off) (2 ^ sz) false = .ok p)
      fun x st u => ∃ p, x.check (x.ea a off) (2 ^ sz) false = .ok p ∧
        InFlight (.ld h sz ord sc hint d a off) false false (fun x _ => .load
          { va := x.ea a off, n := 2 ^ sz, place := p, write := false, read := true, ord := ord, scope := sc, hint := hint } d) x st u) ∧
    (∀ h sz sc hint d a off,
      let acc := fun (x : Ctx) => ({ va := x.ea a off, n := 2 ^ sz, place := .glob, write := false, read := true, ord := .strong,
                                     scope := sc, hint := hint } : Acc)
      StrongAccess (.ld h sz .strong sc hint d a off) (fun x => x.check (x.ea a off) (2 ^ sz) false) acc
        (fun x => .strong (acc x) [] none (decide (sz = 3)) 0 0 (some d)) (some d)) ∧
    (∀ h sz ord sc hint d a off, ord ≠ .strong → GoesOn (.st h sz ord sc hint d a off)
      (fun x _ => ∃ p, x.check (x.ea a off) (2 ^ sz) true = .ok p ∧ (sz = 5 → isWakePort x p (x.ea a off) = false) ∧
        (Ord.releases ord → Scope.wide sc → p = .glob → x.t.onTicket = false))
      fun x st u => ∃ p, x.check (x.ea a off) (2 ^ sz) true = .ok p ∧
        InFlight (.st h sz ord sc hint d a off) false (!(Ord.releases ord && Scope.wide sc && decide (p = .glob)))
          (fun x _ => .store
            { va := x.ea a off, n := 2 ^ sz, place := p, write := true, read := false, ord := ord, scope := sc, hint := hint }
            (stData x d (2 ^ sz))) x st u) ∧
    (∀ h ord sc hint d a off, ord ≠ .strong → GoesOn (.st h 5 ord sc hint d a off)
      (fun x _ => x.check (x.ea a off) 32 true = .ok .glob ∧ isWakePort x .glob (x.ea a off) = true ∧ x.t.onTicket = false)
      fun x st u => u = st.fresh.2.addOp x.r
        { mkOp st.nextId (.st h 5 ord sc hint d a off) x.t.pc false (.store
            { va := x.ea a off, n := 32, place := .glob, write := true, read := false, ord := ord, scope := sc, hint := hint }
            (stData x d 32)) with win := 0 }) ∧
    (∀ h sz sc hint d a off,
      let acc := fun (x : Ctx) => ({ va := x.ea a off, n := 2 ^ sz, place := .glob, write := true, read := false, ord := .strong,
                                     scope := sc, hint := hint } : Acc)
      StrongAccess (.st h sz .strong sc hint d a off) (fun x => x.check (x.ea a off) (2 ^ sz) true) acc
        (fun x => .strong (acc x) (stData x d (2 ^ sz)) none (decide (sz = 3)) 0 0 none) none) ∧
    (∀ h op w64 ord sc d a b, ord ≠ .strong → GoesOn (.atom h op w64 ord sc d a b)
      (fun x _ => ∃ p, x.check (x.d a).toNat (if w64 then 8 else 4) true = .ok p ∧ (p = .glob → x.s.mayCommit x.k x.t = true))
      fun x st u => ∃ p, x.check (x.d a).toNat (if w64 then 8 else 4) true = .ok p ∧
        InFlight (.atom h op w64 ord sc d a b) false false (fun x _ => .atomic
          { va := (x.d a).toNat, n := if w64 then 8 else 4, place := p, write := true, read := true, ord := ord,
            scope := if p = .glob ∧ sc = .task then .chip else sc, hint := 0 }
          op w64 (aopArg x w64 b) (if op = .cas then casSwap x w64 b else 0) (some d)) x (if p = .glob then st.commit x.r else st) u) ∧
    (∀ h op w64 ord sc a b, ord ≠ .strong → GoesOn (.red h op w64 ord sc a b)
      (fun x _ => ∃ p, x.check (x.d a).toNat (if w64 then 8 else 4) true = .ok p ∧ (p = .glob → x.s.mayCommit x.k x.t = true))
      fun x st u => ∃ p o, x.check (x.d a).toNat (if w64 then 8 else 4) true = .ok p ∧
        u = (if p = .glob then st.commit x.r else st).fresh.2.addOp x.r o ∧ o.kind = .atomic
          { va := (x.d a).toNat, n := if w64 then 8 else 4, place := p, write := true, read := true, ord := ord,
            scope := if p = .glob ∧ sc = .task then .chip else sc, hint := 0 }
          op w64 (aopArg x w64 b) (if op = .cas then casSwap x w64 b else 0) none) ∧
    (∀ h op w64 sc (dst : Option Opnd) a b,
      let acc := fun (x : Ctx) => ({ va := (x.d a).toNat, n := if w64 then 8 else 4, place := .glob, write := true, read := true,
                                     ord := .strong, scope := if sc = .task then .chip else sc, hint := 0 } : Acc)
      StrongAccess (match dst with | some d => .atom h op w64 .strong sc d a b | none => .red h op w64 .strong sc a b)
        (fun x => x.check (x.d a).toNat (if w64 then 8 else 4) true) acc
        (fun x => .strong (acc x) [] (some op) w64 (aopArg x w64 b) (if op = .cas then casSwap x w64 b else 0) dst) dst) ∧
    (∀ h sz hint a off, GoesOn (.pref h sz hint a off) (fun x st => st.prefDrops x.r x.k (x.ea a off) sz = false)
      (InFlight (.pref h sz hint a off) false true fun x _ => .pref
        { va := x.ea a off, n := 1, place := .glob, write := false, read := true, ord := .inv, scope := .task, hint := hint } sz)) ∧
    (∀ h sz hint a off, GoesOn (.pref h sz hint a off) (fun x st => st.prefDrops x.r x.k (x.ea a off) sz = true)
      fun x st u => u = st.updTask x.r.core x.r.slot fun k => { k with drophint := min (k.drophint + 1) (2 ^ 32 - 1) }) ∧
    (∀ h a off, GoesOn (.cctlInv h a off) always (InFlight (.cctlInv h a off) false false fun x _ => .cctl (x.ea a off) 0)) ∧
    (∀ h, GoesOn (.cctlInvall h) always (InFlight (.cctlInvall h) false false fun _ _ => .cctl 0 1)) ∧
    (∀ h a off, GoesOn (.cctlWb h a off) always (InFlight (.cctlWb h a off) false false fun x _ => .cctl (x.ea a off) 2)) ∧
    ∀ h a off, GoesOn (.cctlWbinv h a off) always (InFlight (.cctlWbinv h a off) false false fun x _ => .cctl (x.ea a off) 3)) ∧
  (
    ∀ (x : Ctx) (ea n : Nat) (w : Bool),
      (ea % n ≠ 0 → x.check ea n w = .bad .align) ∧
      (ea % n = 0 → 2 ^ 57 ≤ ea → x.check ea n w = .bad .claim) ∧
      (ea % n = 0 → 0x01FFF00000000000 ≤ ea → ea < 2 ^ 57 →
        (ea + n ≤ 0x01FFF00000000000 + 4096 * x.k.hd.scru → x.check ea n w = .ok (.scratch (ea - 0x01FFF00000000000))) ∧
        (0x01FFF00000000000 + 4096 * x.k.hd.scru < ea + n → x.check ea n w = .bad .claim)) ∧
      (ea % n = 0 → 0x01FFE00000000000 ≤ ea → ea < 0x01FFF00000000000 →
        (ea + n ≤ 0x01FFE00000000000 + x.k.hd.privb → x.check ea n w = .ok (.priv (ea - 0x01FFE00000000000))) ∧
        (0x01FFE00000000000 + x.k.hd.privb < ea + n → x.check ea n w = .bad .stack)) ∧
      (ea % n = 0 → ea < 0x01FFE00000000000 →
        x.check ea n w = if x.r.slot = fwSlot ∨ claimed x.k.hd ea n w = true then .ok .glob else .bad .claim))

/-- LOAD_RESPONSE: a load that may be performed gives its thread the bytes of its place: of the scratchpad, of the private
backing or of memory, the task's own version over them. Nothing in memory changes (R211, R238, R239, R241). -/
def Obligations.LoadsReadTheTasksBytes : Prop :=
  ∀ s r id k t o acc d, s.opOf r id = some (k, t, o) → t.ended = false → o.ticket = none → k.frozen = none →
    s.mayPerform r k t o = true → o.kind = .load acc d → s.entryAt r k acc = none →
    let gets := fun (bs : List Byte) => ∃ u t', exec (.loadResponse r id false) s = .next u ∧ u.thread? r = some t' ∧
      SameFile t' (t.puts (loadWrites d acc.n bs)) ∧ (∀ e ∈ t'.ops, e.id ≠ id) ∧ u.mem = s.mem ∧ SameTasks s u
    (∀ off, acc.place = .scratch off → k.spoisoned off acc.n = false → gets (Memory.readN k.scratch off acc.n)) ∧
    (∀ off, acc.place = .priv off → s.readsPoison k (privKey k.uid r.thr off) acc.n = false →
      gets (k.bytes s (privKey k.uid r.thr off) acc.n)) ∧
    (∀ key cls grain, acc.place = .glob → s.locate k.asid acc.va .r = .ok key cls grain → s.readsPoison k key acc.n = false →
      acc.ord ≠ .inv → s.peerOf key = none → s.sentOthers k.uid key acc.n = false → gets (k.bytes s key acc.n)) ∧
    (acc.place = .glob → s.locate k.asid acc.va .r = .zero → gets (List.replicate acc.n 0))

/-- ACCESS_PERFORMED of a store: its bytes, at the address of its place, read back in the task; every other byte the
task reads, all of memory, every register and every other thread stand. A scratchpad store changes the scratchpad alone,
any other the version alone (R211, R213, R238, R241). -/
def Obligations.StoresWriteTheirBytesAlone : Prop :=
  ∀ s r id k t o acc data, s.opOf r id = some (k, t, o) → o.ticket = none → k.frozen = none → s.mayPerform r k t o = true →
    o.kind = .store acc data → data.length = acc.n → s.entryAt r k acc = none →
    (∀ off, acc.place = .scratch off → ∃ u k', exec (.accessPerformed r id) s = .next u ∧
      u.task? r.core r.slot = some k' ∧ Memory.readN k'.scratch off acc.n = data ∧
      (∀ a, a < off ∨ off + acc.n ≤ a → Memory.read k'.scratch a = Memory.read k.scratch a) ∧ k'.version = k.version ∧
      u.mem = s.mem ∧ (∃ t', u.thread? r = some t' ∧ SameFile t' t) ∧
      ∀ r', thrKey r' ≠ thrKey r → u.thread? r' = s.thread? r') ∧
    (∀ key, ((∃ off, acc.place = .priv off ∧ key = privKey k.uid r.thr off) ∨
        (∃ cls grain, acc.place = .glob ∧ s.locate k.asid acc.va .w = .ok key cls grain ∧ s.peerOf key = none ∧
          (Ord.releases acc.ord = false ∨ acc.scope = .task))) →
      s.overflows k key data = false → s.homeOf key ≠ .peer (key / 2 ^ 51) →
      ∃ u k', exec (.accessPerformed r id) s = .next u ∧
        u.task? r.core r.slot = some k' ∧ k'.bytes u key acc.n = data ∧
        (∀ a, a < key ∨ key + acc.n ≤ a → k'.byte u a = k.byte s a) ∧ k'.scratch = k.scratch ∧
        u.mem = s.mem ∧ (∃ t', u.thread? r = some t' ∧ SameFile t' t) ∧
        ∀ r', thrKey r' ≠ thrKey r → u.thread? r' = s.thread? r')

/-- ATOM and RED on the scratchpad, on the private backing and on this chip's memory: the new value of R242 is stored in one
step, and ATOM's D takes the old one (R242 to R245). On memory, what has entered the task's version since the issue and must be
visible first is committed first: all of it for one that releases, and any write of its own bytes (R212, R227).
The thirteen operations of R242 on values: what each stores. -/
def Obligations.AtomicsReadAndWriteOnce : Prop :=
  (
    ∀ s r id k t o acc op w64 b c dst ev, s.opOf r id = some (k, t, o) → t.ended = false → o.ticket = none → k.frozen = none →
      s.mayPerform r k t o = true → o.kind = .atomic acc op w64 b c dst → acc.n = (if w64 then 8 else 4) → s.entryAt r k acc = none →
      (dst.isSome ∧ ev = .loadResponse r id false ∨ dst = none ∧ ev = .accessPerformed r id) →
      let res := fun (t0 : Thread) (old : Nat) (t' : Thread) => match dst with
        | some d => SameFile t' (t0.puts (putTy (wideTy w64) d old))
        | none => SameFile t' t0
      (∀ off, acc.place = .scratch off → k.spoisoned off acc.n = false →
        let old := leNat (Memory.readN k.scratch off acc.n)
        ∃ u k' t', exec ev s = .next u ∧ u.task? r.core r.slot = some k' ∧ u.thread? r = some t' ∧ res t old t' ∧
          Memory.readN k'.scratch off acc.n = leBytes acc.n (aopVal op w64 old b.toNat c.toNat) ∧
          (∀ a, a < off ∨ off + acc.n ≤ a → Memory.read k'.scratch a = Memory.read k.scratch a) ∧ u.mem = s.mem) ∧
      (∀ off, acc.place = .priv off →
        let key := privKey k.uid r.thr off
        let old := leNat (k.bytes s key acc.n)
        let new := leBytes acc.n (aopVal op w64 old b.toNat c.toNat)
        s.readsPoison k key acc.n = false → s.overflows k key new = false → s.homeOf key = .priv →
        ∃ u k' t', exec ev s = .next u ∧ u.task? r.core r.slot = some k' ∧ u.thread? r = some t' ∧ res t old t' ∧
          k'.bytes u key acc.n = new ∧ (∀ a, a < key ∨ key + acc.n ≤ a → k'.byte u a = k.byte s a) ∧ u.mem = s.mem) ∧
      (∀ key cls grain, acc.place = .glob → s.locate k.asid acc.va .w = .ok key cls grain →
        let ver := (Ord.releases acc.ord = true ∧ k.version ≠ []) ∨ ∃ i < acc.n, (Assoc.find? k.version (key + i)).isSome
        ∀ s1, (ver → (Ord.releases acc.ord = true → s.prepared r.core k none = true) ∧ t.acks = 0 ∧ s.commitHeld k = false ∧
            s1 = s.commit r) → (¬ver → s1 = s) →
          s1.homeOf key = .own → s1.poisoned key acc.n = false → s1.sentOthers k.uid key acc.n = false →
          let old := s1.peekN key acc.n
          ∃ u t1 t', exec ev s = .next u ∧ s1.thread? r = some t1 ∧ u.thread? r = some t' ∧ res t1 old t' ∧
            u.peek key acc.n = leBytes acc.n (aopVal op w64 old b.toNat c.toNat) ∧
            ∀ a, a < key ∨ key + acc.n ≤ a → Memory.read u.mem a = Memory.read s1.mem a)) ∧
  (
    ∀ (w64 : Bool) (old b c : Nat), old < 2 ^ (if w64 then 64 else 32) → b < 2 ^ (if w64 then 64 else 32) →
      let n := if w64 then 64 else 32
      aopVal .add w64 old b c = (old + b) % 2 ^ n ∧
      aopVal .minN w64 old b c = min old b ∧ aopVal .maxN w64 old b c = max old b ∧
      Ty.exact (if w64 then .i64 else .i32) (aopVal .minI w64 old b c) =
        min (Ty.exact (if w64 then .i64 else .i32) old) (Ty.exact (if w64 then .i64 else .i32) b) ∧
      Ty.exact (if w64 then .i64 else .i32) (aopVal .maxI w64 old b c) =
        max (Ty.exact (if w64 then .i64 else .i32) old) (Ty.exact (if w64 then .i64 else .i32) b) ∧
      aopVal .and w64 old b c = old &&& b ∧ aopVal .or w64 old b c = old ||| b ∧ aopVal .xor w64 old b c = old ^^^ b ∧
      aopVal .exch w64 old b c = b ∧ aopVal .cas w64 old b c = (if old = b then c else old) ∧
      aopVal .inc w64 old b c = (if b ≤ old then 0 else old + 1) ∧
      aopVal .dec w64 old b c = (if old = 0 ∨ b < old then b else old - 1) ∧
      aopVal .fadd false old b c =
        Fmt.single.round .rn false (FNum.add .rn (f32 (BitVec.ofNat 32 old)) (f32 (BitVec.ofNat 32 b))))

/-- The acknowledgements and ends of accesses that write no register of their own: INVALIDATION_ACK drops the copies and
lowers the count of each of its writers; REMOTE_WRITE_ACK of the oldest write to its peer takes it off the outstanding ones; DIRECTORY_RECALL_ALL leaves no L1 a copy
of the line; a cache-control operation drops the line's copies of its core, or keeps them under .wb (R196, R199, R204,
R253, R254). -/
def Obligations.AcknowledgementsAndCacheControl : Prop :=
  (∀ s id v, Assoc.find? s.invs id = some v → ∃ u, exec (.invalidationAck id) s = .next u ∧
    Assoc.find? u.invs id = none ∧ u.mem = s.mem ∧
    (∀ e ∈ (u.core v.core).l1, e.2.hitBy v.lo v.n = false) ∧
    ∀ r t, s.thread? r = some t →
      u.thread? r = some { t with acks := t.acks - (v.writers.filter fun w => thrKey w == thrKey r).length }) ∧
  (∀ s id w, Assoc.find? s.rws id = some w → s.oldestTo id w.peer = true →
    (∀ x ∈ s.agents.tickets, x.2.waiting = true → x.2.op ≠ id) →
    ∃ u, exec (.remoteWriteAck id) s = .next u ∧ Assoc.find? u.rws id = none ∧
    u.threads = s.threads ∧ u.tasks = s.tasks ∧
    (∀ a, Assoc.find? w.cells a = none → Memory.read u.mem a = Memory.read s.mem a)) ∧
  (∀ s asid line, ∃ u, exec (.directoryRecallAll asid line false) s = .next u ∧ u.mem = s.mem ∧ u.threads = s.threads ∧
    ∀ c ∈ u.cores, ∀ e ∈ c.2.l1, e.1 / 16 ≠ l1Key asid (512 * line) / 16) ∧
  ∀ s r id k t o va fn, s.opOf r id = some (k, t, o) → o.ticket = none → k.frozen = none → s.mayPerform r k t o = true →
    o.kind = .cctl va fn → ∃ u, exec (.accessPerformed r id) s = .next u ∧ u.mem = s.mem ∧
      (∃ t', u.thread? r = some t' ∧ SameFile t' t ∧ ∀ e ∈ t'.ops, e.id ≠ id) ∧
      (fn = 2 ∨ (fn ≠ 1 ∧ 2 ^ 57 ≤ va) → (u.core r.core).l1 = (s.core r.core).l1) ∧
      (fn = 1 → ∀ e ∈ (u.core r.core).l1, e.1 / 2 ^ 52 ≠ k.asid) ∧
      (fn = 0 ∨ fn = 3 → va < 2 ^ 57 → ∀ e ∈ (u.core r.core).l1, e.1 / 16 ≠ l1Key k.asid va / 16)

/- ## Copies, skip buffers and barrier objects -/

/-- A malformed COPY, COPYT or GATH, of every form, answers BADDESC with the least DETAIL of R498 that holds, at once,
and nothing is copied, reserved or taken (R258, R498).
A well-formed copy inside the claims, of every form, is in a copy slot when its word ends, with the moves its
descriptor gives; its D is pending; its barrier object's PEND has risen by the bytes it moves unless EXPD is set; its skip
buffer's RSV or CRS has risen by its entries (R255 to R260, R265, R269). -/
def Obligations.CopiesStartOrAnswerBaddesc : Prop :=
  (
    let bad := fun (i : Instr) (mk : Ctx → CpDesc) (d b : Opnd) (qs : QSide) =>
      GoesOn i (fun x st => ((mk x).bad x.k (barOf x b) qs).isSome ∧ (st.task? x.r.core x.r.slot).isSome) fun x st u =>
        ∃ e, e ∈ (mk x).faults x.k (barOf x b) qs ∧ (∀ e' ∈ (mk x).faults x.k (barOf x b) qs, e ≤ e') ∧
          u = st.updThread x.r fun t => t.puts (putW d (status 8 e))
    (∀ h d a b q, bad (.copy h d a b q) (fun x => copyDesc x a) d b q) ∧
    (∀ h d a b q, bad (.copyt h d a b q) (fun x => copytDesc x a) d b q) ∧
    ∀ h d a b q, bad (.gath h d a b q) (fun x => gathDesc x a) d b (match q with | some n => .to n | none => .none)) ∧
  (
    let starts := fun (i : Instr) (mk : Ctx → CpDesc) (d b : Opnd) (qs : QSide) =>
      GoesOn i
        (fun x st => (st.task? x.r.core x.r.slot).isSome ∧ ((mk x).bad x.k (barOf x b) qs) = none ∧
          ((∀ n, qs ≠ .from n) → (mk x).kind ≠ 2 → rangeClaimed x (mk x).srcRange false = true) ∧
          ((mk x).kind = 2 → rangeClaimed x (mk x).listRange false = true) ∧
          ((∀ n, qs ≠ .to n) → rangeClaimed x (mk x).dstRange true = true) ∧
          (∀ n, qs = .to n → firstWaiting (x.k.q n).resv = none ∧ (mk x).entries x.k qs ≤ (x.k.q n).room) ∧
          (∀ n, qs = .from n → firstWaiting (x.k.q n).take = none ∧ (mk x).entries x.k qs ≤ (x.k.q n).avail ∧
            (mk x).entries x.k qs ≤ (x.k.q n).cnt) ∧
          ((mk x).globDst qs = true → x.s.mayCommit x.k x.t = true))
        fun x st u => ∃ k ku t cslot op o, st.task? x.r.core x.r.slot = some k ∧ u.task? x.r.core x.r.slot = some ku ∧
          u.thread? x.r = some t ∧ Assoc.find? (u.core x.r.core).copies cslot = some op ∧ o ∈ t.ops ∧
          o.id = op.id ∧ o.pend = true ∧ o.kind = .engine [d] ∧ op.thr = x.r.thr ∧ op.slot = x.r.slot ∧ op.d = d ∧
          op.total = (mk x).total ∧
          op.moves = (mk x).moves k qs (match qs with
            | .none => 0
            | .to n => (k.q n).rsv.toNat
            | .from n => (k.q n).crs.toNat) ∧
          op.bar = (barOf x b).map (· - scratchBase) ∧
          (∀ off, op.bar = some off → (mk x).expd = false →
            (ku.barObj off).pend = (k.barObj off).pend + BitVec.ofNat 32 (mk x).total) ∧
          (∀ n, qs = .to n → (ku.q n).rsv = (k.q n).rsv + BitVec.ofNat 32 ((mk x).entries k qs)) ∧
          (∀ n, qs = .from n → (ku.q n).crs = (k.q n).crs + BitVec.ofNat 32 ((mk x).entries k qs)) ∧
          (∃ t0, st.thread? x.r = some t0 ∧ t.regs = t0.regs)
    (∀ h d a b q, starts (.copy h d a b q) (fun x => copyDesc x a) d b q) ∧
    (∀ h d a b q, starts (.copyt h d a b q) (fun x => copytDesc x a) d b q) ∧
    ∀ h d a b q, starts (.gath h d a b q) (fun x => gathDesc x a) d b (match q with | some n => .to n | none => .none))

/-- COPY_COMPLETION of a contiguous copy within the scratchpad, the words of whose destination move whole, some at a time: the
destinations of those that move hold their sources' bytes, and no other byte of the scratchpad and none of memory changes; while
some are left the copy goes on; with the last the slot is free, and D, no longer pending, holds OK (R208, R257, R261, R262).
In which order they move and how many at a time are free values (log entry 33). -/
def Obligations.CopyMovesItsBytes : Prop :=
  ∀ s core cs c k t o a b, Assoc.find? (s.core core).copies cs = some c → s.task? core c.slot = some k → k.uid = c.uid →
    k.ending = none → c.ticket = none → c.alook = none → c.aout = none → c.gather = none → c.bar = none → c.qsrc = none →
    c.qdst = none → c.again = false → c.done = none → c.tile = none → c.row = none → c.dirt = false →
    c.rows = [] → s.copySent core cs c.uid = [] →
    c.moves = [(scratchBase + a, scratchBase + b, c.total)] → (a + c.total ≤ b ∨ b + c.total ≤ a) →
    k.spoisoned a c.total = false → Assoc.wf s.threads = true →
    s.thread? ⟨core, c.slot, c.thr⟩ = some t → t.ended = false → c.thr < 4096 → t.ops.find? (fun x => x.id == c.id) = some o →
    o.kind = .engine [c.d] → s.alookBefore core c.uid c.thr c.id = false →
    (∀ e ∈ t.ops, e.id < c.id → e.openWrite = false ∧ e.openAcq = false) → (∀ e ∈ s.threadsOf core c.slot, e.1 ≠ c.thr → ∀ x ∈ e.2.ops, x.id ≠ c.id) →
    let moves := fun (n : Nat) => (c.left.take n).flatten
    (∀ x < c.total, ∃ p ∈ c.parts, ∃ y < p.2.2, p.2.2 ≤ 8 ∧ p.1 + y = scratchBase + a + x ∧ p.2.1 + y = scratchBase + b + x) ∧
    ∃ n u ku, exec (.copyCompletion core cs) s = .next u ∧ u.task? core c.slot = some ku ∧ n ≤ c.left.length ∧
      (c.left ≠ [] → 1 ≤ n) ∧ u.mem = s.mem ∧
      (∀ p ∈ moves n,
        Memory.readN ku.scratch (p.2.1 - scratchBase) p.2.2 = Memory.readN k.scratch (p.1 - scratchBase) p.2.2) ∧
      (∀ x, (∀ p ∈ moves n, scratchBase + x < p.2.1 ∨ p.2.1 + p.2.2 ≤ scratchBase + x) →
        Memory.read ku.scratch x = Memory.read k.scratch x) ∧
      (n < c.left.length → Assoc.find? (u.core core).copies cs = some { c with moved := c.moved + (moves n).length } ∧
        ∀ r, u.thread? r = s.thread? r) ∧
      (n = c.left.length → Assoc.find? (u.core core).copies cs = none ∧ ∃ tu, u.thread? ⟨core, c.slot, c.thr⟩ = some tu ∧
        SameFile tu (t.puts (putW c.d (status 0 0))) ∧ ∀ e ∈ tu.ops, e.id ≠ c.id)

/-- SKCFG and the forms of SKOP on a skip buffer of the task: SKCFG sets an idle buffer's geometry; .res and .take wait in
order, or are served at issue: RSV or CRS rises by n, and D takes OK with the count as it stood, modulo CNT; .pub and .pop
complete entries; .state reads both counts (R265 to R267). -/
def Obligations.SkipBufferWords : Prop :=
  let on := fun (x : Ctx) (st : State) (q : Nat) (P : Task → SkipBuf → Prop) =>
    ∃ k, st.task? x.r.core x.r.slot = some k ∧ P k (k.q q)
  (∀ h d a b q, GoesOn (.skcfg h d a b q)
    (fun x st => on x st q fun k b0 => b0.rsv = b0.con ∧ b0.crs = b0.con ∧ b0.resv = [] ∧ b0.take = [] ∧
      st.copyNames x.r.core k.uid q = false ∧ (x.w a).toNat % 32 = 0 ∧
      ∃ cnt esz, (x.w b).toNat = cnt + 4096 * esz ∧ 1 ≤ cnt ∧ cnt ≤ 2048 ∧ 1 ≤ esz ∧ esz ≤ 2048 ∧
        (x.w a).toNat + cnt * esz * 32 ≤ k.scratchLen)
    fun x _ u => ∃ ku t, u.task? x.r.core x.r.slot = some ku ∧ u.thread? x.r = some t ∧
      (ku.q q).base = (x.w a).toNat ∧ (ku.q q).cnt = (x.w b).toNat % 4096 ∧ (ku.q q).esz = (x.w b).toNat / 4096 ∧
      (ku.q q).rsv = 0 ∧ (ku.q q).pub = 0 ∧ (ku.q q).crs = 0 ∧ (ku.q q).con = 0 ∧
      ∀ n, d = .v n → (t.reg n).toNat / 2 ^ 24 = 128) ∧
  (∀ h d q, GoesOn (.skopState h d q) (fun x st => on x st q fun _ b0 => b0.cnt ≠ 0) fun x st u =>
    on x st q fun _ b0 => u = st.updThread x.r fun t =>
      t.puts (putW d (status 0 ((b0.pub - b0.crs).toNat % 4096 * 4096 + (b0.cnt - (b0.rsv - b0.con).toNat) % 4096)))) ∧
  (∀ h d b q (take : Bool), GoesOn (if take then .skopTake h d b q else .skopRes h d b q)
    (fun x st => on x st q fun _ b0 => b0.cnt ≠ 0 ∧ 1 ≤ (x.w b).toNat ∧ (x.w b).toNat ≤ b0.cnt)
    fun x st u => ∃ o q1, u = State.grantSkop (q1 : State) x.r.core x.r.slot q ∧
      q1 = ((st.fresh.2.addOp x.r o).updQ x.r.core x.r.slot q fun b0 =>
        if take then { b0 with take := b0.take ++ [newEntry st.nextId (x.w b).toNat true] }
        else { b0 with resv := b0.resv ++ [newEntry st.nextId (x.w b).toNat true] }) ∧
      o.id = st.nextId ∧ o.pend = true ∧ o.kind = .engine [d] ∧
      ∀ t0, st.thread? x.r = some t0 → Assoc.wf st.threads = true → x.r.thr < 4096 → (∀ o ∈ t0.ops, o.id ≠ st.nextId) →
        on x st q fun _ b0 =>
          let n := (x.w b).toNat
          let served := fun (p : Word) (P : SkipBuf → Prop) => ∃ ku t, u.task? x.r.core x.r.slot = some ku ∧ u.thread? x.r = some t ∧
            SameFile t (t0.puts (putW d (status 0 (p.toNat % b0.cnt)))) ∧ P (ku.q q)
          (take = false → firstWaiting b0.resv = none → n ≤ b0.room →
            served b0.rsv fun b1 => b1.rsv = b0.rsv + BitVec.ofNat 32 n ∧ b1.crs = b0.crs ∧ b1.pub = b0.pub ∧ b1.con = b0.con) ∧
          (take = true → (∀ e, firstWaiting b0.resv = some e → b0.room < e.n) → firstWaiting b0.take = none → n ≤ b0.avail →
            served b0.crs fun b1 => b1.crs = b0.crs + BitVec.ofNat 32 n ∧ b1.rsv = b0.rsv ∧ b1.pub = b0.pub ∧ b1.con = b0.con)) ∧
  (∀ h d b q (take : Bool), GoesOn (if take then .skopPop h d b q else .skopPub h d b q)
    (fun x st => scratchQuiet x.s x.k { core := 0, slot := 0, members := [], pc := 0, len := 0, conv := false } [(x.r.thr, x.t)] = true ∧
      on x st q fun _ b0 => b0.cnt ≠ 0 ∧ 1 ≤ (x.w b).toNat ∧ (x.w b).toNat ≤ b0.cnt ∧
        (x.w b).toNat ≤ openSkop (if take then b0.take else b0.resv))
    fun x st u => on x st q fun _ b0 => ∃ w, w.toNat / 2 ^ 24 = 128 ∧
      u = (st.updQ x.r.core x.r.slot q fun _ => SkipBuf.advance
        (if take then { b0 with take := fillSkop b0.take (x.w b).toNat } else { b0 with resv := fillSkop b0.resv (x.w b).toNat })).updThread
          x.r fun t => t.puts (putW d w)) ∧
  ∀ s core slot q k x, s.task? core slot = some k → firstWaiting (k.q q).resv = some x → x.skop = true → x.n ≤ (k.q q).room →
    ∃ u ku, exec (.skipBufferGrant core slot q) s = .next u ∧ u.task? core slot = some ku ∧
      (ku.q q).rsv = (k.q q).rsv + BitVec.ofNat 32 x.n ∧ (ku.q q).pub = (k.q q).pub ∧ u.mem = s.mem

/-- Barrier objects: BINIT sets one, BARV and BEXP arrive at it, the phase advancing where nothing is awaited any more, and
BWAIT answers a phase already reached and else waits; D takes the phase as it stood (R268 to R270). -/
def Obligations.BarrierObjects : Prop :=
  let quiet := fun (x : Ctx) => x.t.ops.all fun o => match o.acc? with
    | some a => (match a.place with | .scratch _ => false | _ => true)
    | none => true
  let at_ := fun (x : Ctx) (st : State) (a : Opnd) (reads : Option Nat) (P : Nat → BarObj → Prop) =>
    ∃ off k, (x.d a).toNat = scratchBase + off ∧ off % 16 = 0 ∧ off + 16 ≤ x.k.scratchLen ∧ Assoc.wf st.threads = true ∧
      st.task? x.r.core x.r.slot = some k ∧ (∀ lo ∈ reads, k.spoisoned (off + lo) (16 - lo) = false) ∧ P off (k.barObj off)
  let after := fun (x : Ctx) (u : State) (off : Nat) (o : BarObj) => ∃ ku, u.task? x.r.core x.r.slot = some ku ∧ ku.barObj off = o
  let d_ := fun (x : Ctx) (st u : State) (d : Opnd) (w : Word) =>
    ∀ t0, st.thread? x.r = some t0 → ∃ t, u.thread? x.r = some t ∧ SameFile t (t0.puts (putW d w))
  (∀ h a n, n < 2 ^ 32 → GoesOn (.binit h a n) (fun x st => quiet x = true ∧ at_ x st a none fun _ _ => True) fun x st u =>
    at_ x st a none fun off _ => after x u off { arr := BitVec.ofNat 32 n, exp := BitVec.ofNat 32 n, pend := 0, phase := 0 }) ∧
  (∀ h d a n, GoesOn (.barv h d a n) (fun x st => quiet x = true ∧ at_ x st a (some 0) fun _ o => n ≤ o.arr.toNat) fun x st u =>
    at_ x st a (some 0) fun off o => d_ x st u d o.phase ∧
      after x u off (if o.arr.toNat = n ∧ o.pend = 0 then { o with arr := o.exp, phase := o.phase + 1 }
        else { o with arr := o.arr - BitVec.ofNat 32 n })) ∧
  (∀ h d a n, GoesOn (.bexp h d a n)
    (fun x st => quiet x = true ∧ at_ x st a (some 0) fun _ o => o.arr ≠ 0 ∧ o.pend.toInt + 16 * n < 2 ^ 31) fun x st u =>
    at_ x st a (some 0) fun off o => d_ x st u d o.phase ∧
      after x u off (if o.arr = 1 ∧ o.pend + BitVec.ofNat 32 (16 * n) = 0 then { o with arr := o.exp, pend := 0, phase := o.phase + 1 }
        else { o with arr := o.arr - 1, pend := o.pend + BitVec.ofNat 32 (16 * n) })) ∧
  (∀ h d a p, GoesOn (.bwait h d a p) (fun x st => quiet x = true ∧ at_ x st a (some 12) fun _ o => o.phase.getLsbD 0 ≠ p) fun x st u =>
    at_ x st a (some 12) fun _ o => u = st.updThread x.r fun t => t.puts (putW d o.phase)) ∧
  ∀ h d a p, Places (.bwait h d a p) (fun x st => quiet x = true ∧ at_ x st a (some 12) fun _ o => o.phase.getLsbD 0 = p) fun x st u =>
    at_ x st a (some 12) fun off _ => WaitsFor (fun _ _ => .bwait off p d) x st u

/- ## Convergence registers and the matrix engine -/

/-- KSET sets the count of a register no thread has signed; a word that signs a register before its last signer joins it
and waits, or leaves its D pending (R280, R281, R284, R285). -/
def Obligations.SignaturesJoin : Prop :=
  let joins := fun (i : Instr) (kn : Nat) (d : Opnd) (bearing waits : Bool) (vals : Ctx → List Word) =>
    (if waits then Places i else GoesOn i)
      (fun x st => ∃ k, st.task? x.r.core x.r.slot = some k ∧ (k.kreg kn).count ≠ 0 ∧
        (k.kreg kn).sigs.length + 1 ≠ (k.kreg kn).count ∧ (∀ g ∈ (k.kreg kn).sigs, g.thr ≠ x.r.thr) ∧
        (bearing = true → (k.kreg kn).opw = 0 ∨ opwOf i = (k.kreg kn).opw) ∧
        (isAllot i = true → (k.kreg kn).opw = 0 ∨ x.r.thr / 64 = (k.kreg kn).opt / 64))
      fun x st u => ∃ k ku g, st.task? x.r.core x.r.slot = some k ∧ u.task? x.r.core x.r.slot = some ku ∧
        (ku.kreg kn).sigs = (k.kreg kn).sigs ++ [g] ∧ g.thr = x.r.thr ∧ g.d = d ∧ g.bearing = bearing ∧
        (ku.kreg kn).phase = (k.kreg kn).phase ∧ (ku.kreg kn).count = (k.kreg kn).count ∧
        (bearing = true → (k.kreg kn).opw = 0 → (ku.kreg kn).opi = some i ∧ (ku.kreg kn).vals = vals x) ∧
        ∃ t0 t, st.thread? x.r = some t0 ∧ u.thread? x.r = some t ∧ SameFile t t0 ∧
          (waits = true → t.wait = .sig kn d) ∧
          (waits = false → ∃ o ∈ t.ops, o.id = g.op ∧ o.pend = true ∧ o.kind = .engine [d])
  (∀ h kn n, GoesOn (.kset h kn (.imm n))
    (fun x st => ∃ k, st.task? x.r.core x.r.slot = some k ∧ n ≤ k.nthr ∧ ((k.kreg kn).sigs = [] ∨ n = (k.kreg kn).count))
    fun x st u => ∃ k, st.task? x.r.core x.r.slot = some k ∧
      u = st.setTask x.r.core x.r.slot (k.setKreg kn { k.kreg kn with count := n })) ∧
  (∀ h kn a, GoesOn (.kset h kn (.reg a))
    (fun x st => ∃ k, st.task? x.r.core x.r.slot = some k ∧ (x.w a).toNat ≤ k.nthr ∧
      ((k.kreg kn).sigs = [] ∨ (x.w a).toNat = (k.kreg kn).count))
    fun x st u => ∃ k, st.task? x.r.core x.r.slot = some k ∧
      u = st.setTask x.r.core x.r.slot (k.setKreg kn { k.kreg kn with count := (x.w a).toNat })) ∧
  (∀ h d kn, joins (.ksign h d kn) kn d false true fun _ => []) ∧
  (∀ h f mb d a kn q, joins (.mload h f mb d a kn q) kn d true false fun x => (List.range 4).map fun j => x.gi a j) ∧
  (∀ h tr im f mb d tile b kn q, joins (.mma h tr im f mb d tile b kn q) kn d true false fun x => [x.w b]) ∧
  (∀ h f rm sat za d tile kn q, joins (.mdrain h f rm sat za d tile kn q) kn d true false fun _ => []) ∧
  (∀ h d b kn, joins (.grow h d b kn) kn d true true fun x => [x.w b]) ∧
  ∀ h d b kn, joins (.shrink h d b kn) kn d true true fun x => [x.w b]

/-- A phase completes when its last thread signs: the register turns to the next phase with no signer, its count kept, and
the operation the phase binds goes to its engine: a well-formed MLOAD or MMA to its macro's queue, an MDRAIN beside the queues,
a GROW or SHRINK that changes something to the core's grants (R278, R282, R289, R291, R295, R304). -/
def Obligations.PhasesComplete : Prop :=
  ∀ (s : State) core slot kn kr k, s.task? core slot = some k →
    let u := s.completePhase core slot kn kr
    (∃ ku, u.task? core slot = some ku ∧ (ku.kreg kn).phase = (kr.phase + 1) % 2 ^ 32 ∧
      (ku.kreg kn).count = kr.count ∧ (ku.kreg kn).sigs = [] ∧ (ku.kreg kn).opi = none) ∧
    ((∀ g ∈ kr.sigs, g.bearing = true) → ∀ i, kr.opi = some i →
      (∀ h f mb d a q n, i = .mload h f mb d a kn q → mloadBad k slot f kr.vals = none → engEntries k i = .ok n →
        ∃ o, ((u.core core).mac mb).queue = ((s.core core).mac mb).queue ++ [o] ∧
          o.instr = i ∧ o.vals = kr.vals ∧ o.sigs = kr.sigs ∧ o.n = n) ∧
      (∀ h tr im f mb d tile b q n, i = .mma h tr im f mb d tile b kn q → k.loaded mb = true → engEntries k i = .ok n →
        ∃ o, ((u.core core).mac mb).queue = ((s.core core).mac mb).queue ++ [o] ∧
          o.instr = i ∧ o.vals = kr.vals ∧ o.sigs = kr.sigs ∧ o.n = n) ∧
      (∀ h f rm sat za d tile q n, i = .mdrain h f rm sat za d tile kn q → engEntries k i = .ok n →
        ∃ o ku, u.task? core slot = some ku ∧ ku.drains = k.drains ++ [o] ∧ o.instr = i ∧ o.sigs = kr.sigs ∧ o.n = n) ∧
      ∀ h d b, (i = .grow h d b kn ∨ i = .shrink h d b kn) →
        let v := (kr.vals.getD 0 0).toNat
        let a := Assoc.getD k.allot 0 (kr.opt / 64)
        v % 32 = 0 → 32 ≤ v → v ≤ 640 →
        (i = .grow h d b kn → a < v ∧ (v - a) / 16 ≤ k.slack + (512 - k.units)) → (i = .shrink h d b kn → v < a) →
        ∃ g, (u.core core).grants = (s.core core).grants ++ [g] ∧ g.v = v ∧ g.crew = kr.opt / 64 ∧ g.sigs = kr.sigs ∧
          g.grow = decide (i = .grow h d b kn))

/-- MLOAD_FIRE: the head of a macro's queue, its entries there, loads its tile: format, source record, cells and scales; the
macro's queue loses it and the task is resident. MMA_PASS: the head of a macro's queue adds its product to its accumulator
tile, every element of it, and touches no other tile; the macro's passes rise (R91 to R93, R288, R289, R291, R299, R302). -/
def Obligations.MacrosLoadAndMultiply : Prop :=
  (∀ s core mb o k h f mb' d a kn q, ((s.core core).mac mb).queue.head? = some o → ((s.core core).mac mb).fail = false → o.instr = .mload h f mb' d a kn q →
      s.task? core o.slot = some k → k.uid = o.uid → k.frozen = none → takeServed (k.q q) o = true → s.refetching core k.uid mb = false →
      k.entryPoison (k.q q) (k.q q).crs.toNat o.n = false → k.spoisoned (o.vals.getD 3 0).toNat 1024 = false →
      ∃ u ku t, exec (.mloadFire core mb) s = .next u ∧ u.task? core o.slot = some ku ∧ ku.mt mb = some t ∧ t.fmt = f ∧
        t.src = (o.vals.getD 0 0).toNat + (o.vals.getD 1 0).toNat * 2 ^ 32 ∧ t.rstr = (o.vals.getD 2 0).toNat ∧
        t.cells = bCells f (k.entryBytes (k.q q) (k.q q).crs.toNat o.n) ∧
        t.scales = bScales (Memory.readN k.scratch (o.vals.getD 3 0).toNat 1024) ∧
        ((u.core core).mac mb).queue = ((s.core core).mac mb).queue.tail ∧ ((u.core core).mac mb).resident = some k.uid ∧
        (ku.q q).crs = (k.q q).crs + BitVec.ofNat 32 o.n ∧ u.mem = s.mem) ∧
  ∀ s core mb o k t h tr im f mb' d tile b kn q, ((s.core core).mac mb).queue.head? = some o → ((s.core core).mac mb).fail = false →
    o.instr = .mma h tr im f mb' d tile b kn q → s.task? core o.slot = some k → k.uid = o.uid → k.frozen = none →
    earlierTile (s.core core) k o.id (tile, 1) = false → k.mt mb = some t → s.mustRefetch core mb k t = false → (im = true → intModeOk f t.fmt = true) →
    takeServed (k.q q) o = true → k.entryPoison (k.q q) (k.q q).crs.toNat o.n = false →
    let bs := k.entryBytes (k.q q) (k.q q).crs.toNat o.n
    let av := fun m j => aBits f bs m j
    let bv := fun j n => (Assoc.getD t.cells 0 (if tr then 256 * n + j else 256 * j + n)).toNat
    ∃ u ku, exec (.mmaPass core mb none) s = .next u ∧ u.task? core o.slot = some ku ∧
      (∀ m < 16, ∀ n < 256, ku.cell tile m n =
        if im then k.cell tile m n + BitVec.ofInt 32 ((List.range 256).map fun j =>
          Ty.exact (aTy f) (av m j) * Ty.exact (bTy t.fmt) (bv j n)).sum
        else (List.range 8).foldl (fun w c => chunkAdd w (fun j => Ty.value (aTy f) (av m j)) (fun j => Ty.value (bTy t.fmt) (bv j n))
          (f32 (Assoc.getD t.scales 0 n)) (f32 (o.vals.getD 0 0)) c) (k.cell tile m n)) ∧
      (∀ tile', tile' ≠ tile → ∀ m < 16, ∀ n < 256, ku.cell tile' m n = k.cell tile' m n) ∧
      ((u.core core).mac mb).passes = ((s.core core).mac mb).passes + 1 ∧ u.mem = s.mem

/-- MZERO and MSTAT issue an operation that waits beside the queues, and that operation's effect, in whatever state its turn
comes: MZERO clears every element of the tiles it names and of no other; MSTAT writes to D the item it reads: the macro's
state word, its passes, its canary record, or the checks of the task's tile. MDRAIN_FIRE, once its reservation is served,
writes the tile's elements in order, converted, to the buffer's next entries and nowhere else, clears the tile under .za, and
its signer's D takes OK (R293, R295 to R299). -/
def Obligations.DrainsClearsAndReads : Prop :=
  let issues := fun (i : Instr) (x : Ctx) (st u : State) (o : EngOp) (op : Op) =>
    u = (st.fresh.2.addOp x.r op).updTask x.r.core x.r.slot (fun k => { k with drains := k.drains ++ [o] }) ∧
      o.instr = i ∧ o.id = st.nextId ∧ o.uid = x.k.uid ∧ op.id = o.id
  let reads := fun (i : Instr) (d : Opnd) (item : State → Ctx → Task → Word) =>
    GoesOn i always fun x st u => ∃ o op, issues i x st u o op ∧ op.kind = .engine [d] ∧
      ∀ (v : State) k t, v.task? x.r.core x.r.slot = some k → v.thread? x.r = some t → t.ended = false → (∃ e ∈ t.ops, e.id = o.id) →
        ∃ t', (v.asideEnd x.r.core x.r.slot k o).thread? x.r = some t' ∧ SameFile t' (t.puts (putW d (item v x k))) ∧
          (∀ e ∈ t'.ops, e.id ≠ o.id) ∧
          ∀ ku, (v.asideEnd x.r.core x.r.slot k o).task? x.r.core x.r.slot = some ku → ku.tiles = k.tiles ∧ ∀ e ∈ ku.drains, e.id ≠ o.id
  (∀ h tile c, GoesOn (.mzero h tile c) always fun x st u => ∃ o op, issues (.mzero h tile c) x st u o op ∧
    ∀ (v : State) k, v.task? x.r.core x.r.slot = some k →
      ∃ ku, (v.asideEnd x.r.core x.r.slot k o).task? x.r.core x.r.slot = some ku ∧ (∀ e ∈ ku.drains, e.id ≠ o.id) ∧
        ∀ t m n, m < 16 → n < 256 → ku.cell t m n = if tile ≤ t ∧ t ≤ tile + c then 0 else k.cell t m n) ∧
  (∀ h d mb, reads (.mstatState h d mb) d fun v x k =>
    let m := (v.core x.r.core).mac mb
    BitVec.ofNat 32 ((if m.fail then 2 ^ 31 else 0) +
      (match k.mt mb with
        | some b => 2 ^ 30 + (if m.resident = some k.uid then 2 ^ 29 else 0) + (if b.src ≠ 0 then 2 ^ 28 else 0) +
          (match b.fmt with | .dm8 => 0 | .i8 => 1 | .bf16 => 2 | .f16 => 3) * 2 ^ 26
        | none => 0) + m.passes % 256 * 2 ^ 8 + min m.queue.length 16)) ∧
  (∀ h d mb, reads (.mstatPasses h d mb) d fun v x _ => BitVec.ofNat 32 ((v.core x.r.core).mac mb).passes) ∧
  (∀ h d mb, reads (.mstatCanary h d mb) d fun v x _ => ((v.core x.r.core).mac mb).canary) ∧
  (∀ h d mb, reads (.mstatChecks h d mb) d fun _ _ k => BitVec.ofNat 32 (match k.mt mb with | some b => b.checks | none => 0)) ∧
  ∀ s core slot op k o h f rm sat za d tile kn q x, s.task? core slot = some k → k.drains.find? (fun o => o.id == op) = some o →
    o.instr = .mdrain h f rm sat za d tile kn q → k.frozen = none → firstWaiting (k.q q).resv = some x → x.id = o.id →
    engEntries k o.instr = .ok o.n → o.n ≤ (k.q q).room → earlierTile (s.core core) k o.id (tile, 1) = false →
    ((k.q q).rsv.toNat + o.n ≤ 2 ^ 32 ∨ 2 ^ 32 % (k.q q).cnt = 0) →
    ∃ u ku, exec (.mdrainFire core slot op) s = .next u ∧ u.task? core slot = some ku ∧
      ku.entryBytes (k.q q) (k.q q).rsv.toNat o.n =
        (List.range 4096).flatMap (fun i => drainElem f rm sat (k.cell tile (i / 256) (i % 256))) ∧
      (∀ a, (∀ off ∈ (k.q q).slots (k.q q).rsv.toNat o.n, a < off ∨ off + (k.q q).esz * 32 ≤ a) →
        Memory.read ku.scratch a = Memory.read k.scratch a) ∧
      (ku.q q).rsv = (k.q q).rsv + BitVec.ofNat 32 o.n ∧ (∀ e ∈ ku.drains, e.id ≠ o.id) ∧ u.mem = s.mem ∧
      (∀ t m n, m < 16 → n < 256 → ku.cell t m n = if za = true ∧ t = tile then 0 else k.cell t m n) ∧
      ∀ g t, o.sigs = [g] → g.op ≠ 0 → s.thread? ⟨core, slot, g.thr⟩ = some t → t.ended = false → (∃ e ∈ t.ops, e.id = g.op) →
        ∃ t', u.thread? ⟨core, slot, g.thr⟩ = some t' ∧ SameFile t' (t.puts (putW g.d (status 0 0)))

/-- GROW_GRANT and SHRINK_APPLY: the crew's allotment becomes the value asked for, and the pool's units move by what R31 and
R304 say; after a GROW the new registers read zero in every thread of the crew, and after a SHRINK a word that names a removed
one traps REGBOUND in each (R304, R305). -/
def Obligations.AllotmentsChange : Prop :=
  (∀ s core g k, (s.core core).grants.find? (fun g => g.grow) = some g → s.task? core g.slot = some k → k.uid = g.uid →
    k.frozen = none → (∀ g' ∈ g.sigs, g'.waits = true) → Assoc.getD k.allot 0 g.crew < g.v →
    (g.v - Assoc.getD k.allot 0 g.crew) / 16 ≤ k.slack + s.freePool core →
    ∃ u ku, exec (.growGrant core) s = .next u ∧ u.task? core g.slot = some ku ∧ Assoc.getD ku.allot 0 g.crew = g.v ∧
      ku.regu = k.regu + ((g.v - Assoc.getD k.allot 0 g.crew) / 16 - k.slack) ∧
      (∀ j t, u.thread? ⟨core, g.slot, j⟩ = some t → j < 4096 → j / 64 = g.crew →
        ∀ n, Assoc.getD k.allot 0 g.crew ≤ n → n < g.v → (∀ g' ∈ g.sigs, g'.d ≠ .v n) → t.reg n = 0) ∧ u.mem = s.mem) ∧
  ∀ s core g k, (s.core core).grants.find? (fun g => !g.grow &&
      (match s.task? core g.slot with | some k => k.frozen.isNone && !s.shrinkBusy core k g | none => false)) = some g →
    s.task? core g.slot = some k → (∀ g' ∈ g.sigs, g'.waits = true) → g.v < Assoc.getD k.allot 0 g.crew →
    ∃ u ku, exec (.shrinkApply core) s = .next u ∧ u.task? core g.slot = some ku ∧ Assoc.getD ku.allot 0 g.crew = g.v ∧
      ku.regu = k.regu ∧
      (∀ j t i, j / 64 = g.crew → (∃ n ∈ (rdwr i).1 ++ (rdwr i).2, g.v ≤ n ∧ n < 1024) → i.wf = true → privileged i = false →
        (isMatrix i = true → ku.hd.nomatrix = false) → precheck ku g.slot j t i = some (.regbound, 0)) ∧ u.mem = s.mem

/- ## Phases and the vein -/

/-- PHADV and PHWAIT put their thread into a wait. A waiting PHADV advances once no neighbour that is not lost is more than
ALW behind: PH rises by one, each such neighbour is sent the mark, and D takes the phase, with PEERLOST where a neighbour is
lost; a waiting PHWAIT ends at the phase it names. A mark sets the phase of every neighbour field that names its sender, and
a slot that is disabled ends its waits, those of saved tasks too, with BADDESC (R330 to R333). -/
def Obligations.PhasesAdvance : Prop :=
  (∀ h d slot, Places (.phadv h d slot) (fun _ st => st.pdEn slot = true) (WaitsFor fun _ _ => .phadv slot d)) ∧
  (∀ h d a slot nbr, Places (.phwait h d a slot nbr) (fun _ st => st.pdEn slot = true ∧ nbr < st.pdNn slot)
    (WaitsFor fun x _ => .phwait slot nbr (x.w a) d)) ∧
  (∀ (s : State) r k t slot d, s.task? r.core r.slot = some k → s.thread? r = some t → t.wait = .phadv slot d → s.pdEn slot = true →
    let p := s.phase slot
    let behind := fun (i : Nat) => s.peerSt (s.pdNbr slot i) ≠ .lost ∧
      2 ^ 31 ≤ (Assoc.getD p.phn 0 i + BitVec.ofNat 32 (s.pdAlw slot) - (p.ph + 1)).toNat
    let lost := (s.nbrs slot).any fun i => decide (s.peerSt (s.pdNbr slot i) = .lost)
    let u := s.phadvStep r slot d
    ((∃ i < s.pdNn slot, behind i) ∨ s.writesUnsent k = true → u = s) ∧
    ((∀ i < s.pdNn slot, ¬behind i) → s.writesUnsent k = false → (u.phase slot).ph = p.ph + 1 ∧ (u.phase slot).phn = p.phn ∧ u.mem = s.mem ∧
      (∀ i < s.pdNn slot, s.peerSt (s.pdNbr slot i) ≠ .lost → OutMsg.mark slot (s.pdNbr slot i) (p.ph + 1) ∈ u.out) ∧
      ∃ t', u.thread? r = some t' ∧ t'.wait = .none ∧
        SameFile t' (t.puts (putW d (status (if lost then 1 else 0) ((p.ph + 1).toNat % 2 ^ 24)))))) ∧
  (∀ (s : State) r k t slot nbr v d, s.task? r.core r.slot = some k → s.thread? r = some t → s.pdEn slot = false →
    ∀ u, (u = s.phadvStep r slot d ∨ u = s.phwaitStep r slot nbr v d) →
      (∃ t', u.thread? r = some t' ∧ t'.wait = .none ∧ SameFile t' (t.puts (putW d (status 8 0)))) ∧ u.mem = s.mem ∧
        u.phases = s.phases ∧ ∀ n c w, OutMsg.mark n c w ∈ u.out → OutMsg.mark n c w ∈ s.out) ∧
  (∀ (s : State) r k t slot nbr v d, s.task? r.core r.slot = some k → s.thread? r = some t → s.pdEn slot = true →
    let p := Assoc.getD (s.phase slot).phn 0 nbr
    let u := s.phwaitStep r slot nbr v d
    let ends := fun (w : Word) => ∃ t', u.thread? r = some t' ∧ t'.wait = .none ∧ SameFile t' (t.puts (putW d w)) ∧
      u.mem = s.mem ∧ u.phases = s.phases
    ((p - v).toNat < 2 ^ 31 → ends (status 0 (p.toNat % 2 ^ 24))) ∧
    (2 ^ 31 ≤ (p - v).toNat → s.peerSt (s.pdNbr slot nbr) = .lost → ends (status 1 nbr)) ∧
    (2 ^ 31 ≤ (p - v).toNat → s.peerSt (s.pdNbr slot nbr) ≠ .lost → u = s)) ∧
  (∀ s slot src mark, s.pdEn slot = true →
    ∃ u, exec (.phaseMarkReceive slot src mark) s = .next u ∧ u = { s with phases := u.phases } ∧
      (u.phase slot).ph = (s.phase slot).ph ∧
      (∀ j, Assoc.getD (u.phase slot).phn 0 j =
        if j < s.pdNn slot ∧ s.pdNbr slot j = src then mark else Assoc.getD (s.phase slot).phn 0 j) ∧
      ∀ n, n ≠ slot → u.phase n = s.phase n) ∧
  ∀ s n v, v.getLsbD 31 = false → Assoc.wf s.threads = true →
    ∃ u, exec (.phaseSlotDisable n v) s = .next u ∧ u.pdEn n = false ∧ u.mem = s.mem ∧ SameTasks s u ∧
      (∀ r t k d, s.thread? r = some t → s.task? r.core r.slot = some k → r.slot < 32 → r.thr < 4096 →
        (t.wait = .phadv n d ∨ ∃ nbr v, t.wait = .phwait n nbr v d) →
        ∃ t', u.thread? r = some t' ∧ t'.wait = .none ∧ SameFile t' (t.puts (putW d (status 8 0)))) ∧
      ∀ a sv j t d, (a, sv) ∈ s.agents.saved → (j, t) ∈ sv.threads → (t.wait = .phadv n d ∨ ∃ nbr v, t.wait = .phwait n nbr v d) →
        ∃ sv' t', (a, sv') ∈ u.agents.saved ∧ (j, t') ∈ sv'.threads ∧ t'.wait = .none ∧ SameFile t' (t.puts (putW d (status 8 0)))

/-- A member's vein set as its events change it: a packet received is put to its update in the sump, or begins one; a weak
update that may be applied is applied whole, each sector where its stamp is the greater; the banksman assigns slots in order,
another member forwards, and in a departure's freeze the request waits; a strong operation whose slot is the next to be
applied is performed on the replica, as the load, store or atomic that it is, its update goes to the others under that slot, and
it completes with its last acknowledgement; the role passes on by a marker, and one that is known already changes nothing (R222,
R312 to R317, R319). When a strong operation asks, what a marker already known does and how a departure's exchange bears on slots
are the model's readings (log entries 47 and 98). -/
def Obligations.VeinUpdatesAndSlots : Prop :=
  let own := fun (s u : State) => u.mem = s.mem ∧ u.threads = s.threads ∧ u.tasks = s.tasks ∧ u.regs = s.regs
  (∀ s (p : VPacket) slot v, s.veins.find? (fun e => e.2.vsid == p.vsid) = some (slot, v) → Assoc.find? s.veins slot = some v →
    p.kind < 3 → v.accepts p = true →
    p.wg ≠ v.wg ∨ v.appl.getD p.rank 0 < p.seq ∨ (v.joining.isSome = true ∧ v.streamed = false) →
    let same := fun (u : VUpdate) => u.whole = false ∧ u.rank = p.rank ∧ u.seq = p.seq ∧ u.wg = p.wg
    ∃ t vt, exec (.veinUpdateReceive p) s = .next t ∧ Assoc.find? t.veins slot = some vt ∧
      ((∀ u ∈ v.sump, ¬same u) → vt.sump = v.sump ++ [
        { vsid := p.vsid, epoch := p.epoch, kind := p.kind, rank := p.rank, wg := p.wg, seq := p.seq, slot := p.slot,
          dep := p.dep, sectors := p.sectors, packets := 1, whole := p.last }]) ∧
      (∀ u, v.sump = [u] → same u →
        vt.sump = [{ u with sectors := u.sectors ++ p.sectors, packets := u.packets + 1, whole := p.last }]) ∧
      vt.appl = v.appl ∧ vt.stamps = v.stamps ∧ own s t) ∧
  (∀ s slot v u, Assoc.find? s.veins slot = some v → v.firstAppliable = some u → u.kind = 0 → v.calm → v.sweep = none →
    v.cuts = [] → (u.sectors.map Prod.fst).Nodup → (∀ e ∈ u.sectors, e.2.length = 32) →
    let newer := fun (e : Nat × List Byte) => stampLess (Assoc.getD v.stamps 0 e.1) (u.rank * 2 ^ 28 + u.seq)
    ∃ t vt, exec (.sumpApply slot) s = .next t ∧ Assoc.find? t.veins slot = some vt ∧ vt.sump = v.sump.erase u ∧
      vt.appl = setAt v.appl u.rank u.seq ∧
      (∀ e ∈ u.sectors, newer e = true → Memory.readN t.mem (veinKey slot (32 * e.1)) 32 = e.2 ∧
        Assoc.getD vt.stamps 0 e.1 = u.rank * 2 ^ 28 + u.seq) ∧
      (∀ n, (∀ e ∈ u.sectors, newer e = true → e.1 ≠ n) → Assoc.getD vt.stamps 0 n = Assoc.getD v.stamps 0 n) ∧
      ∀ a, (∀ e ∈ u.sectors, newer e = true → a < veinKey slot (32 * e.1) ∨ veinKey slot (32 * e.1) + 32 ≤ a) →
        Memory.read t.mem a = Memory.read s.mem a) ∧
  (∀ s slot rank v, Assoc.find? s.veins slot = some v →
    ∃ t, exec (.slotRequest slot rank) s = .next t ∧ own s t ∧
      (v.frozen ≠ [] → t.out = s.out ∧ ∃ vt, Assoc.find? t.veins slot = some vt ∧ vt.reqs = v.reqs ++ [rank] ∧ vt.nextSlot = v.nextSlot) ∧
      (v.frozen = [] → v.banksman ≠ v.rank → t.veins = s.veins ∧ t.out = s.out ++ [.slotReq v.vsid rank]) ∧
      (v.frozen = [] → v.banksman = v.rank → ∃ vt, Assoc.find? t.veins slot = some vt ∧ vt.nextSlot = v.nextSlot + 1 ∧
        (if rank = v.rank then t.agenda = s.agenda ++ [.slotGrant slot v.nextSlot] else OutMsg.grant v.vsid rank v.nextSlot ∈ t.out) ∧
        (v.assigned + 1 < v.rots → vt.banksman = v.rank ∧ vt.assigned = v.assigned + 1) ∧
        (v.rots ≤ v.assigned + 1 → 1 < v.members.length → vt.banksman = nextRank v.ranks v.rank ∧ vt.assigned = 0))) ∧
  (∀ s slot n v, Assoc.find? s.veins slot = some v → n ≠ v.applSlot → v.voids.contains v.applSlot = false →
    (∀ g ∈ v.strongs, g.slot ≠ some v.applSlot ∧ g.performed = false) → ({ v with strongs := [], voids := [] } : VeinSet).calm →
    ∃ t vt, exec (.slotGrant slot n) s = .next t ∧ own s t ∧ Assoc.find? t.veins slot = some vt ∧
      vt.strongs = grantFirst n v.strongs ∧ vt.applSlot = v.applSlot) ∧
  (∀ s slot n rank v g t0 o a data op w64 b c d, Assoc.find? s.veins slot = some v → v.strongs = [g] → g.slot = some n →
    g.performed = true → g.acks = [rank] → s.thread? g.ref = some t0 → t0.ended = false → t0.ops.find? (fun o => o.id == g.op) = some o →
    o.kind = .strong a data op w64 b c (some d) →
    ∃ t t1, exec (.slotAck slot n rank) s = .next t ∧ t.mem = s.mem ∧ SameTasks s t ∧ t.thread? g.ref = some t1 ∧
      t1.regs = (t0.puts (putG d (wordsOf (max 1 (a.n / 4)) data))).regs ∧ t1.sstat = status 0 0 ∧
      (∀ x ∈ t1.ops, x.id ≠ g.op) ∧ ∃ vt, Assoc.find? t.veins slot = some vt ∧ vt.strongs = []) ∧
  (∀ s slot v g k t0 o (a : Acc) data op w64 b c dst, Assoc.find? s.veins slot = some v → v.strongs = [g] → g.requested = true →
    g.slot = none → g.performed = false → ({ v with strongs := [] } : VeinSet).calm → v.held = false → 1 < v.members.length → (∃ r ∈ v.ranks, r ≠ v.rank) →
    s.task? g.ref.core g.ref.slot = some k → s.thread? g.ref = some t0 → t0.ops.find? (fun o => o.id == g.op) = some o →
    o.kind = .strong a data op w64 b c dst → s.mayPerform g.ref k t0 o = true →
    (a.n = 4 ∨ a.n = 8) → (op.isSome = true → a.n = if w64 then 8 else 4) → (op = none → a.write = true → data.length = a.n) →
    a.va % a.n = 0 → v.segb % 32 = 0 → v.segb ≤ a.va → s.poisoned (veinKey slot (a.va - v.segb)) a.n = false →
    let key := veinKey slot (a.va - v.segb)
    let old := s.peekN key a.n
    ∃ t vt t1 o1, exec (.slotGrant slot v.applSlot) s = .next t ∧ Assoc.find? t.veins slot = some vt ∧ vt.applSlot = v.applSlot + 1 ∧
      vt.strongs = [{ g with slot := some v.applSlot, performed := true, acks := v.ranks.filter fun r => r != v.rank }] ∧
      t.thread? g.ref = some t1 ∧ SameFile t1 t0 ∧ o1 ∈ t1.ops ∧ o1.id = g.op ∧
      o1.kind = .strong a (if op = none ∧ a.write = true then [] else s.peek key a.n) op w64 b c dst ∧
      t.peek key a.n = (match op with
        | some f => leBytes a.n (aopVal f w64 old b.toNat c.toNat)
        | none => if a.write then data else s.peek key a.n) ∧
      (∀ y, y < key ∨ key + a.n ≤ y → Memory.read t.mem y = Memory.read s.mem y) ∧
      ∃ p, OutMsg.vein p ∈ t.out ∧ p.kind = 1 ∧ p.rank = v.rank ∧ p.slot = v.applSlot ∧ p.seq = v.nextSeq ∧ p.dep = v.appl) ∧
  (∀ s slot n succ v, Assoc.find? s.veins slot = some v → v.calm → v.marker ≠ some (n, succ) →
    ∃ t vt, exec (.handoverMarker slot n succ) s = .next t ∧ own s t ∧ t.out = s.out ∧ Assoc.find? t.veins slot = some vt ∧
      vt.banksman = succ ∧ vt.nextSlot = n ∧ vt.assigned = 0 ∧ vt.appl = v.appl ∧ vt.strongs = v.strongs ∧
      (∀ x, v.newRot = some x → vt.rots = x.1 ∧ vt.rott = x.2)) ∧
  ∀ s slot v, Assoc.find? s.veins slot = some v → v.banksman = v.rank → 1 < v.members.length → v.frozen = [] →
    ∃ t vt, exec (.banksmanRotationTimer slot) s = .next t ∧ t.mem = s.mem ∧ t.tasks = s.tasks ∧ SameThreads s t ∧
      t.clk.time = max s.clk.time (v.bankSince + 1000 * v.rott) ∧
      Assoc.find? t.veins slot = some vt ∧ vt.banksman = nextRank v.ranks v.rank ∧ vt.nextSlot = v.nextSlot ∧
      ∃ p, OutMsg.vein p ∈ t.out ∧ p.kind = 3 ∧ p.rank = v.rank ∧ p.slot = v.nextSlot ∧ p.last = true

/-- A sweep: the marker's slot is applied, the member holds its updates and sends its notice, and notices that came before
the marker count; at the last notice a member that has reached every member's sequence resets its vector, its stamps and its
wing, outside a departure's freeze. While a set forms, the notice of the last member, with an equal descriptor, completes
VMEMB .form (R323, R324, R338). That members learn of each other by such notices is the model's reading (log entry 45). -/
def Obligations.SweepsAndForms : Prop :=
  let own := fun (s u : State) => u.mem = s.mem ∧ u.threads = s.threads ∧ u.tasks = s.tasks
  let cut := fun (v : VeinSet) (ns : List (Nat × Nat)) => v.ranks.all fun r => ns.any fun n => n.1 == r && decide (n.2 ≤ v.appl.getD r 0)
  (∀ s slot n v, Assoc.find? s.veins slot = some v → v.sweep = none → v.sweepSlot = none → n = v.applSlot → v.banksman ≠ v.rank →
    1 < v.members.length →
    let ns := (v.rank, v.appl.getD v.rank 0) :: v.early.filter fun x => x.1 != v.rank
    cut v ns = false →
    ∃ t vt, exec (.sweepMarkerReceive slot n) s = .next t ∧ own s t ∧
      Assoc.find? t.veins slot = some vt ∧ vt.applSlot = n + 1 ∧ vt.sweep = some ns ∧
      vt.appl = v.appl ∧ OutMsg.ready v.vsid v.rank (v.appl.getD v.rank 0) ∈ t.out) ∧
  (∀ s slot rank seq v ns, Assoc.find? s.veins slot = some v → v.calm → v.frozen = [] → v.sweep = some ns →
    let all := ns.filter (fun n => n.1 != rank) ++ [(rank, seq)]
    ∃ t vt, exec (.readyNoticeReceive slot rank seq) s = .next t ∧ own s t ∧
      Assoc.find? t.veins slot = some vt ∧
      (cut v all = true → vt.appl = List.replicate 16 0 ∧ vt.stamps = [] ∧ vt.wg = !v.wg ∧ vt.sweep = none) ∧
      (cut v all = false → vt.appl = v.appl ∧ vt.stamps = v.stamps ∧ vt.wg = v.wg ∧ vt.sweep = some all)) ∧
  (∀ s slot rank seq v, Assoc.find? s.veins slot = some v → v.sweep = none →
    ∃ t vt, exec (.readyNoticeReceive slot rank seq) s = .next t ∧ own s t ∧ Assoc.find? t.veins slot = some vt ∧
      vt.early = v.early.filter (fun n => n.1 != rank) ++ [(rank, seq)] ∧ vt.sweep = none ∧ vt.appl = v.appl ∧ vt.wg = v.wg) ∧
  ∀ s (hd : FabHdr) slot rank v t0 r op t d, s.up = true → hd.tgt = s.chip.toNat → FabHdr.bad hd s.inc.toNat = false →
    s.fab.frozenPeers.contains (hd.src, hd.asid) = false → hd.cls ≠ 0 → hd.msg = .form v.vsid rank v.desc →
    s.veins.find? (fun e => e.2.vsid == v.vsid) = some (slot, v) → Assoc.find? s.veins slot = some v → v.forming = some (t0, r, op) →
    (∀ x ∈ v.ranks, x = rank ∨ x = v.rank ∨ ∃ f ∈ s.fab.forms, f.1 = v.vsid ∧ f.2.1 = x ∧ f.2.2.2 = v.desc) →
    s.waitsOn r op d t →
    ∃ u vt, exec (.fabricPacketReceive hd) s = .next u ∧ u.mem = s.mem ∧ SameTasks s u ∧ u.endedWith r op d t 0 ∧
      Assoc.find? u.veins slot = some vt ∧ vt.forming = none

/-- VMEMB: a descriptor that is no chip-local memory traps ENGINE; the first bad field is answered with BADDESC and its
offset; a set formed or joined has a segment and stamps of zeros and its descriptor's fields, and is in use at once where it
has one member; .leave gives the set up, at once or when its acknowledgements are collected, .evict freezes the ranks and waits for the
departures it asks for, .query answers the state word, and .rot sets what the next handover takes (R309, R336 to R339). The notices
a forming set waits for, the DETAIL of a taken slot and the order of a departure are the model's readings (log entries 45, 46 and
47), and DETAIL where R338 gives a code alone is a free value (log entry 21). -/
def Obligations.VmembWords : Prop :=
  let reads := fun (x : Ctx) (st : State) (a : Opnd) (P : (Nat → Nat → Nat) → Prop) =>
    x.t.ops.any Op.openStore = false ∧ ∃ bs, st.localBytes x.k (x.d a).toNat 128 = some bs ∧ P (rdBytes bs)
  let made := fun (v : VeinSet) (f : Nat → Nat → Nat) => v.vsid = f 0x10 2 ∧ v.asid = f 0x12 2 ∧ v.segb = f 0 8 ∧ v.segl = f 8 8 ∧
    v.rank = f 0x14 1 ∧ v.epoch = 0 ∧ v.nextSlot = 0 ∧ v.appl = List.replicate 16 0 ∧ v.stamps = [] ∧ v.sump = []
  let zero := fun (u : State) (slot : Nat) => ∀ off < 2 ^ 57, Memory.read u.mem (veinKey slot off) = 0
  (∀ i d a bad go (x : Ctx) (st : State), st.localBytes x.k (x.d a).toNat 128 = none →
    vmembBody i d a bad go x st = .trap .engine 26 0 0) ∧
  (∀ h d a slot i bad, (i = Instr.vmembForm h d a slot ∧ (bad = fun st f => formBad st slot f)) ∨
      (i = Instr.vmembJoin h d a slot ∧ (bad = fun st f => joinBad st slot f)) →
    GoesOn i (fun x st => reads x st a fun f => (bad st f).isSome) fun x st u => ∃ bs e,
      st.localBytes x.k (x.d a).toNat 128 = some bs ∧ bad st (rdBytes bs) = some e ∧
      u = st.updThread x.r fun t => t.puts (putW d (status 8 e))) ∧
  (∀ h d a slot, GoesOn (.vmembForm h d a slot)
    (fun x st => reads x st a fun f => formBad st slot f = none ∧ st.staleRank (formMembers f) = none) fun x st u =>
    ∃ bs v, st.localBytes x.k (x.d a).toNat 128 = some bs ∧ Assoc.find? u.veins slot = some v ∧ made v (rdBytes bs) ∧ zero u slot ∧
      v.members = formMembers (rdBytes bs) ∧ v.banksman = rdBytes bs 0x15 1 ∧
      if v.members.length = 1 then v.forming = none ∧ u.statusIn x st d 0
      else (∃ t0 ≤ st.clk.time, v.forming = some (t0, x.r, st.nextId) ∧
          ((∀ n ∈ st.fab.forms, n.1 ≠ v.vsid) → t0 = st.clk.time)) ∧ u.pending x.r st.nextId d ∧
        OutMsg.form v.vsid v.rank ((List.range 128).map fun i => BitVec.ofNat 8 (if i = 0x14 then 0 else rdBytes bs i 1)) ∈ u.out) ∧
  (∀ h d a slot, GoesOn (.vmembJoin h d a slot) (fun x st => reads x st a fun f => joinBad st slot f = none) fun x st u =>
    ∃ bs v, st.localBytes x.k (x.d a).toNat 128 = some bs ∧ Assoc.find? u.veins slot = some v ∧ made v (rdBytes bs) ∧ zero u slot ∧
      v.joining = some (x.r, st.nextId) ∧ u.pending x.r st.nextId d ∧
      OutMsg.joinAsk v.vsid v.rank st.chip.toNat st.inc.toNat ∈ u.out) ∧
  (∀ h d a slot, GoesOn (.vmembLeave h d a slot)
    (fun x st => reads x st a fun f => namedBad (Assoc.find? st.veins slot) f false false = none ∧
      st.tasks.any (fun e => e.2.asid == f 0x12 2 && decide (e.1 % 32 < 16)) = false) fun x st u =>
    ∃ v, Assoc.find? st.veins slot = some v ∧ u.mem = st.mem ∧
      if v.strongs = [] ∧ v.frozen = [] ∧ v.sweep = none ∧ v.sweepSlot = none then
        Assoc.find? u.veins slot = none ∧ u.statusIn x st d 0 ∧ OutMsg.leave v.vsid v.rank ∈ u.out
      else ∃ vt, Assoc.find? u.veins slot = some vt ∧ vt.members = v.members ∧ vt.leaving = some (x.r, st.nextId) ∧
        u.pending x.r st.nextId d) ∧
  (∀ h d a slot, GoesOn (.vmembEvict h d a slot)
    (fun x st => reads x st a fun f => namedBad (Assoc.find? st.veins slot) f true false = none ∧
      ∃ v, Assoc.find? st.veins slot = some v ∧ (f 0x16 2).testBit v.rank = false ∧ ∃ r ∈ v.ranks, (f 0x16 2).testBit r = true)
    fun x st u => ∃ bs v vt, st.localBytes x.k (x.d a).toNat 128 = some bs ∧ Assoc.find? st.veins slot = some v ∧
      Assoc.find? u.veins slot = some vt ∧ vt.members = v.members ∧ u.mem = st.mem ∧ u.pending x.r st.nextId d ∧
      vt.evicts = v.evicts ++ [(x.r, st.nextId, v.ranks.filter fun r => (rdBytes bs 0x16 2).testBit r)] ∧
      ∀ r ∈ v.ranks, (rdBytes bs 0x16 2).testBit r = true → r ∈ vt.frozen) ∧
  (∀ h d slot, GoesOn (.vmembQuery h d slot)
    (fun _ st => ∃ v, Assoc.find? st.veins slot = some v ∧ v.forming = none ∧ v.joining = none) fun x st u =>
    ∃ v, Assoc.find? st.veins slot = some v ∧ u = st.updThread x.r fun t => t.puts (putW d (status 0
      (((v.ranks.map fun r => 2 ^ r).sum) % 2 ^ 16 + v.banksman % 16 * 2 ^ 16 + (if v.lagging then 2 ^ 20 else 0) +
        if v.sweep.isSome then 2 ^ 21 else 0)))) ∧
  ∀ h d a slot, GoesOn (.vmembRot h d a slot)
    (fun x st => reads x st a fun f => namedBad (Assoc.find? st.veins slot) f false true = none) fun x st u =>
    ∃ bs v vt, st.localBytes x.k (x.d a).toNat 128 = some bs ∧ Assoc.find? st.veins slot = some v ∧
      Assoc.find? u.veins slot = some vt ∧ vt.newRot = some (rdBytes bs 0x18 2, rdBytes bs 0x1A 2) ∧ vt.rots = v.rots ∧
      vt.rott = v.rott ∧ u.mem = st.mem ∧ u.statusIn x st d 0 ∧
      OutMsg.rot v.vsid (rdBytes bs 0x18 2) (rdBytes bs 0x1A 2) ∈ u.out

/-- A set's membership as its events change it: a departed member is gone, the epoch has risen by the departures, a lost
role passes to the successor that a marker named or to the next rank, what was cut off is known, departed ranks' entries of
the vector are zero, and slots that nobody holds count as applied; a departure begins with a freeze and a report; one that leaves
in order is gone behind its last update; a joined member enters with its epoch, after a sweep or departure that is under way, and
the banksman streams the set to it, or answers why it does not; a chip that departs drops its set and force-saves the tasks of its
context; a forming set that stays incomplete is given up (R310, R318 to R322, R324, R338). How the exchanges of a departure and
the notices of a form run is the model's reading (log entries 45 and 47), and so are the notice of a lag to the evictor and the
message of an orderly leave (log entry 98). -/
def Obligations.MembershipChanges : Prop :=
  (∀ s slot ranks v, Assoc.find? s.veins slot = some v → ranks.contains v.rank = false → v.sump = [] → v.calm →
    v.sweep = none → v.evicts = [] → v.cuts = [] → v.reqs = [] →
    let gone := ranks.filter v.ranks.contains
    let left := v.ranks.filter fun x => !gone.contains x
    ∃ u vt, exec (.memberDeparture slot ranks []) s = .next u ∧ u.mem = s.mem ∧ u.threads = s.threads ∧ u.tasks = s.tasks ∧
      Assoc.find? u.veins slot = some vt ∧ vt.members = v.members.filter (fun m => !gone.contains m.1) ∧
      vt.epoch = (v.epoch + gone.length) % 65536 ∧ vt.stamps = v.stamps ∧
      (∀ r, vt.appl.getD r 0 = if r ∈ gone then 0 else v.appl.getD r 0) ∧
      (let bank := match v.marker with
          | some (_, succ) => succ
          | none => v.banksman
       vt.banksman = if gone.contains bank then nextRank left bank else bank) ∧
      vt.cuts = gone.map (fun d => (d, v.appl.getD d 0)) ∧ vt.applSlot = max v.applSlot v.seenSlot ∧ vt.voids = []) ∧
  (∀ s slot ranks v, Assoc.find? s.veins slot = some v → ranks.contains v.rank = true → v.strongs = [] →
    ∃ u, exec (.memberDeparture slot ranks []) s = .next u ∧ Assoc.find? u.veins slot = none ∧ u.mem = s.mem ∧ u.threads = s.threads ∧
      (∀ core sl k, s.task? core sl = some k → u.task? core sl = some (if k.asid = v.asid then { k with vein := true } else k)) ∧
      ∀ core sl k, s.task? core sl = some k → sl < 16 → k.asid = v.asid → Instr.forceSave core sl ∈ u.agenda) ∧
  (∀ s slot v, Assoc.find? s.veins slot = some v → 1 < v.members.length → ∀ t0, v.lagSince = some t0 →
    ∃ u, exec (.lagEvictionTimeout slot v.rank) s = .next u ∧ u.clk.time = max s.clk.time (t0 + 1000001) ∧
      OutMsg.lag v.vsid v.rank ∈ u.out ∧ u.veins = s.veins ∧ u.mem = s.mem ∧ SameThreads s u) ∧
  (∀ s slot rank v, Assoc.find? s.veins slot = some v → rank ≠ v.rank → rank ∈ v.ranks → v.banksman = v.rank →
    ∃ u vt, exec (.lagEvictionTimeout slot rank) s = .next u ∧ Assoc.find? u.veins slot = some vt ∧ rank ∈ vt.frozen ∧
      vt.members = v.members ∧ u.mem = s.mem ∧ u.threads = s.threads ∧
      if (∃ x ∈ v.ranks, x ≠ v.rank ∧ x ≠ rank) then
        OutMsg.freeze v.vsid [rank] ∈ u.out ∧ OutMsg.report v.vsid (v.report [rank]) ∈ u.out
      else u.agenda = s.agenda ++ [.memberDeparture slot [rank] []]) ∧
  (∀ s slot (j : VJoin) v r op t d, Assoc.find? s.veins slot = some v → v.joining = some (r, op) → v.streamed = false →
    s.waitsOn r op d t → j.code ≠ 0 → j.code < 128 →
    ∃ u, exec (.joinStreamComplete slot j) s = .next u ∧ Assoc.find? u.veins slot = none ∧ u.mem = s.mem ∧
      u.endedWith r op d t j.code) ∧
  (∀ s slot (j : VJoin) v r op t d, Assoc.find? s.veins slot = some v → v.joining = some (r, op) → v.streamed = false →
    ({ v with joining := none } : VeinSet).calm → s.waitsOn r op d t → j.code = 0 → v.sump = [] → (j.cells.map Prod.fst).Nodup →
    ∃ u vt, exec (.joinStreamComplete slot j) s = .next u ∧ u.endedWith r op d t 0 ∧ Assoc.find? u.veins slot = some vt ∧
      vt.joining = none ∧ vt.members = j.members ∧ vt.epoch = j.epoch ∧ vt.appl = j.appl ∧ vt.applSlot = j.applSlot ∧
      vt.banksman = j.banksman ∧ vt.wg = j.wg ∧
      (∀ e ∈ j.cells, Memory.read u.mem (veinKey slot e.1) = e.2) ∧
      ∀ a, (∀ e ∈ j.cells, a ≠ veinKey slot e.1) → Memory.read u.mem a = Memory.read s.mem a) ∧
  (∀ s slot (j : VJoin) v, Assoc.find? s.veins slot = some v → v.joining = none → j.code = 0 →
    ∃ u vt, exec (.joinStreamComplete slot j) s = .next u ∧ u.mem = s.mem ∧ u.threads = s.threads ∧ u.tasks = s.tasks ∧
      Assoc.find? u.veins slot = some vt ∧
      if v.sweep.isSome ∨ v.sweepSlot.isSome ∨ v.frozen ≠ [] ∨ s.fab.reconf.isSome then
        vt.joinsDue = v.joinsDue ++ [j] ∧ vt.members = v.members
      else
        (v.banksman = v.rank → j.rank ∈ v.ranks → vt = v ∧ ∃ w : VJoin, OutMsg.joinStream j.chip w ∈ u.out ∧ w.code = 8 ∧ w.detail = 0x10) ∧
        (v.banksman = v.rank → j.rank ∉ v.ranks → s.staleJoin j = true → vt = v ∧
          ∃ w : VJoin, OutMsg.joinStream j.chip w ∈ u.out ∧ w.code = Code.staleinc) ∧
        (j.rank ∉ v.ranks → s.staleJoin j = false → vt.epoch = (v.epoch + 1) % 65536 ∧ vt.appl = setAt v.appl j.rank 0 ∧
        vt.members = v.members ++ [(j.rank, j.chip, j.inc, (v.epoch + 1) % 65536)] ∧
        (v.banksman = v.rank → ∃ w : VJoin, OutMsg.joinStream j.chip w ∈ u.out ∧ w.code = 0 ∧ w.members = vt.members ∧
          w.epoch = vt.epoch ∧ w.appl = vt.appl ∧ w.stamps = v.stamps ∧ w.applSlot = v.applSlot ∧ w.nextSlot = v.nextSlot))) ∧
  (∀ s (hd : FabHdr) p slot rank v, s.up = true → hd.tgt = s.chip.toNat → FabHdr.bad hd s.inc.toNat = false →
    s.fab.frozenPeers.contains (hd.src, hd.asid) = false → hd.cls = 0 → Assoc.find? s.fab.peers hd.src = some p →
    hd.oseq = p.oseqIn → p.pend = [] → hd.msg = .leave v.vsid rank →
    s.veins.find? (fun e => e.2.vsid == v.vsid) = some (slot, v) → Assoc.find? s.veins slot = some v → rank ∈ v.ranks → rank ≠ v.rank →
    v.sump = [] → v.calm → v.sweep = none → v.evicts = [] → v.cuts = [] → v.reqs = [] →
    ∃ u vt, exec (.fabricPacketReceive hd) s = .next u ∧ u.mem = s.mem ∧ u.threads = s.threads ∧ u.tasks = s.tasks ∧
      Assoc.find? u.veins slot = some vt ∧ vt.members = v.members.filter (fun m => m.1 != rank) ∧ vt.epoch = (v.epoch + 1) % 65536 ∧
      (∀ r, vt.appl.getD r 0 = if r = rank then 0 else v.appl.getD r 0) ∧ vt.stamps = v.stamps ∧ vt.banksman = v.banksman ∧
      vt.applSlot = v.applSlot) ∧
  ∀ s slot v t0 r op t d, Assoc.find? s.veins slot = some v → v.forming = some (t0, r, op) → s.waitsOn r op d t →
    ∃ u, exec (.formTimeout slot) s = .next u ∧ Assoc.find? u.veins slot = none ∧ u.mem = s.mem ∧
      u.clk.time = max s.clk.time (t0 + 10000000) ∧ u.endedWith r op d t 2

/- ## The assay -/

/-- The words of the assay where the task's context has a region: AREF's change of a count, ALD's sector and address, ASWAP
on a root slot, with the Inc of the new root's line before the Dec of the old one's, ASTAT's items, and the operations that ALOOK,
ANAME and AOUT put into a copy slot; with no region they trap ENGINE, and so does ASTAT .root above ROOTN (R348, R349, R356 to R366).
That AOUT takes the line at issue is the model's reading (log entry 49). -/
def Obligations.AssayWords : Prop :=
  let sat := 2 ^ 32 - 1
  let ar := fun (x : Ctx) => x.mayIssue arPre
  let on := fun (x : Ctx) (st : State) (n : Nat) => st.regionOf x.k.asid = some n
  let in_ := fun (x : Ctx) (st : State) => ∃ n, on x st n
  let reads := fun (x : Ctx) (st : State) => x.mayIssue rdPre ∧ in_ x st
  let name := fun (x : Ctx) (a : Opnd) (i : Nat) => leNat (bytesOf ((List.range 4).map fun j => x.gi a (i + j)))
  (∀ f (x : Ctx) (st : State), st.regionOf x.k.asid = none → onRegion f x st = .trap .engine 27 0 0 ∧
    (∀ i h d a b q, aoutIssue i h d a b q x st = .trap .engine 27 0 0) ∧
    ∀ i h nd d a b q c, alookIssue i h nd d a b q c x st = .trap .engine 27 0 0) ∧
  (∀ h d a (delta : BitVec 16), GoesOn (.aref h d a delta) (fun x st => x.mayIssue (if delta = 0 then rdPre else arPre) ∧ in_ x st) fun x st u =>
    ∃ n st1, on x st n ∧ st1 = (if delta = 0 then st else st.commit x.r) ∧ u.mem = st1.mem ∧
      (∀ m, m ≠ n → u.region m = st1.region m) ∧
      (let D := fun (w : Word) => u.thread? x.r = (st1.thread? x.r).map fun t => t.puts (putW d w)
       ((st1.region n).find (name x a 0) = none → D (status 5 0) ∧ u.region n = st1.region n) ∧
       ∀ e, (st1.region n).find (name x a 0) = some e → Assoc.find? (st1.region n).lines e.1 = some e.2 →
        (∀ m, m ≠ e.1 → Assoc.find? (u.region n).lines m = Assoc.find? (st1.region n).lines m) ∧
        ∃ l, Assoc.find? (u.region n).lines e.1 = some l ∧ l.name = e.2.name ∧ l.node = e.2.node ∧
          (0 ≤ delta.toInt → l.count = (if delta = 0 then e.2.count else min (e.2.count + delta.toInt.toNat) sat) ∧ l.live = e.2.live) ∧
          (delta.toInt < 0 → e.2.count = sat ∨ e.2.count < (-delta.toInt).toNat → l = e.2) ∧
          (delta.toInt < 0 → e.2.count ≠ sat → (-delta.toInt).toNat ≤ e.2.count →
            l.count = e.2.count - (-delta.toInt).toNat ∧ (l.live = true ↔ l.count ≠ 0)) ∧
          D (status (if delta = 0 then 0 else if delta.toInt < 0 then
              (if e.2.count = sat then 10 else if e.2.count < (-delta.toInt).toNat then 11 else 0)
            else if l.count = sat then 10 else 0) (min l.count 0xFFFFFF)))) ∧
  (∀ h d a sec, GoesOn (.aldSec h d a sec)
    (fun x st => x.mayIssue rdPre ∧ ∃ n, on x st n ∧ ∀ e, (st.region n).find (name x a 0) = some e → st.poisoned (assayKey n (256 * e.1 + 32 * sec)) 32 = false)
    fun x st u => ∃ n, on x st n ∧ u = st.updThread x.r fun t => t.puts (putG d (match (st.region n).find (name x a 0) with
      | some e => wordsOf 8 (Memory.readN st.mem (assayKey n (256 * e.1 + 32 * sec)) 32)
      | none => List.replicate 8 0))) ∧
  (∀ h d a, GoesOn (.aldAddr h d a) reads fun x st u => ∃ n, on x st n ∧ u = st.updThread x.r fun t => t.puts (putD d (BitVec.ofNat 64
    (match (st.region n).find (name x a 0) with | some e => acfgBase (st.acfg n) + 256 * e.1 | none => 0)))) ∧
  (∀ h d a r (cas : Bool), GoesOn (if cas then .aswapCas h d a r else .aswapSwap h d a r) (fun x st => ar x ∧ in_ x st) fun x st u =>
    ∃ n, on x st n ∧
      let st1 := st.commit x.r
      let slot := (x.w r).toNat
      let old := Assoc.getD (st1.region n).roots 0 slot
      let new := name x a 0
      let D := fun (nm : Nat) (w : Word) =>
        u.thread? x.r = (st1.thread? x.r).map fun t => t.puts (putG d (wordsOf 4 (leBytes 16 nm) ++ [w, 0, 0, 0]))
      u.mem = st1.mem ∧
      (st1.rootN n ≤ slot → D 0 (status 8 4) ∧ u.region n = st1.region n) ∧
      (slot < st1.rootN n → (cas = true ∧ old ≠ name x a 4) → D old (status 0 0) ∧ u.region n = st1.region n) ∧
      (slot < st1.rootN n → (cas = false ∨ old = name x a 4) → new ≠ 0 → (st1.region n).find new = none →
        D old (status 5 0) ∧ u.region n = st1.region n) ∧
      (slot < st1.rootN n → (cas = false ∨ old = name x a 4) → new = 0 ∨ ((st1.region n).find new).isSome →
        (∃ w, D old w ∧ (w = status 0 1 ∨ w = status 10 1)) ∧
        (∀ m, Assoc.getD (u.region n).roots 0 m = if m = slot then new else Assoc.getD (st1.region n).roots 0 m) ∧
        let g := st1.region n
        let at_ := fun (e : Nat × ALine) (P : ALine → Prop) => ∃ l, Assoc.find? (u.region n).lines e.1 = some l ∧ l.name = e.2.name ∧ P l
        (Assoc.wf g.lines = true →
          (∀ e, g.find new = some e → 0 < e.2.count → at_ e fun l => l.live = true ∧
            l.count = if new = old ∧ e.2.count + 1 < sat then e.2.count else min (e.2.count + 1) sat) ∧
          (new ≠ old → ∀ e, g.find old = some e → 0 < e.2.count → at_ e fun l => (l.live = true ↔ e.2.count ≠ 1) ∧
            l.count = if e.2.count = sat then sat else e.2.count - 1) ∧
          ∀ j, (∀ e, g.find new = some e ∨ g.find old = some e → e.1 ≠ j) → Assoc.find? (u.region n).lines j = Assoc.find? g.lines j))) ∧
  (∀ h d a, GoesOn (.astatCount h d a) reads fun x st u => ∃ n, on x st n ∧ u = st.updThread x.r fun t => t.puts (putW d (BitVec.ofNat 32
    (match (st.region n).find (name x a 0) with | some e => e.2.count | none => 0)))) ∧
  (∀ h d, GoesOn (.astatFree h d) reads fun x st u => ∃ n, on x st n ∧ u = st.updThread x.r fun t => t.puts (putD d (BitVec.ofNat 64
    (acfgBytes (st.acfg n) / 256 - (st.region n).lines.length)))) ∧
  (∀ h d, GoesOn (.astatUsed h d) reads fun x st u => ∃ n, on x st n ∧ u = st.updThread x.r fun t => t.puts (putD d (BitVec.ofNat 64
    ((st.region n).lines.filter fun e => e.2.live).length))) ∧
  (∀ h d, GoesOn (.astatPend h d) reads fun x st u => ∃ n, on x st n ∧ u = st.updThread x.r fun t => t.puts (putD d (BitVec.ofNat 64
    ((st.region n).lines.filter fun e => !e.2.live).length))) ∧
  (∀ h d, GoesOn (.astatCollide h d) reads fun x st u => ∃ n, on x st n ∧ u = st.updThread x.r fun t =>
    t.puts (putW d (BitVec.ofNat 32 (st.region n).collide))) ∧
  (∀ h d a, GoesOn (.astatRoot h d a) (fun x st => x.mayIssue rdPre ∧ ∃ n, on x st n ∧ (x.w a).toNat < st.rootN n) fun x st u => ∃ n, on x st n ∧
    u = st.updThread x.r fun t => t.puts (putG d (wordsOf 4 (leBytes 16 (Assoc.getD (st.region n).roots 0 (x.w a).toNat))))) ∧
  (∀ h d a, Traps (.astatRoot h d a) (fun x st => x.mayIssue rdPre ∧ ∃ n, on x st n ∧ st.rootN n ≤ (x.w a).toNat) .engine 28 fun _ => 0) ∧
  (∀ h (node : Bool) d a b q (changes : Bool), (changes = true ∨ q = none) →
    let qs := fromSide q
    GoesOn (if changes then .alook h node d a b q else .aname h node d a b)
      (fun x st => in_ x st ∧ x.mayIssue (assayPre a qs changes false) ∧ assayBad x.k (assayAddr x a qs) qs = none ∧
        assayServed x h a qs = true ∧ (q = none → rangeClaimed x (((x.d a).toNat : Int), ((x.d a).toNat : Int) + 256) false = true) ∧
        (q = none → (if changes then st.commit x.r else st).assayFault x.k.asid (x.d a).toNat false = none) ∧
        (st.task? x.r.core x.r.slot).isSome)
      fun x st u => ∃ st1 k c, st1 = (if changes then st.commit x.r else st) ∧ st1.task? x.r.core x.r.slot = some k ∧
        Assoc.find? (u.core x.r.core).copies (st1.freeCopySlot x.r.core) = some c ∧ c.id = st1.nextId ∧ c.uid = k.uid ∧
        c.thr = x.r.thr ∧ c.total = 256 ∧ (∃ nr, c.alook = some (node, nr, changes) ∧ ∀ m, b = .v m → nr = m) ∧
        (q = none → c.moves = [((x.d a).toNat, (x.d a).toNat, 256)]) ∧ u.mem = st1.mem ∧ u.regions = st1.regions ∧
        u.pending x.r st1.nextId d) ∧
  (∀ h d a b q,
    let qs := gathSide q
    GoesOn (.aout h d a b q)
      (fun x st => x.mayIssue (assayPre a qs false true) ∧ assayBad x.k (assayAddr x a qs) qs = none ∧
        assayServed x h a qs = true ∧ (q = none → rangeClaimed x (((x.d a).toNat : Int), ((x.d a).toNat : Int) + 256) true = true) ∧
        (q = none → st.assayFault x.k.asid (x.d a).toNat true = none) ∧
        (st.task? x.r.core x.r.slot).isSome ∧ ∃ n, on x st n)
      fun x st u => ∃ st1 n, st1 = (if q.isNone && decide ((x.d a).toNat < privBase) then st.commit x.r else st) ∧ on x st n ∧
        u.mem = st1.mem ∧ u.regions = st1.regions ∧
        ((st1.region n).find (name x b 0) = none → u = st1.updThread x.r fun t => t.puts (putW d (status 5 0))) ∧
        ∀ e, (st1.region n).find (name x b 0) = some e → u.pending x.r st1.nextId d ∧
          ∃ c, Assoc.find? (u.core x.r.core).copies (st1.freeCopySlot x.r.core) = some c ∧ c.id = st1.nextId ∧ c.total = 256 ∧
            c.aout = some (Memory.readN st1.mem (assayKey n (256 * e.1)) 256, e.2.node,
              (List.range 32).filter fun i => st1.poisoned (assayKey n (256 * e.1) + 8 * i) 8))

/-- The assay's atomic steps: ALOOK counts a name that stands, enters one that does not, a node with each occurrence of its
children counted in the same step, and answers COLLIDE for the null name and where the bytes differ; with no free line it waits for
lines being reclaimed, or answers ABSENT; a line that leaves the index gives up its children one at a time and then its bytes; a region that is enabled or
disabled is empty (R343, R347 to R350, R357). Which free line is taken is a free value (log entry 6), and one step of the reclaim
walk is one event, children in ascending place (log entry 41). -/
def Obligations.AssaySteps : Prop :=
  let sat := 2 ^ 32 - 1
  (∀ (s : State) n node bs, s.alookStep n node bs = s.alookAt n node (s.nameOf n bs) bs) ∧
  (∀ (s : State) n node nm bs e, nm ≠ 0 → (s.region n).find nm = some e →
    Assoc.find? (s.region n).lines e.1 = some e.2 →
    (s.linePoison n e.1 = false → s.lineBytes n e.1 = bs → e.2.node = node →
      ∃ u, s.alookAt n node nm bs = some (u, status (if min (e.2.count + 1) sat = sat then 10 else 0) (if node then 2 else 0)) ∧
        u.mem = s.mem ∧ ∀ m, Assoc.find? (u.region n).lines m =
          if m = e.1 then some { e.2 with count := min (e.2.count + 1) sat } else Assoc.find? (s.region n).lines m) ∧
    (s.linePoison n e.1 = true ∨ s.lineBytes n e.1 ≠ bs ∨ e.2.node ≠ node →
      ∃ u, s.alookAt n node nm bs = some (u, status 6 (if s.linePoison n e.1 = true then 2 else 0)) ∧ u.mem = s.mem ∧
        (u.region n).lines = (s.region n).lines ∧ (u.region n).collide = min ((s.region n).collide + 1) sat)) ∧
  (∀ (s : State) n nm bs, nm ≠ 0 → (s.region n).find nm = none → bs.length = 256 →
    (s.freeLine n).isSome →
    ∃ u l, s.alookAt n false nm bs = some (u, status 0 1) ∧ Assoc.find? (s.region n).lines l = none ∧
      (∀ m, Assoc.find? (u.region n).lines m = if m = l then
        some { name := nm, node := false, count := 1, live := true, kids := [] } else Assoc.find? (s.region n).lines m) ∧
      Memory.readN u.mem (assayKey n (256 * l)) 256 = bs ∧
      ∀ a, a < assayKey n (256 * l) ∨ assayKey n (256 * l) + 256 ≤ a → Memory.read u.mem a = Memory.read s.mem a) ∧
  (∀ (s : State) n nm bs i, nm ≠ 0 → (s.region n).find nm = none → (s.region n).missingChild bs = some i →
    s.alookAt n true nm bs = some (s, status 5 i)) ∧
  (∀ (s : State) n nm bs, nm ≠ 0 → (s.region n).find nm = none → (s.region n).missingChild bs = none →
    bs.length = 256 → (s.freeLine n).isSome → Assoc.wf (s.region n).lines = true →
    let times := fun (m : Nat) => ((childNames bs).filter fun c => ((s.region n).find c).any fun e => e.1 == m).length
    ∃ u l w, s.alookAt n true nm bs = some (u, w) ∧ Assoc.find? (s.region n).lines l = none ∧
      Assoc.find? (u.region n).lines l = some { name := nm, node := true, count := 1, live := true, kids := [] } ∧
      (∀ m, m ≠ l → Assoc.find? (u.region n).lines m = (Assoc.find? (s.region n).lines m).map fun c =>
        if times m = 0 then c else { c with count := min (c.count + times m) sat }) ∧
      ((∃ m c, m ≠ l ∧ times m ≠ 0 ∧ Assoc.find? (u.region n).lines m = some c ∧ c.count = sat) → w = status 10 3) ∧
      ((∀ m c, m ≠ l → times m ≠ 0 → Assoc.find? (u.region n).lines m = some c → c.count ≠ sat) → w = status 0 3) ∧
      Memory.readN u.mem (assayKey n (256 * l)) 256 = bs) ∧
  (∀ (s : State) n node bs, ∃ u, s.alookAt n node 0 bs = some (u, status 6 1) ∧ u.mem = s.mem ∧
    (u.region n).lines = (s.region n).lines ∧ (u.region n).collide = min ((s.region n).collide + 1) sat) ∧
  (∀ (s : State) n node nm bs, nm ≠ 0 → (s.region n).find nm = none →
    (node = true → (s.region n).missingChild bs = none) → s.capacity n ≤ (s.region n).lines.length →
    s.alookAt n node nm bs = if (s.region n).lines.any fun e => !e.2.live then none else some (s, status 5 0x010000)) ∧
  (∀ s n line l kid rest c, Assoc.find? (s.region n).lines line = some l → l.live = false → l.kids = kid :: rest → kid ≠ line →
    Assoc.find? (s.region n).lines kid = some c → 1 < c.count → c.count ≠ sat →
    ∃ u, exec (.assayReclaimStep n line) s = .next u ∧ u.mem = s.mem ∧ u.threads = s.threads ∧ u.tasks = s.tasks ∧
      ∀ m, Assoc.find? (u.region n).lines m = if m = line then some { l with kids := rest }
        else if m = kid then some { c with count := c.count - 1 } else Assoc.find? (s.region n).lines m) ∧
  (∀ s n line l, Assoc.find? (s.region n).lines line = some l → l.live = false → l.kids = [] →
    ∃ u, exec (.assayReclaimStep n line) s = .next u ∧ Assoc.find? (u.region n).lines line = none ∧
      (∀ m, m ≠ line → Assoc.find? (u.region n).lines m = Assoc.find? (s.region n).lines m) ∧
      Memory.readN u.mem (assayKey n (256 * line)) 256 = List.replicate 256 0 ∧ u.threads = s.threads ∧ u.tasks = s.tasks ∧
      ∀ a, a < assayKey n (256 * line) ∨ assayKey n (256 * line) + 256 ≤ a → Memory.read u.mem a = Memory.read s.mem a) ∧
  ∀ s n v, (acfgEn v = true ∧ s.regionOk n v = true) ∨ (acfgEn v = false ∧ acfgEn (s.acfg n) = true ∧ s.assayBusy (acfgAsid (s.acfg n)) = false) →
    ∃ u, exec (if acfgEn v then .assayRegionEnable n v else .assayRegionDisable n v) s = .next u ∧
      u.acfg n = (if acfgEn v then v else v &&& 0xFFFFFFFFC000FFFF) ∧
      (∀ m, m ≠ n → u.acfg m = s.acfg m ∧ u.region m = s.region m) ∧ u.region n = { lines := [], roots := [], collide := 0 } ∧
      (∀ off < 2 ^ 36, Memory.read u.mem (assayKey n off) = 0) ∧ u.threads = s.threads ∧ u.tasks = s.tasks ∧
      ∀ a, a < assayKey n 0 ∨ assayKey n 0 + 2 ^ 36 ≤ a → Memory.read u.mem a = Memory.read s.mem a

/- ## Queues and launches -/

/-- LAUNCH: an aligned, readable, claimed header goes after the thread's commit into the device queue of its context: with no
queue, or a halted one, D takes ABSENT; with no room QFULL; else the packet stands in the ring, after a pad where the ring ends
too soon, WPTR has passed it, and D takes its place in the ring, or under .wait stays pending for the child; a ring that can't be
written gives ABSENT; a misaligned header traps ALIGN (R387, R388). The model's choice: ABSENT where the ring can't be written (log
entry 54), and the wait at an absent header page (log entry 73). -/
def Obligations.LaunchPutsAPacket : Prop :=
  ∀ h (wait : Bool) d a, Traps (.launch h wait d a)
    (fun x _ => x.s.mayCommit x.k x.t = true ∧ x.s.ringReady x.k 1 = true ∧ (x.d a).toNat % 8 ≠ 0) .align 0 (fun x => x.d a) ∧
  GoesOn (.launch h wait d a)
    (fun x st => x.s.mayCommit x.k x.t = true ∧ (x.d a).toNat % 8 = 0 ∧ x.s.hdrReady x.k x (x.d a).toNat = true ∧
      x.s.ringReady x.k 1 = true ∧ (∀ j < 36, ∃ p, x.check ((x.d a).toNat + 8 * j) 8 false = .ok p) ∧
      ∃ k bs, (st.commit x.r).task? x.r.core x.r.slot = some k ∧ (st.commit x.r).readHdr k x (x.d a).toNat = .got bs false)
    fun x st u => ∃ k bs,
      let st1 := (List.range 36).foldl (fun s1 j => s1.copyTouch k.asid ((x.d a).toNat + 8 * j)) (st.commit x.r)
      let ends := fun (st2 : State) (w : Word) => u = st2.updThread x.r fun t => t.puts (putW d w)
      (st.commit x.r).task? x.r.core x.r.slot = some k ∧ (st.commit x.r).readHdr k x (x.d a).toNat = .got bs false ∧ bs.length = 288 ∧
      (st1.devQueue k.asid = none → ends st1 (status 5 0)) ∧
      ∀ n e, st1.devQueue k.asid = some (n, e) →
        let size := 2 ^ e.logsz
        let pad := if size < e.wptr % size + 320 then size - e.wptr % size else 0
        (e.halt = true → ends st1 (status 5 0)) ∧
        (e.halt = false → size - e.fill < pad + 320 → ends st1 (status 3 0)) ∧
        (e.halt = false → pad + 320 ≤ size - e.fill → st1.ringPut n e pad bs = none → ends st1 (status 5 0)) ∧
        (e.halt = false → pad + 320 ≤ size - e.fill → ∀ st2, st1.ringPut n e pad bs = some st2 →
          Assoc.find? st2.agents.cache n = some { e with wptr := (e.wptr + pad + 320) % 2 ^ 64 } ∧
          (wait = false → ends st2 (status 0 ((e.wptr + pad) % 2 ^ 64 / 64))) ∧
          (wait = true → u.mem = st2.mem ∧ u.agents.cache = st2.agents.cache ∧ u.pending x.r st2.nextId d ∧
            u.agents.lwaits = st2.agents.lwaits ++
              [{ queue := n, ptr := (e.wptr + pad) % 2 ^ 64, parent := x.r, op := st2.nextId, uid := k.uid }])) ∧
        let words := fun i => if i = 0 then leBytes 8 0x501 else if i < 4 then List.replicate 8 0 else (bs.drop (8 * (i - 4))).take 8
        let stores := (if pad = 0 then [] else [(e.rbase + e.wptr % size, leBytes 8 (pad / 64 * 256 + 2))]) ++
          (List.range 40).map fun i => (e.rbase + (e.wptr + pad) % size + 8 * i, words i)
        ∀ (q : Nat → State) (key : Nat → Nat), q 0 = st1 →
          (∀ i y, stores[i]? = some y → (∃ cls g, (q i).translate e.asid y.1 .w = .ok (key i) cls g ∧ cls ≤ 1) ∧
            (∀ c, (q i).homeOf (key i) ≠ .peer c) ∧ (q i).devStoreCoh e.asid y.1 y.2 = some (q (i + 1))) →
          (∀ i j, i < j → j < stores.length → key i + 8 ≤ key j ∨ key j + 8 ≤ key i) →
          (st1.agents.cache.filter fun y => y.1 % 512 == n % 512 && y.1 != n).length < 8 →
          ∃ st2, st1.ringPut n e pad bs = some st2 ∧ (∀ i y, stores[i]? = some y → Memory.readN st2.mem (key i) 8 = y.2) ∧
            ∀ b, (∀ i < stores.length, b < key i ∨ key i + 8 ≤ b) → Memory.read st2.mem b = Memory.read st1.mem b

/-- PACKET_CLAIM, on a core of a cluster in service: a packet that is malformed halts its queue with the code and a record of kind 6, a pad is passed, and a
launch with a good header and no claims becomes a record that waits for its dependences, one with a bad header is rejected, and one whose
code page is absent waits for its ticket; an entry cache whose set is full writes another entry back; DEPENDENCE_POLL makes a
launch placeable, and COMPLETION_SIGNAL_WRITE ends it with its signal (R368, R377 to R383, R400, R460, R471). The model's choice: the
entry given up (log entry 77), the ticket's free number being the lowest (log entry 42), the record's fields (log entries 53, 83). -/
def Obligations.PacketsBecomeLaunches : Prop :=
  let room := fun (s : State) (n : Nat) => (s.agents.cache.filter fun e => e.1 % 512 == n % 512 && e.1 != n).length < 8
  (∀ s core, (core / 8) ∈ s.plat.clOff ∨ s.coresRun = false → exec (.packetClaim core) s = .next s) ∧
  (∀ s core n e, (core / 8) ∉ s.plat.clOff → s.coresRun = true → s.fab.acache = [] → s.nextQueue = some (n, e) →
    (∀ code, s.packetAt e = .halt code → ∃ u rec, exec (.packetClaim core) s = .next u ∧
      Assoc.find? u.agents.cache n = some { e with halt := true, hcode := code } ∧ (room s n → u.mem = s.mem) ∧ u.threads = s.threads ∧
      (¬room s n → ∃ x ∈ s.agents.cache, x.1 ≠ n ∧ x.1 % 512 = n % 512 ∧ Assoc.find? u.agents.cache x.1 = none ∧
        ∀ key cls g, s.translate 0 (s.qtabBase + 256 * x.1) .w = .ok key cls g → Memory.readN u.mem key 256 = x.2.bytes) ∧
      Assoc.find? u.dlog (s.dseq % 16384) = some rec ∧ rec.kind = 6 ∧ rec.asid = e.asid ∧ rec.arg0 = n ∧ rec.arg1 = code) ∧
    (room s n → (∀ len, s.packetAt e = .pad len → e.rpa = 0 → ∃ u e', exec (.packetClaim core) s = .next u ∧
      Assoc.find? u.agents.cache n = some e' ∧ e'.rptr = (e.rptr + len) % 2 ^ 64 ∧ e'.wptr = e.wptr ∧ u.mem = s.mem ∧
      u.agents.launches = s.agents.launches) ∧
    (∀ bs, s.packetAt e = .launch → e.rpa = 0 → s.devBytes e.asid (e.addr e.rptr + 32) 288 = some bs →
      let hd := hdrParse (rdBytes bs)
      (∀ x ∈ hd.codeAt, s.devBusy e.asid x.2 .x = false ∧ s.forwarded e.asid x.2 .x = false) → s.devBusy e.asid hd.csig .w = false →
      (∀ a ∈ hd.dsig.take hd.ndep, s.devBusy e.asid a .r = false) →
      (∀ va i, hd.entc = va → va % 8 = 0 → va < 2 ^ 57 → s.ctxEn e.asid = true → s.hosten e.asid = false → i < 4096 →
        (∀ j < i, ∃ t, Assoc.find? s.agents.tickets j = some t ∧ t.open_ = true) → Assoc.find? s.agents.tickets i = none →
        (∀ t ∈ s.agents.tickets, t.2.lnum ≠ some s.agents.nextLnum) → (∃ anon pte, s.translate e.asid va .x = .absent anon pte) →
        ∃ u t l, exec (.packetClaim core) s = .next u ∧ u.mem = s.mem ∧
          Assoc.find? u.agents.tickets i = some t ∧ t.open_ = true ∧ t.lnum = some s.agents.nextLnum ∧ t.asid = e.asid ∧ t.va = va ∧
          Assoc.find? u.agents.launches s.agents.nextLnum = some l ∧ l.st = .check) ∧
      (s.validate e.asid bs = none → hd.nclm = 0 → ∃ u e' l, exec (.packetClaim core) s = .next u ∧
        Assoc.find? u.agents.cache n = some e' ∧ e'.rptr = (e.rptr + 320) % 2 ^ 64 ∧ e'.nlau = (e.nlau + 1) % 2 ^ 64 ∧
        u.agents.nextLnum = (s.agents.nextLnum + 1) % 2 ^ 32 ∧ u.mem = s.mem ∧ u.tasks = s.tasks ∧ u.threads = s.threads ∧
        Assoc.find? u.agents.launches s.agents.nextLnum = some l ∧ l.asid = e.asid ∧ l.queue = n ∧ l.hd = hd ∧ l.st = .deps ∧
        l.prio = min hd.prio e.prio ∧ l.counter = 0 ∧ l.ended = 0 ∧ l.count = (hd.ext.drop hd.tl).foldl (fun a b => a * b) 1) ∧
      (∀ w, s.validate e.asid bs = some w → hd.csig = 0 → s.agents.lwaits = [] →
        (∀ x ∈ hd.codeAt, ∀ anon pte, s.translate e.asid x.2 .x ≠ .absent anon pte) → ∃ u e', exec (.packetClaim core) s = .next u ∧
        Assoc.find? u.agents.cache n = some e' ∧ e'.rptr = (e.rptr + 320) % 2 ^ 64 ∧ u.mem = s.mem ∧ u.threads = s.threads ∧
        Assoc.find? u.agents.launches s.agents.nextLnum = none)))) ∧
  (∀ s lnum l, Assoc.find? s.agents.launches lnum = some l → l.st = .deps →
    (∃ a ∈ l.hd.dsig.take l.hd.ndep, s.devBusy l.asid a .r = true ∨ ∀ v, s.devLoad l.asid a 8 = some v → v.testBit 31 = false) →
    exec (.dependencePoll lnum) s = .next s) ∧
  (∀ s lnum l, Assoc.find? s.agents.launches lnum = some l → l.st = .deps → s.fab.acache = [] →
    (∀ a ∈ l.hd.dsig.take l.hd.ndep, s.devBusy l.asid a .r = false ∧ ∃ v, s.devLoad l.asid a 8 = some v ∧ v.testBit 31 = true) →
    ∃ u, exec (.dependencePoll lnum) s = .next u ∧ Assoc.find? u.agents.launches lnum =
      some { l with st := .placeable, counter := 0, since := s.clk.time, readyAt := s.clk.time } ∧
      u = { s with agents := { s.agents with launches := u.agents.launches } } ∧
      ∀ m, m ≠ lnum → Assoc.find? u.agents.launches m = Assoc.find? s.agents.launches m) ∧
  (∀ s lnum l, Assoc.find? s.agents.launches lnum = some l → l.hd.csig ≠ 0 → s.storeWaits l.asid l.hd.csig = true →
    exec (.completionSignalWrite lnum) s = .next s) ∧
  ∀ s lnum l, Assoc.find? s.agents.launches lnum = some l → l.st = .placeable → l.count ≤ l.ended → l.parent = none → l.reject = none →
    l.hd.csig = 0 ∨ s.storeWaits l.asid l.hd.csig = false → ∃ u, exec (.completionSignalWrite lnum) s = .next u ∧ Assoc.find? u.agents.launches lnum = none ∧
      Assoc.find? u.agents.leases lnum = none ∧ u.tasks = s.tasks ∧ u.threads = s.threads ∧
      (l.hd.csig = 0 → u.mem = s.mem) ∧
      ∀ key cls g, l.hd.csig ≠ 0 → s.translate l.asid l.hd.csig .w = .ok key cls g → cls ≤ 1 → (∀ c, s.homeOf key ≠ .peer c) →
        Memory.readN u.mem key 8 = leBytes 8 (lnum * 2 ^ 32 + (status 0 l.trapped).toNat) ∧
        ∀ a, a < key ∨ key + 8 ≤ a → Memory.read u.mem a = Memory.read s.mem a

/-- Wake writes at the port and QTAB: a write that is not whole is dropped and counted; one whose seal does not hold is dropped
and its master frozen; a sealed wake with its rights, of a trusted master too, or a plain one of a trusted master, reads the
producer's word into WPTR; one with RESUME makes a halted queue go on from there, RPTR published; a word that can't be read halts
the queue; QTAB is set only while it is disabled, and disabling it writes the entry cache back and empties it (R367, R368, R372 to
R375, R379). -/
def Obligations.WakesAndTheQueueTable : Prop :=
  let room := fun (s : State) (n : Nat) => (s.agents.cache.filter fun e => e.1 % 512 == n % 512 && e.1 != n).length < 8
  (∀ s m cap, s.up = true → s.masterFrozen m = false → ∃ u, exec (.wakeWrite m false cap) s = .next u ∧
    u = { s with plat := { s.plat with portDrops := s.plat.portDrops + 1 } }) ∧
  (∀ s n b cap (plain : Bool), s.up = true → (s.hart n).frozen = none → (b && s.qtabPlain && plainForm cap) = false → capMac cap ≠ s.seal cap →
    room s (capQidx cap) → ∃ u, exec (if plain then .plainWake (.hart n b) cap else .wakeWrite (.hart n b) true cap) s = .next u ∧
      (u.hart n).frozen = some s.clk.time ∧ u.mem = s.mem ∧ u.threads = s.threads ∧
      ∃ rec, Assoc.find? u.dlog (s.dseq % 16384) = some rec ∧ rec.kind = 3 ∧ rec.arg1 = 2 ^ 60 + n) ∧
  (∀ s m cap e (plain : Bool), s.up = true → s.masterFrozen m = false → s.plat.power ≠ .s2 → s.fab.acache = [] →
    s.qEnabled (capQidx cap) = some e → e.dev = false → s.devBusy e.asid e.wpa .r = false → room s (capQidx cap) →
    (if plain then Master.trusted m = true ∧ s.qtabPlain = true ∧ plainForm cap = true ∧ capRights cap / 4 = 0
     else (Master.trusted m && s.qtabPlain && plainForm cap) = false ∧ capMac cap = s.seal cap ∧ capRights cap / 4 = 0 ∧
       capRights cap % 2 = 1 ∧ s.masterAsid m = some (capOasid cap) ∧ capOasid cap = e.asid ∧ capNonce cap = e.nonce ∧
       capLogsz cap = e.logsz ∧ capBase cap = e.rbase) →
    let write : Instr := if plain then .plainWake m cap else .wakeWrite m true cap
    let e1 := { e with wakes := min (e.wakes + 1) (2 ^ 32 - 1) }
    (e.halt = true → plain = true ∨ capRights cap < 2 → ∃ u, exec write s = .next u ∧ u.mem = s.mem ∧ u.threads = s.threads ∧
      u.tasks = s.tasks ∧ Assoc.find? u.agents.cache (capQidx cap) = some { e with badw := min (e.badw + 1) (2 ^ 32 - 1) }) ∧
    (e.halt = false ∨ (plain = false ∧ 2 ≤ capRights cap) → ∃ u, exec write s = .next u ∧ u.threads = s.threads ∧ u.tasks = s.tasks ∧
      (∀ c < 192, (u.core c).idleEvents = (s.core c).idleEvents ||| 1) ∧
      (e.wpa % 8 ≠ 0 ∨ s.devLoad e.asid e.wpa 8 = none →
        Assoc.find? u.agents.cache (capQidx cap) = some { e1 with halt := true, hcode := 4 } ∧ u.mem = s.mem) ∧
      ∀ w, s.devLoad e.asid e.wpa 8 = some w → e.wpa % 8 = 0 →
        (e.halt = false → Assoc.find? u.agents.cache (capQidx cap) = some { e1 with wptr := w } ∧ u.mem = s.mem) ∧
        (e.halt = true → Assoc.find? u.agents.cache (capQidx cap) = some { e1 with wptr := w, rptr := w, halt := false, hcode := 0 } ∧
          (e.rpa = 0 → u.mem = s.mem) ∧
          ∀ key cls g, e.rpa ≠ 0 → s.translate e.asid e.rpa .w = .ok key cls g → cls ≤ 1 → (∀ c, s.homeOf key ≠ .peer c) →
            Memory.readN u.mem key 8 = leBytes 8 w ∧ ∀ a, a < key ∨ key + 8 ≤ a → Memory.read u.mem a = Memory.read s.mem a))) ∧
  (∀ s (v : DWord) (q : Nat → State) (key : Nat → Nat), s.qtabEn = true → v.getLsbD 63 = false → fld v.toNat 57 5 ≤ 20 → q 0 = s →
    (∀ i y, s.agents.cache[i]? = some y → q (i + 1) = (q i).qWriteBack y.1 y.2 ∧
      ∃ cls g, (q i).translate 0 (s.qtabBase + 256 * y.1) .w = .ok (key i) cls g) →
    (∀ i j, i < j → j < s.agents.cache.length → key i + 256 ≤ key j ∨ key j + 256 ≤ key i) →
    ∃ u, exec (.qtabWrite v) s = .next u ∧
      (∀ i y, s.agents.cache[i]? = some y → Memory.readN u.mem (key i) 256 = y.2.bytes) ∧
      ∀ a, (∀ i < s.agents.cache.length, a < key i ∨ key i + 256 ≤ a) → Memory.read u.mem a = Memory.read s.mem a) ∧
  ∀ s v, ∃ u, exec (.qtabWrite v) s = .next u ∧
    ((s.qtabEn = true ∧ v.getLsbD 63 = true) ∨ 20 < fld v.toNat 57 5 → u = s) ∧
    (s.qtabEn = false → fld v.toNat 57 5 ≤ 20 → u = { s with regs := { s.regs with qtab := v >>> 8 <<< 8 } }) ∧
    (s.qtabEn = true → v.getLsbD 63 = false → fld v.toNat 57 5 ≤ 20 → u.regs.qtab = v >>> 8 <<< 8 ∧ u.agents.cache = [] ∧
      u.threads = s.threads ∧ u.tasks = s.tasks)

/- ## Placement, system registers and the firmware's words -/

/-- Placing: a new task stands in the slot with its launch's fields, its threads at their roles' entries with registers,
predicates and flags zero and the stack pointer at the top of the private area; a restored one is as it was saved. The agent
chooses, PLACE names what to place and answers the slot (R18, R384, R416, R424). The model's choice: where a saved task is kept and
what a save keeps of it (log entries 59, 94), and the first free slot (log entry 42). -/
def Obligations.TasksArePlaced : Prop :=
  let apart := fun (s : State) (asid : Nat) (hd : LHdr) => ∀ k1 c1 g1 k2 c2 g2, s.translate asid hd.entc .x = .ok k1 c1 g1 →
    s.translate asid hd.entp .x = .ok k2 c2 g2 → frameOf k1 = frameOf k2 → (0 < g1 ↔ 0 < g2)
  let fresh := fun (s u : State) (core slot lnum asid tidx prio : Nat) (hd : LHdr) =>
    ∃ k, u.task? core slot = some k ∧ k.lnum = lnum ∧ k.asid = asid ∧ k.tidx = tidx ∧ k.prio = prio ∧ k.hd = hd ∧ k.nthr = hd.nthr ∧
      k.version = [] ∧ k.scratch = [] ∧ k.tiles = [] ∧ k.ks = [] ∧ k.qs = [] ∧ u.mem = s.mem ∧
      ∀ i < hd.nthr, ∃ t, u.thread? ⟨core, slot, i⟩ = some t ∧ t.regs = [] ∧ t.preds = 0 ∧ t.ended = false ∧ t.inh = false ∧
        t.csp = BitVec.ofNat 64 (0x01FFE00000000000 + hd.privb) ∧
        ∀ w, apart s asid hd → s.threadsOf core slot = [] → s.headerAt k (BitVec.ofNat 64 (if i / 64 < hd.crwp then hd.entp else hd.entc)).toNat = .ok w →
          t.pc = BitVec.ofNat 64 (if i / 64 < hd.crwp then hd.entp else hd.entc) + 8
  let back := fun (s u : State) (core slot addr : Nat) (v : Saved) => Assoc.find? u.agents.saved addr = none ∧ u.mem = s.mem ∧
    (∃ k, u.task? core slot = some k ∧ k.uid = v.task.uid ∧ k.hd = v.task.hd ∧ k.scratch = v.task.scratch ∧
      k.tiles = v.task.tiles ∧ k.version = v.task.version ∧ k.ks = v.task.ks ∧ k.qs = v.task.qs ∧ k.allot = v.task.allot) ∧
    ∀ i t, Assoc.find? v.threads i = some t → ∃ t', u.thread? ⟨core, slot, i⟩ = some t' ∧ SameFile t' t ∧ t'.pc = t.pc ∧
      t'.wait = t.wait ∧ t'.ops = t.ops
  (∀ s core slot lnum l, s.pick core = some (lnum, l) → s.freeSlot core = some slot →
    (s.savedOf lnum = none → Assoc.find? s.agents.launches lnum = some l →
      ∃ u l', exec (.taskPlacementChoice core) s = .next u ∧ fresh s u core slot lnum l.asid l.counter l.prio l.hd ∧
        Assoc.find? u.agents.launches lnum = some l' ∧ l'.counter = l.counter + 1 ∧ l'.placed = true) ∧
    ∀ addr v, s.savedOf lnum = some (addr, v) → Assoc.find? s.agents.saved addr = some v → Assoc.wf v.threads = true →
      v.task.ro = [] → (∀ mb t, v.task.mt mb = some t → t.src = 0) → ∃ u, exec (.taskPlacementChoice core) s = .next u ∧ back s u core slot addr v) ∧
  (∀ h d a, GoesOn (.placeTask h d a)
    (fun x st => x.r.slot = fwSlot ∧ x.t.ops.any Op.openStore = false ∧ ∃ bs slot, st.localBytes x.k (x.gp a 0).toNat 296 = some bs ∧
      st.validate (rdBytes bs 0x124 2) bs = none ∧ (x.gp a 2).toNat < (hdrParse (rdBytes bs)).tasks ∧
      st.lacks x.r.core (hdrParse (rdBytes bs)).nthr (hdrParse (rdBytes bs)).units (hdrParse (rdBytes bs)).nomatrix = [] ∧
      st.freeSlot x.r.core = some slot)
    fun x st u => ∃ bs slot, st.localBytes x.k (x.gp a 0).toNat 296 = some bs ∧ st.freeSlot x.r.core = some slot ∧
      (∃ prio, fresh st u x.r.core slot (rdBytes bs 0x120 4) (rdBytes bs 0x124 2) (x.gp a 2).toNat prio (hdrParse (rdBytes bs))) ∧
      ∀ t0, st.thread? x.r = some t0 → ∃ t, u.thread? x.r = some t ∧ SameFile t (t0.puts (putW d (status 0 slot)))) ∧
  ∀ h d a, GoesOn (.placeRestore h d a)
    (fun x st => x.t.ops.any Op.openStore = false ∧ ∃ bs v slot, st.localBytes x.k (x.gp a 0).toNat 296 = some bs ∧
      Assoc.find? st.agents.saved (x.gp a 2).toNat = some v ∧ rdBytes bs 0x120 4 = v.task.lnum ∧ rdBytes bs 0x124 2 = v.task.asid ∧
      hdrParse (rdBytes bs) = v.task.hd ∧ v.task.vein = false ∧ v.task.ro = [] ∧ (∀ mb t, v.task.mt mb = some t → t.src = 0) ∧ Assoc.wf v.threads = true ∧
      st.lacks x.r.core v.task.nthr v.task.units v.task.hd.nomatrix = [] ∧ st.freeSlot x.r.core = some slot)
    fun x st u => ∃ v slot, Assoc.find? st.agents.saved (x.gp a 2).toNat = some v ∧ st.freeSlot x.r.core = some slot ∧
      ((∀ i t, Assoc.find? v.threads i = some t → thrKey ⟨x.r.core, slot, i⟩ ≠ thrKey x.r) →
        back st u x.r.core slot (x.gp a 2).toNat v ∧
        ∀ t0, st.thread? x.r = some t0 → ∃ t, u.thread? x.r = some t ∧ SameFile t (t0.puts (putW d (status 0 slot))))

/-- SYSRD and SYSWR, TLBINV, the parameters' ranges, and TSTATE's items: what each register reads as, that a value outside its
range leaves it as it was, that a write of TPC counts only in the handler and sets MOD (R396, R418, R420, R421, R428). -/
def Obligations.SystemRegisters : Prop :=
  (∀ h w d reg, GoesOn (.sysrd h w d reg) (fun x _ => reg ≠ 0 ∨ x.t.strongOut = false)
    (Writes fun x _ => if w then putD d (BitVec.ofNat 64 (x.sysReg reg)) else putW d (BitVec.ofNat 32 (x.sysReg reg)))) ∧
  (∀ x : Ctx, x.sysReg 0 = x.t.sstat.toNat ∧ x.sysReg 1 = x.k.drophint ∧ x.sysReg 4 = x.k.lnum ∧ x.sysReg 5 = x.k.tidx ∧
    (∀ i < 16, x.sysReg (0x10 + i) = match x.k.peers[i]? with | some c => 2 ^ 31 + c | none => 0) ∧
    x.sysReg 0x100 = x.s.clk.time ∧ x.sysReg 0x101 = x.s.inc.toNat * 2 ^ 16 + x.s.chip.toNat ∧ x.sysReg 0x102 = x.s.regs.qtab.toNat ∧
    x.sysReg 0x103 = 0 ∧ x.sysReg 0x104 = 0 ∧ x.sysReg 0x106 = 0 ∧ x.sysReg 0x10F = x.s.agents.pool.length ∧
    x.sysReg 0x200 = (x.s.core x.r.core).tfair ∧ x.sysReg 0x201 = (x.s.core x.r.core).thold) ∧
  (∀ h w a reg, GoesOn (.syswr h w a reg) (fun x _ => x.mayIssue (syswrPre w a reg)) fun x st u =>
    let v : DWord := if w then x.d a else (x.w a).zeroExtend 64
    (reg = 0x102 → exec (.qtabWrite v) st = .next u) ∧ (reg = 0x106 → exec (.tlbinv v) st = .next u) ∧
    (∀ n < 4, reg = 0x120 + n → exec (if acfgEn v then .assayRegionEnable n v else .assayRegionDisable n v) st = .next u) ∧
    (∀ n < 4, reg = 0x140 + n → st.pdEn n = true → v.getLsbD 31 = false → exec (.phaseSlotDisable n (v.setWidth 32)) st = .next u) ∧
    (reg ≠ 0x102 → reg ≠ 0x106 → reg < 0x120 ∨ 0x123 < reg → reg < 0x140 ∨ 0x143 < reg →
      exec (.registerWrite x.r.core reg v) st = .next u)) ∧
  (∀ s v, ∃ u, exec (.tlbinv v) s = .next u ∧ u = { s with tlb := u.tlb, harts := u.harts } ∧ (∀ key, Assoc.find? u.tlb key =
    if xlAsid key = fld v.toNat 48 16 ∧ (v.getLsbD 47 = true ∨ xlPage key = fld v.toNat 0 41) then none
    else Assoc.find? s.tlb key) ∧ ∀ n, u.hart n = { s.hart n with tlb := (u.hart n).tlb } ∧
      ∀ key, Assoc.find? (u.hart n).tlb key =
        if key / 2 ^ 45 = fld v.toNat 48 16 ∧ (v.getLsbD 47 = true ∨ key % 2 ^ 45 / 16 = fld v.toNat 0 41) then none
        else Assoc.find? (s.hart n).tlb key) ∧
  (∀ e ∈ [(0x107, 500, 20000), (0x108, 1, 64), (0x109, 5, 5000), (0x10A, 10, 10000), (0x10B, 10, 10000), (0x10C, 10, 100000),
      (0x10D, 100, 1000000), (0x10E, 10, 100000)], ∀ s core (v : DWord),
    let w := v.toNat % 2 ^ 32
    ∃ u, exec (.registerWrite core e.1 v) s = .next u ∧ u = { s with regs := u.regs } ∧
      (e.2.1 ≤ w → w ≤ e.2.2 → u.chipReg e.1 = w) ∧ (w < e.2.1 ∨ e.2.2 < w → u = s)) ∧
  (∀ s core (v : DWord), let w := v.toNat % 2 ^ 32
    ∃ u1 u2, exec (.registerWrite core 0x200 v) s = .next u1 ∧ exec (.registerWrite core 0x201 v) s = .next u2 ∧
      (256 ≤ w → w ≤ 65536 → (u1.core core).tfair = w ∧ (u1.core core).thold = (s.core core).thold) ∧
      (w < 256 ∨ 65536 < w → u1 = s) ∧
      (64 ≤ w → w ≤ 65536 → (u2.core core).thold = w ∧ (u2.core core).tfair = (s.core core).tfair) ∧ (w < 64 ∨ 65536 < w → u2 = s) ∧
      u1.mem = s.mem ∧ u2.mem = s.mem ∧ ∀ c, c ≠ core → u1.core c = s.core c ∧ u2.core c = s.core c) ∧
  (∀ h d item, GroupWrites (.tstateRd h d item) fun x =>
    if item = 0 then putD d x.t.tpc else if item = 1 then putD d x.t.csp else if item = 2 then putD d x.t.rpt
    else if item = 3 then putW d x.t.tcause else if item = 4 then putW d x.t.tval else if item = 5 then putD d x.t.taddr
    else putW d (BitVec.ofNat 32 ((if x.t.inh then 1 else 0) + (if x.t.modf then 2 else 0) + (if x.t.drop then 4 else 0) +
      if x.t.lostw then 8 else 0))) ∧
  (∀ h a, GoesOn (.tstateWr h a 0) (fun x _ => x.t.inh = true) fun x st u =>
    u = st.updThread x.r fun t => { t with tpc := x.d a, modf := true }) ∧
  (∀ h a, Traps (.tstateWr h a 0) (fun x _ => x.t.inh = false) .illegal 0 fun _ => 0) ∧
  (∀ h a, GoesOn (.tstateWr h a 1) always fun x st u => u = st.updThread x.r fun t => { t with csp := x.d a }) ∧
  ∀ h a, GoesOn (.tstateWr h a 2) always fun x st u => u = st.updThread x.r fun t => { t with rpt := x.d a }

/-- The firmware's words: CLAIM pins and releases what its request names, FREEZE holds, kills, saves and releases the master
its word names, and IDLE answers the events since the last one or waits for them (R422 to R426). -/
def Obligations.FirmwareWords : Prop :=
  let reads := fun (x : Ctx) (st : State) (a : Opnd) (bs : List Byte) => x.t.ops.any Op.openStore = false ∧
    st.localBytes x.k (x.d a).toNat 16 = some bs
  let task := fun (st : State) (m : DWord) (k : Task) => mwKind m = 0 ∧ st.task? (mwCore m) (mwSlot m) = some k ∧ k.ending = none
  (∀ h d a (make : Bool), GoesOn (if make then .claimMake h d a else .claimEnd h d a)
    (fun x st => ∃ bs, reads x st a bs ∧ (st.claimReqBad make bs).isSome) fun x st u => ∃ bs off,
    reads x st a bs ∧ st.claimReqBad make bs = some off ∧ u = st.updThread x.r fun t => t.puts (putW d (status 8 off))) ∧
  (∀ h d a, GoesOn (.claimMake h d a)
    (fun x st => Assoc.wf st.threads = true ∧ x.r.thr < 4096 ∧ (∃ t0, st.thread? x.r = some t0 ∧ ∀ o ∈ t0.ops, o.id ≠ st.nextId) ∧
      ∃ bs e lvl, reads x st a bs ∧ st.claimReqBad true bs = none ∧ fld (rdBytes bs 0 8) 41 20 = 0 ∧
        st.walkOf (rdBytes bs 8 2) (fld (rdBytes bs 0 8) 0 41 * 2 ^ 16) = .leaf e lvl ∧ fld e 5 2 = 0 ∧ fld e 51 13 = st.chip.toNat ∧
        fld e 7 2 ≠ 3 ∧ fld e 2 1 = 1 ∧ fld e 3 1 = 1)
    fun x st u => ∃ bs e lvl t0 t w, reads x st a bs ∧ st.walkOf (rdBytes bs 8 2) (fld (rdBytes bs 0 8) 0 41 * 2 ^ 16) = .leaf e lvl ∧
      Assoc.find? u.agents.leases (rdBytes bs 10 4) = some (Assoc.getD st.agents.leases [] (rdBytes bs 10 4) ++
        [(rdBytes bs 8 2 * 2 ^ 41 + fld (rdBytes bs 0 8) 0 41, e, lvl)]) ∧ u.mem = st.mem ∧
      st.thread? x.r = some t0 ∧ u.thread? x.r = some t ∧ t.regs = (t0.puts (putW d w)).regs ∧ w.toNat / 2 ^ 24 = 128) ∧
  (∀ h d a, GoesOn (.claimEnd h d a) (fun x st => ∃ bs, reads x st a bs ∧ st.claimReqBad false bs = none) fun x st u =>
    ∃ bs, reads x st a bs ∧ Assoc.find? u.agents.leases (rdBytes bs 10 4) = none ∧
      (∀ n, n ≠ rdBytes bs 10 4 → Assoc.find? u.agents.leases n = Assoc.find? st.agents.leases n) ∧ u.mem = st.mem ∧
      u.tasks = st.tasks ∧ u.statusIn x st d 0) ∧
  (∀ h d a i, i ∈ [Instr.freezeHold h d a, .freezeKill h d a] → GoesOn i (fun x _ => mwKind (x.d a) ≠ 0)
    fun x st u => u.mem = st.mem ∧ u.tasks = st.tasks ∧ u.statusIn x st d 8) ∧
  (∀ h d a, GoesOn (.freezeHold h d a) (fun x st => ∃ k, task st (x.d a) k ∧ k.frozen = none) fun x st u =>
    ∃ k, u.task? (mwCore (x.d a)) (mwSlot (x.d a)) = some k ∧ k.frozen = some st.clk.time ∧ k.version = [] ∧ k.drains = [] ∧
      u.threads = (st.updThread x.r fun t => t.puts (putW d (openStatus 121 0))).threads ∧
      ∃ rec, Assoc.find? u.dlog ((u.dseq - 1) % 16384) = some rec ∧ rec.kind = 3 ∧ rec.asid = k.asid) ∧
  (∀ h d a, GoesOn (.freezeKill h d a)
    (fun x st => x.r.slot = fwSlot ∧ x.r.thr < 4096 ∧ ∃ k, task st (x.d a) k ∧ st.copiesOf (mwCore (x.d a)) k.uid = [] ∧ st.ticketsOf k.uid = [])
    fun x st u => u.task? (mwCore (x.d a)) (mwSlot (x.d a)) = none ∧ u.statusIn x st d 0 ∧
      (∀ j < 4096, u.thread? ⟨mwCore (x.d a), mwSlot (x.d a), j⟩ = none) ∧
      ∃ k rec, task st (x.d a) k ∧ Assoc.find? u.dlog ((u.dseq - 1) % 16384) = some rec ∧ rec.kind = 7 ∧ rec.asid = k.asid ∧
        rec.arg1 = 3 * 2 ^ 48 + k.tidx % 2 ^ 48) ∧
  (∀ h d a, GoesOn (.freezeSave h d a)
    (fun x st => ∃ k key g, task st (x.gp a 0) k ∧ k.saving = none ∧ k.frozen = none ∧ (x.gp a 2).toNat % 8 = 0 ∧
      st.translate x.k.asid (x.gp a 2).toNat .w = .ok key 0 g ∧ st.homeOf key = .own)
    fun x st u => ∃ k k' key g, task st (x.gp a 0) k ∧ st.translate x.k.asid (x.gp a 2).toNat .w = .ok key 0 g ∧
      u.task? (mwCore (x.gp a 0)) (mwSlot (x.gp a 0)) = some k' ∧ k'.saving = some (st.clk.time + st.saveNs k) ∧ k'.uid = k.uid ∧
      u.agents.saves = st.agents.saves ++ [(x.r, st.nextId, k.uid, key)] ∧ u.pending x.r st.nextId d ∧ u.mem = st.mem) ∧
  (∀ h d a, GoesOn (.freezeRelease h d a)
    (fun x st => mwKind (x.d a) = 1 ∧ st.hartHere ((x.d a).toNat % 128) = true) fun x st u =>
      (u.hart ((x.d a).toNat % 128)).frozen = none ∧ (u.hart ((x.d a).toNat % 128)).dasid = (st.hart ((x.d a).toNat % 128)).dasid ∧
      u.mem = st.mem ∧ u.tasks = st.tasks ∧ u.statusIn x st d 0) ∧
  (∀ h d a, GoesOn (.freezeRelease h d a)
    (fun x st => (mwKind (x.d a) = 2 ∧ st.ctxEn ((x.d a).toNat % 2 ^ 16) = true) ∨
      (mwKind (x.d a) = 3 ∧ (Assoc.find? st.fab.peers (fld (x.d a).toNat 16 13)).isSome)) fun x st u =>
      (mwKind (x.d a) = 2 → (x.d a).toNat % 2 ^ 16 ∉ u.host.frozen) ∧
      (mwKind (x.d a) = 3 → (fld (x.d a).toNat 16 13, (x.d a).toNat % 2 ^ 16) ∉ u.fab.frozenPeers) ∧
      u.mem = st.mem ∧ u.tasks = st.tasks ∧ u.harts = st.harts ∧ u.statusIn x st d 0) ∧
  (∀ h d a mask, GoesOn (.idle h d a mask) (fun x st => (st.core x.r.core).idleEvents &&& mask ≠ 0 ∨ (x.d a).toNat = 0) fun x st u =>
    (u.core x.r.core).idleEvents = 0 ∧ u.mem = st.mem ∧ u.tasks = st.tasks ∧
      u.thread? x.r = (st.thread? x.r).map fun t => t.puts (putW d (status 0 ((st.core x.r.core).idleEvents % 32)))) ∧
  (∀ h d a mask, Places (.idle h d a mask) (fun x st => (st.core x.r.core).idleEvents &&& mask = 0 ∧ (x.d a).toNat ≠ 0)
    (WaitsFor fun x st => .idle mask (st.clk.time + (x.d a).toNat) d)) ∧
  ∀ s core k j t mask due d, s.task? core fwSlot = some k → s.threadsOf core fwSlot = [(j, t)] → j < 4096 →
    s.thread? ⟨core, fwSlot, j⟩ = some t → t.wait = .idle mask due d →
    ∃ u t', exec (.idleWake core) s = .next u ∧ (u.core core).idleEvents = 0 ∧ u.mem = s.mem ∧
      u.thread? ⟨core, fwSlot, j⟩ = some t' ∧ t'.wait = .none ∧
      SameFile t' (t.puts (putW d (status 0 ((s.core core).idleEvents % 32)))) ∧
      u.clk.time = if (s.core core).idleEvents &&& mask ≠ 0 then s.clk.time else max s.clk.time due

/-- DLOG takes the kind's low bits and bytes 0x10 to 0x1F from the firmware's group; the device sets TIME, SEQN and INC and
forces the kind's top bit; the reserved kind completes with BADDESC, DETAIL 0x0C, and writes nothing (R461, R427). -/
def Obligations.DlogWritesARecord : Prop :=
  ∀ h d a, GoesOn (.dlog h d a) always fun x st u =>
    let bs := bytesOf ((List.range 8).map fun i => x.gi a i)
    (rdBytes bs 0xC 2 % 2 ^ 15 = 0x7FFF → u = st.updThread x.r fun t => t.puts (putW d (status 8 0xC))) ∧
    (rdBytes bs 0xC 2 % 2 ^ 15 ≠ 0x7FFF → u.dseq = st.dseq + 1 ∧ u.mem = st.mem ∧ u.tasks = st.tasks ∧
      u.thread? x.r = (st.thread? x.r).map (fun t => t.puts (putW d (status 0 (st.dseq % 2 ^ 14)))) ∧
      ∃ rec, Assoc.find? u.dlog (st.dseq % 16384) = some rec ∧ rec.time = st.clk.time ∧ rec.seqn = st.dseq % 2 ^ 32 ∧
        rec.inc = st.inc.toNat ∧ rec.kind = 2 ^ 15 + rdBytes bs 0xC 2 % 2 ^ 15 ∧ rec.unit_ = rdBytes bs 0x10 2 ∧
        rec.asid = rdBytes bs 0x12 2 ∧ rec.arg0 = rdBytes bs 0x14 4 ∧ rec.arg1 = rdBytes bs 0x18 8)

/- ## Pre-emption, the picker and the debugger -/

/-- Saves and pre-emption: a task that stands ready is saved whole and leaves its slot, one that does not has its deadline;
drains, slices, parks and waiting launches begin saves or bars when their time comes, and a save that overruns kills the
context's tasks on the cores of its pre-emption; a frozen task or hart that nobody released in time is killed or reset (R385, R389,
R411 to R415, R425, R446). The model's choice: the cores that a pre-emption covers (log entry 56), and what a save area holds (log
entries 59, 94). -/
def Obligations.SavesAndPreemption : Prop :=
  let free := fun (s : State) (core : Nat) (k : Task) => s.copiesOf core k.uid = [] ∧ s.ticketsOf k.uid = []
  let quiet := fun (k : Task) => k.saving = none ∧ k.frozen = none ∧ k.ending = none
  let begun := fun (s u : State) (core slot : Nat) (k : Task) => ∃ k', u.task? core slot = some k' ∧ k'.uid = k.uid ∧
    k'.saving = some (u.clk.time + s.saveNs k) ∧ u.mem = s.mem ∧ SameThreads s u
  (∀ s core slot k, s.task? core slot = some k → slot < 32 → quiet k → s.saveReady core slot k = true →
    (∀ e ∈ s.agents.saves, e.2.2.1 ≠ k.uid) → Assoc.wf s.threads = true →
    ∃ u addr sv, exec (.forceSave core slot) s = .next u ∧ u.task? core slot = none ∧ u.mem = s.mem ∧
      (∀ j < 4096, u.thread? ⟨core, slot, j⟩ = none) ∧ Assoc.find? s.agents.saved addr = none ∧
      Assoc.find? u.agents.saved addr = some sv ∧ sv.task.uid = k.uid ∧ sv.task.scratch = k.scratch ∧ sv.task.tiles = k.tiles ∧
      sv.task.version = k.version ∧ sv.task.ks = k.ks ∧ sv.task.qs = k.qs ∧ sv.task.allot = k.allot ∧
      ∀ j t, j < 4096 → s.thread? ⟨core, slot, j⟩ = some t → ∃ t', Assoc.find? sv.threads j = some t' ∧ t'.pc = t.pc ∧ t'.csp = t.csp ∧
        t'.preds = t.preds ∧ t'.wait = t.wait ∧ ∀ n, (∀ b, t.blk = some b → b.fresh = true → n < b.live) → n < 1024 → t'.reg n = t.reg n) ∧
  (∀ s core slot k r op key, s.task? core slot = some k → quiet k → s.saveReady core slot k = true →
    s.agents.saves = [(r, op, k.uid, key)] → ∃ u addr, exec (.forceSave core slot) s = .next u ∧ u.agents.saves = [] ∧
      (Assoc.find? u.agents.saved addr).isSome ∧ Memory.readN u.mem key 8 = leBytes 8 addr) ∧
  (∀ s core slot k, s.task? core slot = some k → quiet k → s.saveReady core slot k = false →
    ∃ u, exec (.forceSave core slot) s = .next u ∧ begun s u core slot k ∧ u.clk = s.clk) ∧
  (∀ s core slot k t0, s.task? core slot = some k → slot < 32 → k.frozen = some t0 → free s core k →
    ∃ u, exec (.fholdExpiry core slot) s = .next u ∧ u.task? core slot = none ∧ u.clk.time = max s.clk.time (t0 + 1000 * s.regs.fhold)) ∧
  (∀ s n t0, (s.hart n).frozen = some t0 →
    ∃ u, exec (.hartFreezeTimeout n) s = .next u ∧ (u.hart n).frozen = none ∧ (u.hart n).dasid = 0 ∧ u.mem = s.mem ∧
      SameThreads s u ∧ u.clk.time = max s.clk.time (t0 + 1000 * s.regs.fhold) ∧ ∀ m, m ≠ n → u.hart m = s.hart m) ∧
  (∀ s core slot k due, s.task? core slot = some k → k.saving = some due →
    (∀ c ∈ s.barredWith core k.asid, ∀ e ∈ s.ofContext c k.asid, free s c e.2) →
    ∃ u, exec (.saveDeadlineExpiry core slot) s = .next u ∧ u.clk.time = max s.clk.time due ∧
      ∀ c n, n < 32 → u.task? c n =
        if c ∈ s.barredWith core k.asid ∧ n < 16 ∧ (s.task? c n).any (fun x => x.asid == k.asid) then none else s.task? c n) ∧
  (∀ s core slot k due, s.task? core slot = some k → k.saving = some due → slot < 16 → s.ofContext core k.asid = [(slot, k)] →
    s.barredWith core k.asid = [core] → free s core k →
    ∃ u rec, exec (.saveDeadlineExpiry core slot) s = .next u ∧ u.task? core slot = none ∧ u.clk.time = max s.clk.time due ∧
      Assoc.find? u.dlog ((u.dseq - 1) % 16384) = some rec ∧ rec.kind = 7 ∧ rec.arg1 = 5 * 2 ^ 48 + k.tidx % 2 ^ 48) ∧
  (∀ s core slot k left, s.task? core slot = some k → k.slice = some left → (s.threadsOf core slot).any (fun e => e.2.halted) = false →
    (s.rivalWaits k.prio = false → ∃ u, exec (.timeSliceExpiry core slot) s = .next u ∧
      u.clk.time = max s.clk.time (k.sliceFrom + left) ∧ u.mem = s.mem ∧ SameThreads s u ∧
      u.task? core slot = some { k with slice := some (k.hd.tslice * 1000), sliceFrom := u.clk.time }) ∧
    (s.rivalWaits k.prio = true → quiet k → s.saveReady core slot k = false →
      ∃ u, exec (.timeSliceExpiry core slot) s = .next u ∧ u.clk.time = max s.clk.time (k.sliceFrom + left) ∧ begun s u core slot k)) ∧
  (∀ s core asid b slot k, (s.core core).barred.find? (fun b => b.1 == asid) = some b → s.task? core slot = some k → quiet k →
    s.ofContext core asid = [(slot, k)] → s.saveReady core slot k = false →
    ∃ u, exec (.drainDeadlineExpiry core asid) s = .next u ∧ u.clk.time = max s.clk.time (b.2.2 + 1000 * k.hd.drain) ∧
      begun s u core slot k) ∧
  (∀ s lnum l core asid p, Assoc.find? s.agents.launches lnum = some l → s.hasTask lnum l = true →
    (∀ c < 192, s.admits c lnum l = false) → s.victim l.prio = some (core, asid, p) → (∀ e ∈ s.ofContext core asid, e.2.hd.drain ≠ 0) →
    ∃ u, exec (.prewtExpiry lnum) s = .next u ∧ u.clk.time = max s.clk.time (l.since + 1000 * s.regs.prewt) ∧ u.mem = s.mem ∧
      u.tasks = s.tasks ∧ SameThreads s u ∧ (asid, lnum, u.clk.time) ∈ (u.core core).barred ∧
      Assoc.find? u.agents.launches lnum = some { l with since := u.clk.time }) ∧
  ∀ s core slot k n l, s.task? core slot = some k → s.stuckChild core slot k.uid = some (n, l) → quiet k → k.parked = none →
    s.saveReady core slot k = false → ∃ u k', exec (.park core slot) s = .next u ∧ begun s u core slot k ∧
      u.clk.time = max s.clk.time (l.readyAt + 1000 * s.regs.parkt) ∧ u.task? core slot = some k' ∧ k'.parked = some n

/-- The picker: a convergent group whose lanes are free goes first; else the chosen thread is overdue where a PROGRESS thread is, else of a task of the highest priority; the group it
forms is of its task and program counter, one thread to a home lane, and becomes the run in progress with no age left and
nothing else of its threads changed; a hold that times out ends, and a thread that reaches T_fair is overdue (R41, R47, R50,
R52, R386). The model's choice: a convergent group ahead of every other choice (log entry 35), the firmware's group in turn (log entry
64), and a busy home lane's threads left out (log entry 94). -/
def Obligations.GroupsAreFormed : Prop :=
  let late := fun (s : State) (core : Nat) (c : Cand) => (s.candTask core c).hd.progress && c.t.overdue.isSome
  let formed := fun (s u : State) (core slot : Nat) (ms : List Nat) (pc : DWord) => u.cur = some s.nextId ∧ u.mem = s.mem ∧
    u.nextId = s.nextId + 1 ∧ u.lastCore = core ∧
    (∃ q, Assoc.find? u.runs s.nextId = some q ∧ q.core = core ∧ q.slot = slot ∧ q.members = ms ∧ q.pc = pc ∧ q.len = 0) ∧
    ∀ r t, s.thread? r = some t → ∃ t', u.thread? r = some t' ∧ SameFile t' t ∧ t'.pc = t.pc ∧ t'.wait = t.wait ∧ t'.ops = t.ops ∧
      (r.core = core → r.slot = slot → r.thr ∈ ms → t'.age = 0 ∧ t'.overdue = none ∧ t'.demoted = [] ∧ t'.issued = s.nextId)
  (∀ (s : State) core cs c, s.choose core cs = some c → c ∈ cs ∧ ((∃ x ∈ cs, x.conv = true) → c.conv = true) ∧
    ((∀ x ∈ cs, x.conv = false) → (∃ x ∈ cs, late s core x = true) → late s core c = true ∧ ∀ x ∈ cs, late s core x = true → c.t.overdue.getD 0 ≤ x.t.overdue.getD 0) ∧
    ((∀ x ∈ cs, x.conv = false) → (∀ x ∈ cs, late s core x = false) → ∀ x ∈ cs, (s.candTask core x).prio ≤ (s.candTask core c).prio)) ∧
  (∀ (s : State) core cs c, c ∈ cs → c.conv = false →
    (∀ m ∈ s.members core cs c, ∃ x ∈ cs, x.thr = m ∧ x.slot = c.slot ∧ x.t.pc = c.t.pc) ∧
    (s.members core cs c).Pairwise fun a b => a % 64 < b % 64) ∧
  (∀ s core c, s.choose core (s.cands core) = some c → s.fwReady core = none →
    ∃ u, exec (.issueGroup core) s = .next u ∧ formed s u core c.slot (s.members core (s.cands core) c) c.t.pc) ∧
  (∀ s core e, s.choose core (s.cands core) = none → s.fwReady core = some e →
    ∃ u, exec (.issueGroup core) s = .next u ∧ formed s u core fwSlot [e.1] e.2.pc) ∧
  (∀ s r t c, s.thread? r = some t → t.held = some c → r.slot < 32 → r.thr < 4096 →
    (s.plat.power ≠ .a0 → s.plat.power ≠ .a1 → s.clk.cycles < c + (s.core r.core).thold → exec (.holdTimeout r) s = .next s) ∧
    (s.plat.power = .a0 ∨ s.plat.power = .a1 ∨ c + (s.core r.core).thold ≤ s.clk.cycles →
      ∃ u, exec (.holdTimeout r) s = .next u ∧ u.mem = s.mem ∧ u.tasks = s.tasks ∧ c + (s.core r.core).thold ≤ u.clk.cycles ∧
        ∀ r' t', s.thread? r' = some t' → r'.slot < 32 → r'.thr < 4096 → ∃ t1, u.thread? r' = some t1 ∧
          t1.unaged = { t'.unaged with
            held := if r'.core = r.core ∧ ∃ d, t'.held = some d ∧ d + (s.core r.core).thold ≤ u.clk.cycles then none else t'.held })) ∧
  ∀ s r t k, s.task? r.core r.slot = some k → s.thread? r = some t → k.hd.progress = true → t.overdue = none →
    (s.core r.core).tfair ≤ t.age →
    ∃ u, exec (.fairnessOverdue r) s = .next u ∧ u = { s with threads := u.threads } ∧
      u.thread? r = some { t with overdue := some (s.clk.cycles - (t.age - (s.core r.core).tfair)) } ∧ ∀ r', thrKey r' ≠ thrKey r → u.thread? r' = s.thread? r'

/-- Between runs a deferred PROT freezes its task and a deferred CLAIM ends it; the debugger halts a thread of a context in
debug state halt at its run boundary, once its results in flight are written and its windows closed, and lets it go on; an illegal
issue state is rebuilt, a thread entry that is lost being an error its task consumes, and a second within 1 ms retires the cluster
(R130, R404, R409, R411, R412, R458). -/
def Obligations.CausesBetweenRunsAndTheDebugger : Prop :=
  (∀ s r k t tr rest, s.task? r.core r.slot = some k → s.thread? r = some t → s.dueThreads r.core r.slot = [r.thr] →
    t.trap = none → t.deferred = tr :: rest → tr.deferred = true → t.halted = false → k.frozen = none → k.ending = none →
    (tr.cause = .prot → ∃ u k' rec, exec (.deferredTrapDelivery r) s = .next u ∧ u.task? r.core r.slot = some k' ∧
      k'.frozen = some s.clk.time ∧ k'.version = [] ∧ u.threads = s.threads ∧
      Assoc.find? u.dlog ((u.dseq - 1) % 16384) = some rec ∧ rec.kind = 3 ∧ rec.asid = k.asid ∧
      rec.arg1 = r.core * 2 ^ 52 + r.slot * 2 ^ 48) ∧
    (tr.cause = .claim → r.slot < 32 → s.copiesOf r.core k.uid = [] → s.ticketsOf k.uid = [] →
      ∃ u rec, exec (.deferredTrapDelivery r) s = .next u ∧ u.task? r.core r.slot = none ∧
        Assoc.find? u.dlog ((u.dseq - 1) % 16384) = some rec ∧ rec.kind = 7 ∧ rec.arg0 = k.lnum ∧
        rec.arg1 = 8 * 2 ^ 56 + (if t.inh then 2 else 1) * 2 ^ 48 + k.tidx % 2 ^ 48)) ∧
  (∀ s r k t, s.task? r.core r.slot = some k → s.thread? r = some t → s.dbgOf k.asid = .halt → t.ended = false → t.halted = false →
    s.inRun r.core r.slot r.thr = true ∨ t.ops.any Op.inFlight = true → ∃ u, exec (.debugHalt r) s = .next u ∧
      u = { s with threads := u.threads } ∧ u.thread? r = some { t with haltReq := true } ∧
      ∀ r', thrKey r' ≠ thrKey r → u.thread? r' = s.thread? r') ∧
  (∀ s r k t, s.task? r.core r.slot = some k → s.thread? r = some t → s.dbgOf k.asid = .halt → t.ended = false → t.halted = false →
    s.inRun r.core r.slot r.thr = false → t.ops.any Op.inFlight = false →
    ∃ u t', exec (.debugHalt r) s = .next u ∧ u.thread? r = some t' ∧ t'.halted = true ∧ SameFile t' t ∧ t'.pc = t.pc ∧ u.mem = s.mem ∧
      ∀ r', thrKey r' ≠ thrKey r → u.thread? r' = s.thread? r') ∧
  (∀ s r t, s.thread? r = some t → t.halted = true → t.trap = none → t.deferred = [] →
    ∃ u, exec (.debugResume r) s = .next u ∧ u.thread? r = some { t with halted := false, haltReq := false } ∧ u.mem = s.mem ∧
      ∀ r', thrKey r' ≠ thrKey r → u.thread? r' = s.thread? r') ∧
  (∀ s r t, s.thread? r = some t → t.halted = false →
    ∃ u, exec (.debugResume r) s = .next u ∧ u = { s with threads := u.threads } ∧ u.thread? r = some { t with haltReq := false } ∧
      ∀ r', thrKey r' ≠ thrKey r → u.thread? r' = s.thread? r') ∧
  (∀ s c, Assoc.wf s.threads = true → (∀ t0, Assoc.find? s.plat.illegalAt c = some t0 → t0 + 1000000 < s.clk.time) →
    ∃ u rec, exec (.clusterRebuild { cluster := c, bad := none }) s = .next u ∧ u.mem = s.mem ∧ u.tasks = s.tasks ∧ u.plat.clOff = s.plat.clOff ∧
      Assoc.find? u.plat.illegalAt c = some s.clk.time ∧ Assoc.find? u.dlog (s.dseq % 16384) = some rec ∧ rec.kind = 4 ∧
      rec.unit_ = c * 256 ∧ rec.arg0 = 1 ∧
      ∀ r t, s.thread? r = some t → r.slot < 32 → r.thr < 4096 → r.core / 8 = c → ∃ t', u.thread? r = some t' ∧ t'.age = 0 ∧
        t'.overdue = none ∧ t'.demoted = [] ∧ SameFile t' t) ∧
  (∀ s c r k t, Assoc.wf s.threads = true → (∀ t0, Assoc.find? s.plat.illegalAt c = some t0 → t0 + 1000000 < s.clk.time) →
    r.core / 8 = c → r.slot < 32 → r.thr < 4096 → s.task? r.core r.slot = some k → k.stopping = false → s.thread? r = some t →
    t.ended = false → ∃ u t', exec (.clusterRebuild { cluster := c, bad := some r }) s = .next u ∧ u.mem = s.mem ∧ u.tasks = s.tasks ∧
      u.thread? r = some t' ∧ SameFile t' t ∧
      t'.deferred = t.deferred ++ [{ cause := .uncorr, detail := 0, pc := t.pc, tval := 0, taddr := 0, deferred := true }]) ∧
  ∀ s c t0, Assoc.find? s.plat.illegalAt c = some t0 → s.clk.time ≤ t0 + 1000000 → s.plat.clOff.contains c = false → s.tasks = [] →
    ∃ u rec, exec (.clusterRebuild { cluster := c, bad := none }) s = .next u ∧ u.plat.clOff = s.plat.clOff ++ [c] ∧ u.mem = s.mem ∧ u.threads = s.threads ∧
      Assoc.find? u.dlog (s.dseq % 16384) = some rec ∧ rec.kind = 4 ∧ rec.unit_ = c * 256 ∧ rec.arg0 = 2

/- ## Tickets, the host, the harts and other chips -/

/-- Fault tickets: an access or a fetch that meets an absent page takes the first free entry; a notice of another generation is
dropped and counted; one that fits lets the access go on, with the chip's own page pinned for the replay window, and the entry
is open until the replay has been performed; where service failed, a lost fetch gets UNCORR; a peer's ticket ends with a notice
to it; a launch whose code page can't be served keeps note of the page; the pin ends with its time, and a frame that nothing holds
joins the pool zeroed (R62, R399 to R403). The model's choice: the pin of a page not migrated (log entry 55), the first free entry (log
entry 42), and what of the owner's answer is an event (log entry 80). -/
def Obligations.TicketsAreServed : Prop :=
  let opens := fun (s u : State) (i : Nat) (r : TRef) (op : Nat) (k : Task) (va : Nat) (anon : Bool) =>
    i < 4096 ∧ (∀ t, Assoc.find? s.agents.tickets i = some t → t.open_ = false) ∧ u.mem = s.mem ∧ u.tasks = s.tasks ∧
    ∃ tk, Assoc.find? u.agents.tickets i = some tk ∧ tk.open_ = true ∧ tk.ref = r ∧ tk.op = op ∧ tk.uid = k.uid ∧ tk.asid = k.asid ∧
      tk.va = va ∧ tk.pri = (!anon && s.hosten k.asid) ∧ tk.since = s.clk.time
  let room := fun (s : State) => ∃ i < 4096, ∀ t, Assoc.find? s.agents.tickets i = some t → t.open_ = false
  (∀ s r op k t o a anon, r.core < 192 → s.task? r.core r.slot = some k → s.thread? r = some t → op ≠ 0 →
    t.ops.find? (fun o => o.id == op) = some o → o.acc? = some a → o.ticket = none → a.place = .glob → s.locate k.asid a.va (if a.write then .w else .r) = .absent anon → room s →
    ∃ u i t', exec (.faultTicketReturn r op) s = .next u ∧ opens s u i r op k a.va anon ∧ u.thread? r = some t' ∧ SameFile t' t ∧
      ∀ x ∈ t'.ops, x.id = op → x.ticket = some i) ∧
  (∀ s r k t anon pte, r.core < 192 → s.task? r.core r.slot = some k → s.thread? r = some t → t.fetchTicket = none → s.runs = [] →
    s.fetchWord k t.pc.toNat = .absent anon pte → room s →
    ∃ u i, exec (.faultTicketReturn r 0) s = .next u ∧ opens s u i r 0 k t.pc.toNat anon ∧
      u.thread? r = some { t with fetchTicket := some i }) ∧
  (∀ s id gen fail, (∀ t, Assoc.find? s.agents.tickets id = some t → t.open_ = false ∨ t.served = true ∨ t.gen ≠ gen) →
    ∃ u, exec (.replayNotice id gen fail) s = .next u ∧
      u = { s with agents := { s.agents with staleNotices := s.agents.staleNotices + 1 } }) ∧
  (∀ i s s0 id tk fail k th, Assoc.find? s.agents.tickets id = some tk → tk.open_ = true → tk.served = false →
    tk.copy = none → tk.lnum = none →
    (i = Instr.replayNotice id tk.gen fail ∧ s0 = s) ∨ (i = .priResponse id (!fail) ∧ id < 4096 ∧ tk.pri = true ∧ s0 = s) ∨
      (i = .clmwtExpiry id ∧ id < 4096 ∧ fail = true ∧ s0 = s.atLeast (tk.since + 1000 * s.regs.clmwt)) →
    s.task? tk.ref.core tk.ref.slot = some k → k.uid = tk.uid → k.ending = none → s.thread? tk.ref = some th →
    (fail = false → ∀ a p, s.translate tk.asid tk.va .r ≠ .absent a p) →
    (fail = false → tk.op ≠ 0 → ∃ u t', exec i s = .next u ∧ Assoc.find? u.agents.tickets id = some { tk with
        served := true, open_ := th.ops.any fun o => o.id == tk.op && o.openAcc } ∧
      u.mem = s.mem ∧ u.clk = s0.clk ∧
      (s.ticketOwn tk = true → Assoc.find? u.agents.pins (tlbKey tk.asid tk.va) = some (s.clk.time + 1000 * s.regs.rpwin)) ∧
      u.thread? tk.ref = some t' ∧ SameFile t' th ∧ ∀ x ∈ t'.ops, x.id = tk.op → x.ticket = none) ∧
    (fail = true → tk.op = 0 → ∃ u t', exec i s = .next u ∧
      Assoc.find? u.agents.tickets id = some { tk with served := true, open_ := false } ∧
      u.mem = s.mem ∧ u.clk = s0.clk ∧ u.thread? tk.ref = some t' ∧ t'.unaged = Thread.unaged { th with
        fetchTicket := none
        trap := some { cause := .uncorr, detail := 0, pc := th.pc, tval := 0, taddr := 0, deferred := true } })) ∧
  (∀ s id tk n l, Assoc.find? s.agents.tickets id = some tk → tk.open_ = true → tk.served = false → tk.lnum = some n →
    Assoc.find? s.agents.launches n = some l → s.task? tk.ref.core tk.ref.slot = none →
    ∃ u, exec (.replayNotice id tk.gen true) s = .next u ∧ u.mem = s.mem ∧ u.threads = s.threads ∧ u.tasks = s.tasks ∧
      Assoc.find? u.agents.tickets id = some { tk with served := true, open_ := false } ∧
      Assoc.find? u.agents.launches n = some { l with badPages := l.badPages ++ [s.unitKey tk.asid tk.va] }) ∧
  (∀ s page due, Assoc.find? s.agents.pins page = some due →
    ∃ u, exec (.rpwinExpiry page) s = .next u ∧ Assoc.find? u.agents.pins page = none ∧ u.clk.time = max s.clk.time due ∧
      u.mem = s.mem ∧ SameThreads s u ∧ u.agents.tickets = s.agents.tickets) ∧
  (∀ s n t, Assoc.find? s.agents.peerTicks n = some t → t.pri = true → ∀ ok : Bool, (∀ w ∈ s.agents.cwaits, w.id ≠ n) →
    ∃ u, exec (.priResponse (n + 4096) ok) s = .next u ∧ u.mem = s.mem ∧ u.threads = s.threads ∧ u.tasks = s.tasks ∧
      Assoc.find? u.agents.peerTicks n = none ∧ OutMsg.replay t.src t.id t.gen (!ok) ∈ u.out ∧
      (ok = true → Assoc.find? u.agents.pins (tlbKey t.asid t.va) = some (s.clk.time + 1000 * s.regs.rpwin))) ∧
  ∀ s frame, s.framePinned frame = false → s.agents.peerTicks = [] → frame % 2 ^ 16 = 0 → frame < 4 * 48 * 2 ^ 30 → frame ∉ s.agents.pool → s.agents.cwaits = [] →
    ∃ u, exec (.backfillRefill frame) s = .next u ∧ u.agents.pool = s.agents.pool ++ [frame] ∧ u.threads = s.threads ∧ u.tasks = s.tasks ∧
      (∀ i < 2 ^ 16, Memory.read u.mem (hbmKey s.chip.toNat frame + i) = 0) ∧
      ∀ a, a < hbmKey s.chip.toNat frame ∨ hbmKey s.chip.toNat frame + 2 ^ 16 ≤ a → Memory.read u.mem a = Memory.read s.mem a

/-- Other chips and the host at this chip's memory: a remote load is answered, and a remote write or atomic performed, by the
owner's own walk, an absent page is served under a ticket, a violation freezes the peer; a snoop takes the host's line away or makes it read-only; a granule is the host's to reach
but while it goes to it, when an access waits, and a bias changes only through its changing state (R327, R394, R411, R435 to R438). The
model's choice: the reply and the ticket's name (log entries 72, 80), the lease's end (log entry 77), and what an access waits for (log
entry 106). -/
def Obligations.OtherMastersReachMemory : Prop :=
  let stored := fun (s u : State) (key : Nat) (bs : List Byte) => Memory.readN u.mem key bs.length = bs ∧
    ∀ a, a < key ∨ key + bs.length ≤ a → Memory.read u.mem a = Memory.read s.mem a
  (∀ s src asid va key cls g n, s.up = true → (src, asid) ∉ s.fab.frozenPeers → s.locate asid va .r = .ok key cls g → s.homeOf key = .own →
    ∃ u, exec (.remoteRequestReceive src asid va (.load n)) s = .next u ∧ u.mem = s.mem ∧ u.threads = s.threads ∧ u.tasks = s.tasks ∧
      OutMsg.remoteReply src (Memory.readN s.mem key n) ∈ u.out) ∧
  (∀ s src asid va key cls g bs, s.up = true → (src, asid) ∉ s.fab.frozenPeers → s.locate asid va .w = .ok key cls g →
    s.homeOf key = .own →
    ∃ u, exec (.remoteRequestReceive src asid va (.write bs)) s = .next u ∧ stored s u key bs ∧ u.threads = s.threads ∧ u.tasks = s.tasks) ∧
  (∀ s src asid va key cls g (cells : List (Nat × Byte)), s.up = true → (src, asid) ∉ s.fab.frozenPeers → s.locate asid va .w = .ok key cls g →
    s.homeOf key = .own → (cells.Pairwise fun a b => a.1 ≠ b.1) → (∀ e ∈ cells, va ≤ e.1) →
    ∃ u, exec (.remoteRequestReceive src asid va (.commit cells)) s = .next u ∧ u.threads = s.threads ∧ u.tasks = s.tasks ∧
      (∀ e ∈ cells, Memory.read u.mem (key + (e.1 - va)) = e.2) ∧
      ∀ a, (∀ e ∈ cells, a ≠ key + (e.1 - va)) → Memory.read u.mem a = Memory.read s.mem a) ∧
  (∀ s src asid va n off, s.up = true → (src, asid) ∉ s.fab.frozenPeers → s.locate asid va .r = .zero ∨ s.locate asid va .r = .wake off →
    exec (.remoteRequestReceive src asid va (.load n)) s = .next (s.send (.remoteReply src (List.replicate n 0)))) ∧
  (∀ s src asid va key cls g op w b c, s.up = true → (src, asid) ∉ s.fab.frozenPeers → s.locate asid va .w = .ok key cls g →
    s.homeOf key = .own → ∃ u, exec (.remoteRequestReceive src asid va (.atomic op w b c)) s = .next u ∧ u.threads = s.threads ∧
      (let k := if w then 8 else 4
       let old := Memory.readN s.mem key k
       OutMsg.remoteReply src old ∈ u.out ∧ (Assoc.find? u.fab.acache (key / 512)).isSome ∧
       (aopWrites op (leNat old) b.toNat = true → stored s u key (leBytes k (aopVal op w (leNat old) b.toNat c.toNat))) ∧
       (aopWrites op (leNat old) b.toNat = false → u.mem = s.mem))) ∧
  (∀ s src asid va op, s.up = true → (src, asid) ∉ s.fab.frozenPeers → s.locate asid va (RemoteOp.kind op) = .absent false →
    s.hosten asid = true → ∃ u t, exec (.remoteRequestReceive src asid va op) s = .next u ∧ u.mem = s.mem ∧ u.threads = s.threads ∧
      Assoc.find? u.agents.peerTicks s.nextId = some t ∧ t.src = src ∧ t.asid = asid ∧ t.va = va ∧ t.pri = true ∧
      OutMsg.ticket src t.id t.gen asid va ∈ u.out) ∧
  (∀ s src asid va c op, s.up = true → (src, asid) ∉ s.fab.frozenPeers → s.locate asid va (RemoteOp.kind op) = .fault c →
    ∃ u rec, exec (.remoteRequestReceive src asid va op) s = .next u ∧ (src, asid) ∈ u.fab.frozenPeers ∧ u.mem = s.mem ∧
      u.threads = s.threads ∧ u.out = s.out ++ [.denial src asid va] ∧
      Assoc.find? u.dlog (s.dseq % 16384) = some rec ∧ rec.kind = 3 ∧ rec.arg1 = 3 * 2 ^ 60 + src * 2 ^ 16 + asid) ∧
  (∀ s src asid va op, s.up = true → (src, asid) ∈ s.fab.frozenPeers →
    ∃ u, exec (.remoteRequestReceive src asid va op) s = .next u ∧
      u = { s with plat := { s.plat with fabDrops := s.plat.fabDrops + 1 } }) ∧
  (∀ s line due, Assoc.find? s.fab.acache line = some due →
    ∃ u, exec (.atomicCacheLeaseEnd line) s = .next u ∧ Assoc.find? u.fab.acache line = none ∧ u.clk.time = max s.clk.time due ∧
      u.mem = s.mem ∧ SameThreads s u) ∧
  (∀ s pa keep e, s.up = true → Assoc.find? s.host.filter (pa / 64) = some e →
    ∃ u, exec (.hostSnoop pa keep) s = .next u ∧ u.mem = s.mem ∧ u.threads = s.threads ∧ u.tasks = s.tasks ∧
      OutMsg.snoopAnswer pa (some (Memory.readN s.mem (2 ^ 64 + pa / 64 * 64) 64)) ∈ u.out ∧
      (keep = true → Assoc.find? u.host.filter (pa / 64) = some { e with writable := false }) ∧
      (keep = false → Assoc.find? u.host.filter (pa / 64) = none ∧
        ∀ c ∈ u.cores, ∀ x ∈ c.2.l1, x.2.grain = 0 ∨ 2 ^ 64 + pa / 64 * 64 + 64 ≤ x.2.key ∨ x.2.key + 32 ≤ 2 ^ 64 + pa / 64 * 64)) ∧
  (∀ s pa keep, s.up = true → Assoc.find? s.host.filter (pa / 64) = none →
    ∃ u, exec (.hostSnoop pa keep) s = .next u ∧ u = s.send (.snoopAnswer pa none)) ∧
  (∀ s addr w n b, s.up = true → Assoc.find? s.host.bias (hbmKey s.chip.toNat addr / 2 ^ 16) = some b →
    ∃ u, exec (.hostCxlMemAccess addr w n) s = .next u ∧ u.threads = s.threads ∧ u.tasks = s.tasks ∧
      (b = .tohost → u = { s with host := { s.host with cxlWaits := s.host.cxlWaits ++ [(addr, w, n)] } }) ∧
      (b ≠ .tohost → ∀ bs, w = some bs → stored s u (hbmKey s.chip.toNat addr) bs) ∧
      (b ≠ .tohost → w = none → u.mem = s.mem ∧ OutMsg.cxlData (Memory.readN s.mem (hbmKey s.chip.toNat addr) n) ∈ u.out)) ∧
  (∀ s addr w n, s.up = true → Assoc.find? s.host.bias (hbmKey s.chip.toNat addr / 2 ^ 16) = none →
    exec (.hostCxlMemAccess addr w n) s = .next s) ∧
  (∀ s addr w n, s.up = false → exec (.hostCxlMemAccess addr w n) s = .next s ∧ exec (.biasFlipToDev addr) s = .next s ∧
    exec (.biasFlipToHost addr) s = .next s) ∧
  (∀ s addr b, s.up = true → Assoc.find? s.host.bias (hbmKey s.chip.toNat addr / 2 ^ 16) = some b →
    ∃ u1 u2, exec (.biasFlipToDev addr) s = .next u1 ∧ exec (.biasFlipToHost addr) s = .next u2 ∧ u1.mem = s.mem ∧ u2.mem = s.mem ∧
      (b = .host → u1.out = s.out ++ [.cxlSnoop (hbmKey s.chip.toNat addr / 2 ^ 16)]) ∧ (b ≠ .host → u1 = s) ∧ (b ≠ .dev → u2 = s) ∧
      (let at_ := fun (u : State) => Assoc.find? u.host.bias (hbmKey s.chip.toNat addr / 2 ^ 16)
       at_ u1 = some (if b = .host then .todev else b) ∧ at_ u2 = some (if b = .dev then .tohost else b)) ∧
      ∀ g, g ≠ hbmKey s.chip.toNat addr / 2 ^ 16 → Assoc.find? u1.host.bias g = Assoc.find? s.host.bias g ∧
        Assoc.find? u2.host.bias g = Assoc.find? s.host.bias g) ∧
  (∀ s addr, Assoc.find? s.host.bias (hbmKey s.chip.toNat addr / 2 ^ 16) = some .tohost →
    s.granuleBusy (hbmKey s.chip.toNat addr / 2 ^ 16) = true → exec (.biasFlipComplete addr) s = .next s) ∧
  ∀ s addr b, let g := hbmKey s.chip.toNat addr / 2 ^ 16
    Assoc.find? s.host.bias g = some b → (b = .tohost → s.granuleBusy g = false) →
    ∃ u, exec (.biasFlipComplete addr) s = .next u ∧ u.threads = s.threads ∧ u.tasks = s.tasks ∧
      Assoc.find? u.host.bias g = some (if b = .todev then .dev else if b = .tohost then .host else b) ∧
      (∀ g1, g1 ≠ g → Assoc.find? u.host.bias g1 = Assoc.find? s.host.bias g1) ∧
      ((∀ x ∈ s.host.cxlWaits, hbmKey s.chip.toNat x.1 / 2 ^ 16 ≠ g) → u.mem = s.mem) ∧
      ∀ a1 n1, b = .tohost → hbmKey s.chip.toNat a1 / 2 ^ 16 = g → (∀ bs, s.host.cxlWaits = [(a1, some bs, n1)] →
          stored s u (hbmKey s.chip.toNat a1) bs ∧ u.host.cxlWaits = []) ∧
        (s.host.cxlWaits = [(a1, none, n1)] → u.mem = s.mem ∧ u.host.cxlWaits = [] ∧
          OutMsg.cxlData (Memory.readN s.mem (hbmKey s.chip.toNat a1) n1) ∈ u.out)

/-- The harts: with dasid 0, or at a page of another context, an access freezes the hart and has no other effect; a load, a store,
an AMO and an LR and SC pair read and write the chip's HBM or host memory; one whose fill meets another translation of the page, or of
the address in its ASID, freezes it; an address outside the map gives an access fault, a store to another chip's wake port goes there;
a frozen hart does nothing, a released one takes its fault first; dasid is M's and HS's to read and
write, an exception in the other modes, and an SFENCE drops the translations of the context (R439 to R446). The model's choice: what
stands for a hart, its result and its exception (log entries 62, 105), and the bytes that an LR reserves (log entry 63). -/
def Obligations.HartsAccessMemory : Prop :=
  (∀ s n va pa pbmt op, s.hartHere n = true → (s.hart n).frozen = none → (s.hart n).fault = false → (s.hart n).dasid = 0 →
    (∀ b, op ≠ .fence b) → ∃ u rec, exec (.hartAccess n ⟨va, pa⟩ pbmt op) s = .next u ∧ (u.hart n).frozen = some s.clk.time ∧ u.mem = s.mem ∧
      u.threads = s.threads ∧ Assoc.find? u.dlog (s.dseq % 16384) = some rec ∧ rec.kind = 3 ∧ rec.arg1 = 2 ^ 60 + n) ∧
  (∀ s n va pa pbmt op key o, s.hartHere n = true → (s.hart n).frozen = none → (s.hart n).fault = false → (s.hart n).dasid ≠ 0 →
    (∀ b, op ≠ .fence b) → s.hartPlace pa = .hbm key → Assoc.find? s.agents.owner (key / 2 ^ 16) = some o → o ≠ (s.hart n).dasid →
    ∃ u, exec (.hartAccess n ⟨va, pa⟩ pbmt op) s = .next u ∧ (u.hart n).frozen = some s.clk.time ∧ u.mem = s.mem ∧ u.threads = s.threads) ∧
  (∀ s n va pa pbmt key, s.hartHere n = true → (s.hart n).frozen = none → (s.hart n).fault = false → (s.hart n).dasid ≠ 0 →
    (s.hartPlace pa = .hbm key ∧ ∀ o, Assoc.find? s.agents.owner (key / 2 ^ 16) = some o → o = (s.hart n).dasid) ∨
      s.hartPlace pa = .host key →
    s.hartClash n va key (decide (pbmt = 0)) = false →
    Assoc.find? s.host.bias (key / 2 ^ 16) ≠ some .todev → Assoc.find? s.host.bias (key / 2 ^ 16) ≠ some .tohost →
    (∀ c, s.homeOf key ≠ .peer c) →
    let runs := fun (op : HartOp) (u : State) => exec (.hartAccess n ⟨va, pa⟩ pbmt op) s = .next u ∧ (u.hart n).frozen = none ∧
      (u.hart n).exc = none ∧ u.threads = s.threads ∧ u.tasks = s.tasks ∧
      Assoc.find? (u.hart n).tlb (hartKey (s.hart n).dasid va) = some (key / 2 ^ 12, decide (pbmt = 0))
    let stored := fun (u : State) (bs : List Byte) => Memory.readN u.mem key bs.length = bs ∧
      ∀ a, a < key ∨ key + bs.length ≤ a → Memory.read u.mem a = Memory.read s.mem a
    (∀ k v ord, ∃ u, runs (.store k v ord) u ∧ stored u (leBytes k v)) ∧
    (∀ k ord, ∃ u, runs (.load k ord) u ∧ u.mem = s.mem ∧ (u.hart n).result = leNat (Memory.readN s.mem key k)) ∧
    (∀ aop (w : Bool) b c ord, ∃ u, let old := leNat (Memory.readN s.mem key (if w then 8 else 4))
      runs (.amo aop w b c ord) u ∧ (u.hart n).result = old ∧ (aopWrites aop old b.toNat = false → u.mem = s.mem) ∧
        (aopWrites aop old b.toNat = true → stored u (leBytes (if w then 8 else 4) (aopVal aop w old b.toNat c.toNat)))) ∧
    (∀ (w : Bool) ord, ∃ u, runs (.lr w ord) u ∧ u.mem = s.mem ∧ (u.hart n).resv = some (key, if w then 8 else 4, s.nextId) ∧
      (u.hart n).result = leNat (Memory.readN s.mem key (if w then 8 else 4))) ∧
    ∀ (w : Bool) (v : DWord) ord, ∃ u, runs (.sc w v ord) u ∧ (u.hart n).resv = none ∧
      (s.resvStands key (if w then 8 else 4) (s.hart n) = true → (u.hart n).result = 0 ∧ stored u (leBytes (if w then 8 else 4) v.toNat)) ∧
      (s.resvStands key (if w then 8 else 4) (s.hart n) = false → (u.hart n).result = 1 ∧ u.mem = s.mem)) ∧
  (∀ s n va pa pbmt op, s.hartHere n = true → (s.hart n).frozen = none → (s.hart n).fault = false → (s.hart n).dasid ≠ 0 →
    (∀ b, op ≠ .fence b) → s.hartPlace pa = .fault → ∃ u, exec (.hartAccess n ⟨va, pa⟩ pbmt op) s = .next u ∧
      u = { s with harts := u.harts } ∧ u.hart n = { s.hart n with exc := some .accessFault }) ∧
  (∀ s n va pa pbmt c off, s.hartHere n = true → (s.hart n).frozen = none → (s.hart n).fault = false → (s.hart n).dasid ≠ 0 →
    s.hartPlace pa = .port c off →
    (∀ k ord, ∃ u, exec (.hartAccess n ⟨va, pa⟩ pbmt (.load k ord)) s = .next u ∧ u = { s with harts := u.harts } ∧ (u.hart n).result = 0) ∧
    ∀ k v ord, exec (.hartAccess n ⟨va, pa⟩ pbmt (.store k v ord)) s =
      if c = s.chip.toNat % 4 then exec (.wakeWrite (.hart n false) (decide (k = 32 ∧ off % 32 = 0)) (BitVec.ofNat 256 v)) s
      else .next (s.send (.wakeTo (s.chip.toNat / 4 * 4 + c) (decide (k = 32 ∧ off % 32 = 0)) (BitVec.ofNat 256 v)))) ∧
  (∀ s n va pa pbmt op key, s.hartHere n = true → (s.hart n).frozen = none → (s.hart n).fault = false → (s.hart n).dasid ≠ 0 →
    (∀ b, op ≠ .fence b) → s.hartPlace pa = .hbm key ∨ s.hartPlace pa = .host key →
    (∃ e ∈ s.tlb, (e.2.1 = frameOf key ∧ e.2.2 ≠ decide (pbmt = 0)) ∨
      (e.1 = tlbKey (s.hart n).dasid va ∧ e.1 < 2 ^ 57 ∧ e.2.1 * 16 + va / 2 ^ 12 % 16 ≠ key / 2 ^ 12)) →
    ∃ u, exec (.hartAccess n ⟨va, pa⟩ pbmt op) s = .next u ∧ (u.hart n).frozen = some s.clk.time ∧ u.mem = s.mem ∧ u.threads = s.threads) ∧
  (∀ s n va pa pbmt op, s.hartHere n = false ∨ (s.hart n).frozen.isSome → exec (.hartAccess n ⟨va, pa⟩ pbmt op) s = .next s) ∧
  (∀ s n va pa pbmt op, s.hartHere n = true → (s.hart n).frozen = none → (s.hart n).fault = true →
    ∃ u, exec (.hartAccess n ⟨va, pa⟩ pbmt op) s = .next u ∧ u = { s with harts := u.harts } ∧
      u.hart n = { s.hart n with fault := false, exc := some .accessFault }) ∧
  (∀ s n va pa pbmt b, s.hartHere n = true → (s.hart n).frozen = none → (s.hart n).fault = false →
    exec (.hartAccess n ⟨va, pa⟩ pbmt (.fence b)) s = .next s) ∧
  (∀ s n mode v, s.hartHere n = true → (s.hart n).frozen = none →
    ∃ u, exec (.dasidWrite n mode v) s = .next u ∧ u = { s with harts := u.harts } ∧ (∀ m, m ≠ n → u.hart m = s.hart m) ∧
      (mode = .vs → u.hart n = { s.hart n with exc := some .virtualInstr }) ∧ (mode = .u → u.hart n = { s.hart n with exc := some .illegalInstr }) ∧
      (mode ≠ .vs → mode ≠ .u → u.hart n = match v with
        | .write w => { s.hart n with dasid := w.toNat % 2 ^ 16, exc := none }
        | .read => { s.hart n with result := (s.hart n).dasid, exc := none })) ∧
  ∀ s n, s.hartHere n = true → (s.hart n).frozen = none →
    ∃ u, exec (.hartSfence n) s = .next u ∧ u = { s with tlb := u.tlb, harts := u.harts } ∧
      (∀ m, u.hart m = { s.hart m with tlb := (u.hart m).tlb } ∧ ∀ key, Assoc.find? (u.hart m).tlb key =
        if key / 2 ^ 45 = (s.hart n).dasid then none else Assoc.find? (s.hart m).tlb key) ∧
      ∀ key, Assoc.find? u.tlb key = if xlAsid key = (s.hart n).dasid then none else Assoc.find? s.tlb key

/- ## The fabric -/

/-- Peers and links: a reachable peer whose last route goes down is unreachable, and after PLTO lost, its unacknowledged
writes and copies settled, as is one never heard of; a bring-up with the incarnation known makes it reachable, or notes the route of
one that a reconfiguration holds, with another lost; a packet for another chip passes on to its next hop; packets with a bad header are
dropped, ordered ones are taken in turn and what they bring follows in that order, an owner's refusal of a forwarded access gives its
thread PROT (R394), a drain marker is acknowledged (R453), and a peer in low-power hold is held until it leaves it (R472);
buffers freed return allowance (R325, R326, R328, R448 to R450). That a nonzero VC in the control class and a nonzero OSEQ outside the
ordered class are among the bad fields (log entry 90), where an incarnation's OSEQ starts (log entry 66), that allowance gates no send
(log entry 67), the kinds, the next hop and what has none (log entry 99) are the model's choice. -/
def Obligations.PeersAndPackets : Prop :=
  let peer := fun (s : State) (c : Nat) => Assoc.find? s.fab.peers c
  let noTickets := fun (s : State) => ∀ e ∈ s.agents.tickets, e.2.open_ = false
  (∀ s c, ∃ u, exec (.linkDown c) s = .next u ∧ u.mem = s.mem ∧ u.threads = s.threads ∧ u.tasks = s.tasks ∧
    (∀ p, peer s c = some p → peer u c = some (if p.st = .reachable then { p with st := .unreachable, since := s.clk.time } else p)) ∧
    (peer s c = none → ∃ p, peer u c = some p ∧ p.st = .unreachable) ∧ ∀ d, d ≠ c → peer u d = peer s d) ∧
  (∀ s c, peer s c = none → ∃ u, exec (.peerLossTimeout c) s = .next u ∧ u.mem = s.mem ∧ SameThreads s u ∧ u.tasks = s.tasks ∧
    u.peerSt c = .lost ∧ u.clk.time = max s.clk.time (1000 * s.regs.plto)) ∧
  (∀ s c p, peer s c = some p → p.st = .unreachable → s.veins = [] → s.rws = [] → s.fab.waits = [] → noTickets s →
    ∃ u, exec (.peerLossTimeout c) s = .next u ∧ u.mem = s.mem ∧ SameThreads s u ∧ u.tasks = s.tasks ∧
      u.clk.time = max s.clk.time (p.since + 1000 * s.regs.plto) ∧
      peer u c = some { p with st := .lost, since := u.clk.time, pend := [] } ∧ ∀ d, d ≠ c → peer u d = peer s d) ∧
  (∀ s c p id w cs cp, peer s c = some p → p.st = .unreachable → s.veins = [] → s.rws = [(id, w)] → w.peer = c → s.fab.waits = [] → noTickets s →
    w.copy = some cs → Assoc.find? (s.core w.core).copies cs = some cp → cp.uid = w.uid →
    ∃ u, exec (.peerLossTimeout c) s = .next u ∧ u.rws = [] ∧ u.mem = s.mem ∧ SameThreads s u ∧
      Assoc.find? (u.core w.core).copies cs = some { cp with done := some (status 1 0) }) ∧
  (∀ s c p id w core slot k j t, peer s c = some p → p.st = .unreachable → s.veins = [] → s.rws = [(id, w)] → w.peer = c → w.thrs = [j] →
    w.copy = none → s.fab.waits = [] → noTickets s → s.findUid w.uid = some (core, slot) → s.task? core slot = some k → s.thread? ⟨core, slot, j⟩ = some t →
    ∃ u k' t', exec (.peerLossTimeout c) s = .next u ∧ u.rws = [] ∧ u.mem = s.mem ∧ u.thread? ⟨core, slot, j⟩ = some t' ∧
      t'.lostw = true ∧ t'.regs = t.regs ∧ u.task? core slot = some k' ∧
      (c ∉ k.peersSeen → k.peers.length < 16 → k'.peers = k.peers ++ [c]) ∧
      (c ∉ k.peersSeen → 16 ≤ k.peers.length → k'.peers = k.peers ∧ k'.peerOvf = true) ∧ (c ∈ k.peersSeen → k'.peers = k.peers)) ∧
  (∀ s c inc p, s.up = true → peer s c = some p → inc < 2 ^ 16 → s.veins = [] → s.rws = [] → s.fab.waits = [] → noTickets s →
    ∃ u p', exec (.linkBringup c inc) s = .next u ∧ peer u c = some p' ∧ p'.inc = inc ∧ u.mem = s.mem ∧ u.threads = s.threads ∧
      (p.inc ≠ inc → p'.st = .lost) ∧ (p.inc = inc → p.st ≠ .held ∨ s.fab.reconf = none → p'.st = .reachable) ∧
      ∀ r, p.inc = inc → p.st = .held → s.fab.reconf = some r → p' = p ∧ ∃ r', u.fab.reconf = some r' ∧ c ∈ r'.routed ∧
        ∀ d ∈ r.routed, d ∈ r'.routed) ∧
  (∀ s c inc, s.up = false → exec (.linkBringup c inc) s = .next s) ∧
  (∀ s c inc, s.up = true → peer s c = none → inc < 2 ^ 16 → ∃ u p, exec (.linkBringup c inc) s = .next u ∧
    u = { s with fab := { s.fab with peers := u.fab.peers } } ∧ peer u c = some p ∧ p.st = .reachable ∧ p.inc = inc ∧
    ∀ d, d ≠ c → peer u d = peer s d) ∧
  (∀ s hd, s.up = false → exec (.fabricPacketReceive hd) s = .next s) ∧
  (∀ s (hd : FabHdr), s.up = true → hd.tgt ≠ s.chip.toNat →
    (hd.cls = 2 → exec (.fabricPacketReceive hd) s = .next s) ∧
    (hd.cls ≠ 2 → FabHdr.bad hd hd.tinc = true ∨ FabHdr.hop hd = none →
      exec (.fabricPacketReceive hd) s = .next { s with plat := { s.plat with fabDrops := s.plat.fabDrops + 1 } }) ∧
    ∀ h h2, hd.cls ≠ 2 → FabHdr.bad hd hd.tinc = false → FabHdr.hop hd = some h →
      pickHop s.chip.toNat hd.src hd.tgt hd.cls s.free (some h) = some h2 → ∃ u, exec (.fabricPacketReceive hd) s = .next u ∧
        u.out = s.out ++ [.forward { hd with vc := h2.vc, via := h2.via }] ∧ u.mem = s.mem ∧ u.threads = s.threads ∧ u.tasks = s.tasks) ∧
  (∀ s (hd : FabHdr), s.up = true → hd.tgt = s.chip.toNat →
    hd.tinc ≠ s.inc.toNat ∨ hd.cls = 3 ∨ 6 ≤ hd.vc ∨ (hd.cls = 2 ∧ hd.vc ≠ 0) ∨ kindCount ≤ hd.kind ∨ (hd.cls ≠ 0 ∧ hd.oseq ≠ 0) ∨
      (hd.src, hd.asid) ∈ s.fab.frozenPeers →
    ∃ u, exec (.fabricPacketReceive hd) s = .next u ∧ u = { s with plat := { s.plat with fabDrops := s.plat.fabDrops + 1 } }) ∧
  (∀ s (hd : FabHdr) p, s.up = true → hd.tgt = s.chip.toNat → FabHdr.bad hd s.inc.toNat = false → (hd.src, hd.asid) ∉ s.fab.frozenPeers →
    hd.cls = 0 → peer s hd.src = some p →
    (hd.oseq = p.oseqIn → p.pend = [] → ∀ asid va op, hd.msg = .none ∨ hd.msg = .remote asid va op →
      ∃ u, exec (.fabricPacketReceive hd) s = .next u ∧
        u = { s with fab := { s.fab with peers := u.fab.peers }, agenda := u.agenda } ∧
        peer u hd.src = some { p with oseqIn := (p.oseqIn + 1) % 2 ^ 16 } ∧ (∀ d, d ≠ hd.src → peer u d = peer s d) ∧
        u.agenda = if hd.msg = .none then s.agenda else s.agenda ++ [.remoteRequestReceive hd.src asid va op]) ∧
    (∀ v m slot, hd.oseq = p.oseqIn → p.pend = [((p.oseqIn + 1) % 2 ^ 16, .vein v)] → hd.msg = .mark slot m →
      ∃ u, exec (.fabricPacketReceive hd) s = .next u ∧ u.mem = s.mem ∧ u.threads = s.threads ∧
        peer u hd.src = some { p with oseqIn := (p.oseqIn + 2) % 2 ^ 16, pend := [] } ∧
        u.agenda = s.agenda ++ [.phaseMarkReceive slot hd.src m, .veinUpdateReceive v]) ∧
    (hd.oseq ≠ p.oseqIn → (∀ e ∈ p.pend, e.1 ≠ hd.oseq) → ∃ u, exec (.fabricPacketReceive hd) s = .next u ∧
      u = { s with fab := { s.fab with peers := u.fab.peers } } ∧
      peer u hd.src = some { p with pend := p.pend ++ [(hd.oseq, hd.msg)] } ∧ ∀ d, d ≠ hd.src → peer u d = peer s d) ∧
    (hd.oseq ≠ p.oseqIn → (∃ e ∈ p.pend, e.1 = hd.oseq) → exec (.fabricPacketReceive hd) s = .next s)) ∧
  (∀ s (hd : FabHdr), s.up = true → hd.tgt = s.chip.toNat → FabHdr.bad hd s.inc.toNat = false → (hd.src, hd.asid) ∉ s.fab.frozenPeers →
    hd.cls ≠ 0 →
    (hd.msg = .none → exec (.fabricPacketReceive hd) s = .next s) ∧
    (∀ link, hd.msg = .drain link → exec (.fabricPacketReceive hd) s = .next (s.send (.drainAck link))) ∧
    (∀ p, hd.msg = .lowPower true → peer s hd.src = some p → p.st = .reachable → ∃ u, exec (.fabricPacketReceive hd) s = .next u ∧
      u = { s with fab := { s.fab with peers := u.fab.peers, asleep := u.fab.asleep } } ∧ peer u hd.src = some { p with st := .held } ∧
      hd.src ∈ u.fab.asleep) ∧
    (∀ p, hd.msg = .lowPower false → hd.src ∈ s.fab.asleep → s.fab.reconf = none → peer s hd.src = some p → p.st = .held →
      ∃ u, exec (.fabricPacketReceive hd) s = .next u ∧ u.mem = s.mem ∧ u.threads = s.threads ∧
        peer u hd.src = some { p with st := .reachable, since := s.clk.time } ∧ hd.src ∉ u.fab.asleep ∧
        u.fab.waits = s.fab.waits.filter fun w => w.2 != hd.src) ∧
    ∀ r op k t o a, hd.msg = .denied r op → r.core < 192 → s.task? r.core r.slot = some k → s.thread? r = some t →
      t.ops.find? (fun o => o.id == op) = some o → o.acc? = some a → a.place = .glob →
      s.forwarded k.asid a.va (if a.write then .w else .r) = true → ∃ u t', exec (.fabricPacketReceive hd) s = .next u ∧
        u = { s with threads := u.threads } ∧ u.thread? r = some t' ∧ SameFile t' t ∧
        t'.deferred = t.deferred ++ [{ cause := .prot, detail := 0, pc := o.pc, tval := 0, taddr := 0, deferred := true }]) ∧
  ∀ s link b n, ∃ u, exec (.allowanceReturn link b n) s = .next u ∧ u = { s with fab := { s.fab with allow := u.fab.allow } } ∧
    ∀ key, Assoc.getD u.fab.allow 0 key = Assoc.getD s.fab.allow 0 key + if key = link * 64 + b then n else 0

/-- Time and reconfiguration: sixteen intervals in a row within the bound lock the clock, the first lock after a reset may step TIME
forwards, and a later correction only changes its rate; sync messages go out every 2^-7 s, but for links in the dark, and none in
Recovery or S2; a drain holds the peers that have no other route, or waits for a departure in its freeze; the last marker's
acknowledgement begins the dark interval, and at relock the held peers are reachable, lost or unreachable, the stores that waited for
one that cannot be reached dropped (R451 to R455, R466, R472). What an offset says and how a correction is made are the model's choice
(log entries 65 and 104). -/
def Obligations.TimeAndReconfiguration : Prop :=
  let peer := fun (s : State) (c : Nat) => Assoc.find? s.fab.peers c
  (∀ s (offset : Int) (bound : Nat), s.up = false ∨ s.plat.power = .s2 ∨ s.fab.grand = some s.chip.toNat →
    exec (.ptpSyncMessage offset bound) s = .next s) ∧
  (∀ s (offset : Int) (bound : Nat), s.up = true → s.plat.power ≠ .s2 → s.fab.grand ≠ some s.chip.toNat →
    ∃ u, exec (.ptpSyncMessage offset bound) s = .next u ∧ u = { s with clk := u.clk } ∧
    u.clk.streak = (if offset.natAbs ≤ bound then min (s.clk.streak + 1) 16 else 0) ∧
    (u.clk.locked = true ↔ u.clk.streak = 16) ∧ u.clk.stepped = (s.clk.stepped || u.clk.locked) ∧ u.clk.cycles = s.clk.cycles ∧
    (u.clk.locked = false → u.clk.time = s.clk.time ∧ u.clk.slew = 0 ∧ u.clk.gain = 0) ∧
    (u.clk.locked = true → u.clk.slew = (-offset).toNat ∧
      u.clk.time = (if s.clk.stepped = false then s.clk.time + offset.toNat else s.clk.time) ∧
      u.clk.gain = if s.clk.stepped = false then 0 else offset.toNat)) ∧
  (∀ s, ∃ u, exec .syncInterval s = .next u ∧ u.clk.tick = s.clk.tick + 7812500 ∧ u.clk.time = max s.clk.time (s.clk.tick + 7812500) ∧
    u.out = (if s.up = true ∧ s.plat.power ≠ .s2 then s.out ++ [.sync u.clk.time s.darkLinks] else s.out) ∧ u.mem = s.mem ∧ SameThreads s u) ∧
  (∀ s links peers, (∃ e ∈ s.veins, e.2.frozen ≠ []) → ∃ u, exec (.reconfigDrain links peers) s = .next u ∧
    u = { s with fab := { s.fab with drainDue := s.fab.drainDue ++ [(links, peers)] } }) ∧
  (∀ s links peers, (∀ e ∈ s.veins, e.2.frozen = []) → ∃ u, exec (.reconfigDrain links peers) s = .next u ∧ u.mem = s.mem ∧ u.threads = s.threads ∧ u.tasks = s.tasks ∧
    (∀ l ∈ links, OutMsg.drain l ∈ u.out) ∧ (∃ r, u.fab.reconf = some r ∧ r.darkSince = none ∧ (∀ l ∈ links, l ∈ r.links ∧ l ∈ r.unacked) ∧
      ∀ c ∈ peers.ordered, c ∈ r.ordered) ∧
    ∀ c p, peer s c = some p → ∃ p', peer u c = some p' ∧ p'.inc = p.inc ∧
      p'.st = if c ∈ peers.only ∧ p.st = .reachable then .held else p.st) ∧
  (∀ s link r, s.fab.reconf = some r → ∃ u r', exec (.drainMarkerAck link) s = .next u ∧
    u = { s with fab := { s.fab with reconf := some r' } } ∧ r'.unacked = r.unacked.filter (fun l => l != link) ∧
    r'.darkSince = if r'.unacked = [] ∧ r.darkSince = none then some s.clk.time else r.darkSince) ∧
  (∀ s c p reachable (dark : Bool) r, s.fab.reconf = some r → s.fab.peers = [(c, p)] → p.st = .held → s.fab.asleep = [] → s.veins = [] →
    s.fab.waits = [] → (dark = true → reachable = r.routed ∧ r.darkSince.isSome) →
    ∃ u p', exec (if dark then .rcdarkExpiry else .reconfigRelock reachable []) s = .next u ∧ u.fab.reconf = none ∧ u.mem = s.mem ∧
      SameThreads s u ∧ peer u c = some p' ∧ p'.inc = p.inc ∧ p'.since = u.clk.time ∧
      p'.st = if c ∈ reachable then .reachable else .unreachable) ∧
  (∀ s c p r id w core slot k j t i, s.fab.reconf = some r → s.fab.peers = [(c, p)] → p.st = .held → s.fab.asleep = [] → s.veins = [] →
    s.fab.waits = [(i, c)] → s.out[i]? = some (.remote c id) → Assoc.find? s.rws id = some w → w.copy = none → w.thrs = [j] →
    s.findUid w.uid = some (core, slot) → s.task? core slot = some k → s.thread? ⟨core, slot, j⟩ = some t →
    ∃ u t', exec (.reconfigRelock [] []) s = .next u ∧ Assoc.find? u.rws id = none ∧ u.fab.waits = [] ∧ u.mem = s.mem ∧
      u.thread? ⟨core, slot, j⟩ = some t' ∧ t' = { t with drop := true }) ∧
  ∀ s c p reachable r, s.fab.reconf = some r → s.fab.peers = [(c, p)] → p.st = .held → s.fab.asleep = [] → s.veins = [] → s.rws = [] →
    s.fab.waits = [] → (∀ e ∈ s.agents.tickets, e.2.open_ = false) → ∃ u p', exec (.reconfigRelock reachable [c]) s = .next u ∧ u.fab.reconf = none ∧ u.mem = s.mem ∧ u.threads = s.threads ∧
      peer u c = some p' ∧ p'.st = .lost

/- ## The platform -/

/-- Power: the cap and the throttle force A1 with a record of kind 9, and their release ends the force, the clock switching once
every core stands between runs; a cluster is gated where nothing of it runs and runs again on a placement; S2 is entered with the queue
entries written back and the caches outside L2 empty, and left at a wake; turning the chip off keeps flash, fuses and what is not the
chip's (R471 to R474). The model's choice: the records' codes (log entries 19, 68), one clock for all cores (log entry 92), what S2 asks
and keeps (log entries 69, 107). -/
def Obligations.PowerStates : Prop :=
  let last := fun (u : State) (kind arg0 arg1 : Nat) =>
    ∃ rec, Assoc.find? u.dlog ((u.dseq - 1) % 16384) = some rec ∧ rec.kind = kind ∧ rec.arg0 = arg0 ∧ rec.arg1 = arg1
  let same := fun (s u : State) => u.mem = s.mem ∧ u.threads = s.threads ∧ u.tasks = s.tasks ∧ u.regs = s.regs
  (∀ s mw (order : Bool), ∃ u, exec (.powerCap mw order) s = .next u ∧ same s u ∧ (mw ≤ 3300000 ∨ order = false → u = s) ∧
    (3300000 < mw → order = true → s.up = true → s.plat.power = .a0 ∨ s.plat.power = .a1 →
      u.plat.power = (if s.runs = [] then .a1 else s.plat.power) ∧ u.plat.capForce = true ∧ last u 9 (s.plat.tj % 2 ^ 16 + 2 ^ 16) 1)) ∧
  (∀ s tj, ∃ u, exec (.junctionThrottle tj) s = .next u ∧ same s u ∧ u.plat.tj = tj ∧
    (tj < 950 → u.plat.power = s.plat.power ∧ u.plat.thermForce = s.plat.thermForce ∧ u.dlog = s.dlog) ∧
    (950 ≤ tj → s.plat.thermForce = false → s.up = true → s.plat.power = .a0 ∨ s.plat.power = .a1 →
      u.plat.power = (if s.runs = [] then .a1 else s.plat.power) ∧ u.plat.thermForce = true ∧ last u 9 (tj % 2 ^ 16) 1)) ∧
  (∀ s tj (low : Bool), ∃ u, exec (.throttleRelease tj low) s = .next u ∧ same s u ∧ u.plat.tj = tj ∧
    u.plat.thermForce = (s.plat.thermForce && decide (900 ≤ tj)) ∧ u.plat.capForce = (s.plat.capForce && !low) ∧
    (s.plat.thermForce = true → tj < 900 → s.plat.capForce = false → s.plat.wantA1 = false → s.plat.power = .a1 →
      u.plat.power = if s.runs = [] then .a0 else .a1)) ∧
  (∀ s (on : Bool), s.up = true → s.plat.power = .a0 ∨ s.plat.power = .a1 → ∃ u, exec (.powerStateA1 on) s = .next u ∧ same s u ∧
    u.plat.wantA1 = on ∧ (s.runs = [] → u.plat.power = if s.plat.capForce || s.plat.thermForce || on then .a1 else .a0) ∧
    (s.runs ≠ [] → u.plat.power = s.plat.power)) ∧
  (∀ s (on : Bool), s.up = false → exec (.powerStateA1 on) s = .next s) ∧
  (∀ s c, s.up = true → s.mayGate c = true → c ∉ s.plat.gated →
    ∃ u, exec (.s1Entry c) s = .next u ∧ same s u ∧ u.plat.gated = s.plat.gated ++ [c]) ∧
  (∀ s c, ∃ u, exec (.s1Exit c) s = .next u ∧ same s u ∧ c ∉ u.plat.gated ∧ ∀ d, d ≠ c → (d ∈ u.plat.gated ↔ d ∈ s.plat.gated)) ∧
  (∀ s, s.mayS2 = true → ∃ u, exec .s2Entry s = .next u ∧ u.plat.power = .s2 ∧ u.clk.locked = false ∧ u.agents.cache = [] ∧
    OutMsg.lowPower true ∈ u.out ∧ (s.tasks = [] → s.veins = [] → u.threads = s.threads ∧ u.regs = s.regs ∧ u.tlb = [] ∧ u.trace = [] ∧
      ∀ c, (u.core c).l1 = [] ∧ (u.core c).mac0.fail = (s.core c).mac0.fail ∧ (u.core c).mac1.fail = (s.core c).mac1.fail)) ∧
  (∀ s, s.mayS2 = false → exec .s2Entry s = .next s) ∧
  (∀ s, s.plat.power = .s2 → s.plat.sec ≠ .recovery → ∃ u, exec .s2Exit s = .next u ∧ same s u ∧ OutMsg.lowPower false ∈ u.out ∧
    u.plat.power = if s.plat.capForce || s.plat.thermForce || s.plat.wantA1 then .a1 else .a0) ∧
  ∀ i s, s.plat.power ≠ .s3 → (i = Instr.s3Entry ∨ ∃ tj, 1100 ≤ tj ∧ i = .junctionTrip tj) →
    ∃ u, exec i s = .next u ∧ u.plat.power = .s3 ∧ u.tasks = [] ∧ u.threads = [] ∧ u.dlog = [] ∧ u.chip = s.chip ∧ u.inc = s.inc ∧
      u.plat.arb = s.plat.arb ∧ u.plat.khash = s.plat.khash ∧ u.agents.cache = [] ∧
      (∀ a, 2 ^ 110 ≤ a → a < 2 ^ 111 → Memory.read u.mem a = Memory.read s.mem a) ∧
      ∀ a, a < 2 ^ 64 → a / 2 ^ 51 = s.chip.toNat → Memory.read u.mem a = 0

/-- Resets and Recovery: a cold reset gives every register its reset value and the next incarnation, a warm one stops every
core and abandons tasks and launches with memory and system registers kept; either boots the slot that is valid at all four
chips, or enters Recovery, in A0, where the mailbox stages, checks and installs a slot and REBOOT leaves; the end of S3 and the leaving
of Recovery have their records (R325, R460, R464 to R467, R469, R473, R474, R499). The model's choice: what a warm reset keeps (log entry
70), REBOOT's one incarnation (log entry 71), the records' codes (log entry 19), and how SM2's values are laid out (log entry 101). -/
def Obligations.ResetsAndRecovery : Prop :=
  let boots := fun (s : State) (peers : PeerSlots) (sec : Sec) => match s.bootSlot peers with
    | some _ => sec
    | none => .recovery
  (∀ s peers (unlock : Bool), ∃ u, exec (.coldReset peers unlock) s = .next u ∧ u.inc = s.inc + 1 ∧ u.chip = s.chip ∧ u.tasks = [] ∧
    u.threads = [] ∧ u.runs = [] ∧ u.regs = SysRegs.reset ∧ u.cores = [] ∧ u.harts = [] ∧ u.plat.power = .a0 ∧ u.plat.arb = s.plat.arb ∧
    u.plat.khash = s.plat.khash ∧ u.plat.sec = boots s peers (if unlock then .openDebug else .sealed) ∧
    (s.plat.power = .s3 → ∃ rec, Assoc.find? u.dlog 0 = some rec ∧ rec.kind = 11 ∧ rec.arg0 = 4 ∧ rec.arg1 = 0) ∧
    (s.plat.power ≠ .s3 → s.plat.sec = .recovery → ∃ rec, Assoc.find? u.dlog 0 = some rec ∧ rec.kind = 10 ∧ rec.arg0 = 2)) ∧
  (∀ s peers, s.up = true → ∃ u, exec (.warmReset peers) s = .next u ∧ u.inc = s.inc + 1 ∧ u.tasks = [] ∧ u.threads = [] ∧ u.runs = [] ∧
    u.agents.launches = [] ∧ u.agents.leases = [] ∧ u.mem = s.mem ∧ u.regs = s.regs ∧ u.harts = s.harts ∧ u.dseq ≠ s.dseq ∧
    u.plat.sec = boots s peers (if s.plat.sec = .openDebug then .openDebug else .sealed) ∧
    (s.bootSlot peers = none → u.plat.power = .a0) ∧
    (s.bootSlot peers ≠ none → s.plat.power = .s2 →
      u.plat.power = if s.plat.capForce || s.plat.thermForce || s.plat.wantA1 then .a1 else .a0)) ∧
  (∀ s i, s.plat.sec ≠ .recovery → (∃ n, i = Instr.mailboxBegin n) ∨ (∃ o d, i = .mailboxChunk o d) ∨ (∃ p, i = .mailboxSeal p) ∨
    (∃ p, i = .mailboxReboot p) ∨ (∃ c, i = .mailboxInvalidCmd c) → exec i s = .next s) ∧
  (∀ s, s.plat.sec = .recovery → s.plat.power ≠ .s3 →
    (∀ total, ∃ u, exec (.mailboxBegin total) s = .next u ∧ u.plat.cmd = 1 ∧ u.plat.arg = total ∧ u.threads = s.threads ∧
      u.plat.status = (if total ≤ 2 ^ 26 + 256 then 1 else 2) ∧
      (total ≤ 2 ^ 26 + 256 → u.plat.total = total ∧ ∀ a, 2 ^ 111 ≤ a → Memory.read u.mem a = 0) ∧
      ∀ a < 2 ^ 111, Memory.read u.mem a = Memory.read s.mem a) ∧
    (∀ off data, ∃ u, exec (.mailboxChunk off data) s = .next u ∧ u.plat.cmd = 2 ∧ u.plat.arg = off ∧
      (∀ i < 3840, Assoc.getD u.plat.data 0 i = data.getD i 0) ∧
      (off % 3840 = 0 → off < s.plat.total → u.plat.status = 1 ∧
        (∀ i < 3840, Memory.read u.mem (2 ^ 111 + off + i) = data.getD i 0) ∧
        ∀ a, a < 2 ^ 111 + off ∨ 2 ^ 111 + off + 3840 ≤ a → Memory.read u.mem a = Memory.read s.mem a) ∧
      (off % 3840 ≠ 0 ∨ s.plat.total ≤ off → u.plat.status = 3 ∧ u.mem = s.mem)) ∧
    (∀ p, ∃ u, exec (.mailboxSeal p) s = .next u ∧
      (s.slotFault 2 = 0 → p = 0 → u.plat.status = 1 ∧
        Memory.readN u.mem (2 ^ 110 + (if s.slotFault 0 = 0 then 2 ^ 32 else 0)) s.plat.total = Memory.readN s.mem (2 ^ 111) s.plat.total) ∧
      (s.slotFault 2 ≠ 0 ∨ p ≠ 0 → u.mem = s.mem ∧ u.plat.status = 4 + 256 *
        ((if s.slotFault 2 = 0 then p else if p = 0 then s.slotFault 2 else min (s.slotFault 2) p) % 256))) ∧
    (∀ peers, ∃ u, exec (.mailboxReboot peers) s = .next u ∧ u.inc = s.inc + 1 ∧ u.tasks = [] ∧ u.mem = s.mem ∧
      u.plat.sec = boots s peers .sealed) ∧
    ∀ c, ¬(1 ≤ c ∧ c ≤ 4) → ∃ u, exec (.mailboxInvalidCmd c) s = .next u ∧ u = { s with plat := { s.plat with cmd := c, status := 5 } }) ∧
  ∀ s n, s.up = true → ∃ u, exec (.antiRollbackFuseBlow n) s = .next u ∧ u = { s with plat := { s.plat with arb := u.plat.arb } } ∧
    (s.plat.sec = .sealed → n ≤ s.plat.svn → u.plat.arb = max s.plat.arb n) ∧ (s.plat.sec ≠ .sealed ∨ s.plat.svn < n → u = s)

/-- What the chip reports: an attestation report with the nonce and the measurement goes out signed, a debug state holds as set, at once
between runs and at its boundary for a run under way,
and the oldest trace event enters its ring at TRWP, waits for a page that can't be written yet, or is counted as dropped (R437, R468
to R470). The model's choice: the layout of a report (log entry 22), its signature, which is free (log entry 5), and the named contexts
outside Sealed (log entry 38). -/
def Obligations.ReportsAndTraces : Prop :=
  (∀ s nonce, s.up = true → nonce.length = 32 → ∃ u rep sig, exec (.attestationRequest nonce) s = .next u ∧
    u.out = s.out ++ [.attest rep sig] ∧ u.mem = s.mem ∧ u.plat = s.plat ∧
    rep = nonce ++ leBytes 2 s.chip.toNat ++ leBytes 2 s.inc.toNat ++ s.plat.meas ++ leBytes 4 s.plat.svn ++ leBytes 4 s.plat.arb ++
      leBytes 1 (secCode s.plat.sec) ++ leBytes 1 (dbgCode s.plat.dbg) ++ leBytes 2 s.mfail) ∧
  (∀ s st asids asid, s.up = true → ∃ u, exec (.debugStateChange st asids) s = .next u ∧
    u = { s with plat := { s.plat with dbg := u.plat.dbg, dbgAsids := asids }, runs := u.runs } ∧
    u.dbgRun asid = (match s.curRun with | none => u.dbgOf asid | some _ => s.dbgRun asid) ∧
    u.dbgOf asid = if s.plat.sec = .openDebug ∨ asid ∈ asids then (if st = 1 then .trace else if st = 2 then .halt else .off) else .off) ∧
  ∀ s e rest, s.trace = e :: rest →
    let at_ := fld s.regs.trbase.toNat 5 52 * 32 + 32 * (s.regs.trwp.toNat % 2 ^ fld s.regs.trctl.toNat 0 5)
    (s.devBusy 0 at_ .w = true ∨ s.storeWaits 0 at_ = true → exec .traceRecordWrite s = .next s) ∧
    (s.devBusy 0 at_ .w = false → s.storeWaits 0 at_ = false → ∃ u, exec .traceRecordWrite s = .next u ∧ u.trace = rest ∧ u.threads = s.threads ∧ u.tasks = s.tasks ∧
      (∀ key cls g, s.translate 0 at_ .w = .ok key cls g → cls ≤ 1 → u.regs = { s.regs with trwp := s.regs.trwp + 1 } ∧
        ((∀ c, s.homeOf key ≠ .peer c) → Memory.readN u.mem key 32 = leBytes 8 e.time ++ leBytes 4 e.lnum ++ leBytes 2 e.thr ++
            leBytes 2 e.core ++ leBytes 8 e.pc ++ leBytes 6 e.tidx ++ leBytes 2 e.sel ∧
          ∀ a, a < key ∨ key + 32 ≤ a → Memory.read u.mem a = Memory.read s.mem a)) ∧
      (∀ key g n off, s.translate 0 at_ .w = .ok key 2 g → s.homeOf key = .vein n off →
        u.regs = { s.regs with trwp := s.regs.trwp + 1 }) ∧
      ((∀ key cls g, s.translate 0 at_ .w = .ok key cls g → cls = 3) → (∀ off, s.translate 0 at_ .w ≠ .wake off) → u.mem = s.mem ∧
        u.regs = { s.regs with trdrop := min (s.regs.trdrop + 1) (2 ^ 32 - 1) }))

/- ## Decoding, one step, and the machine's invariant -/

/-- A step runs the decoded instruction: with nothing asked of the chip before it, the word at the current run's program
counter (with the literal word after a MOVL) is decoded and executed by exec, after the atomic cache has given up the lines it is
fetched from (R327); then what ends by itself ends and time passes. A word whose group can't issue yet leaves exec's runs as they are,
and step then takes something else: the order is the model's choice (log entry 23). -/
def Obligations.StepRunsTheDecodedWord : Prop :=
  ∀ s id q k e rest w, s.plat.power = .a0 ∨ s.plat.power = .a1 → s.plat.sec ≠ .recovery → s.agenda = [] →
    s.curRun = some (id, q) → s.task? q.core q.slot = some k → s.live q = e :: rest → s.fetchWord k q.pc.toNat = .ok w →
    let s1 := s.fetchTake k e.2 q.pc.toNat
    (s.fab.acache = [] → s1 = s) ∧
    (∀ i, fld w 57 7 ≠ 41 → decodeWord w none = .ok i →
      (∀ t, exec i s1 = .next t → t.runs ≠ s.runs → step s = .next t.settle.tick) ∧
      (∀ f, exec i s1 = .fault f → step s = .fault f) ∧ ∀ f, exec i s1 = .refused f → step s = .refused f) ∧
    (∀ key cls g, s.translate k.asid q.pc.toNat .x = .ok key cls g → w = leNat (k.bytes s key 8)) ∧
    ∀ i lit, fld w 57 7 = 41 → (∃ b, e.2.blk = some b ∧ q.pc + 8 ≠ b.endPc) → s.fetchWord k (q.pc.toNat + 8) = .ok lit →
      decodeWord w (some lit) = .ok i →
      (∀ t, exec i s1 = .next t → t.runs ≠ s.runs → step s = .next t.settle.tick) ∧ ∀ f, exec i s1 = .fault f → step s = .fault f

/-- The spec's sample words decode to what they stand for (a sanity statement on a few words). -/
def Obligations.SampleWordsDecode : Prop :=
  let h : Hdr := { b := false, la := 0, g := 0, gn := false }
  decodeTableWord 64 0xC2000500003C0380 = some (.mma h false false .dm8 false (.v 40) 0 (.v 30) 0 1) ∧
  decodeTableWord 64 0x1400000000002000 = some (.kset h 0 (.imm 64)) ∧
  decodeTableWord 64 0x1800050000000800 = some (.phadv h (.v 40) 1) ∧
  decodeTableWord 64 0x820000801800050D = some (.cvt h .dm8 .f32 .rn false (.v 4) (.v 3)) ∧
  decodeTableWord 64 0x6E2000600800000A = some (.frcp { h with la := 2 } .rn false (.v 3) (.v 1)) ∧
  decodeTableWord 64 0x0E00010010000000 = some (.waittAbs h (.v 8) (.v 2)) ∧
  decodeTableWord 64 0xD8000600C0004001 = some (.aswapCas h (.v 48) (.v 24) (.v 8)) ∧
  decodeTableWord 64 0xE400018000000000 = some (.sysrd h false (.v 12) 0) ∧
  decodeTableWord 64 0xE900000000000000 = some (.tret { h with b := true })

/-- Right after reset: memory lists nothing and the machine's invariant holds, no task or thread exists, the chip is Sealed in
A0 with debugging off, and the registers hold the values the spec states for reset; where it states none (the queue keys and
the context table's base, for two), the value is the model's choice of log entries 8 and 9 and is not claimed here. -/
def Obligations.ResetState : Prop :=
  State.reset.memWf = true ∧ Assoc.wf State.reset.threads = true ∧ (∀ a, Memory.read State.reset.mem a = unlistedByte) ∧
  State.reset.tasks = [] ∧ State.reset.threads = [] ∧ State.reset.veins = [] ∧ State.reset.dlog = [] ∧ State.reset.dseq = 0 ∧
  State.reset.plat.sec = .sealed ∧ State.reset.plat.power = .a0 ∧ State.reset.plat.dbg = .off ∧
  State.reset.regs.plto = 2000 ∧ State.reset.regs.prewt = 50 ∧ State.reset.regs.parkt = 100 ∧ State.reset.regs.rpwin = 200 ∧
  State.reset.regs.savdef = 1000 ∧ State.reset.regs.fhold = 10000 ∧ State.reset.regs.clmwt = 1000 ∧ State.reset.regs.trwp = 0 ∧
  State.reset.regs.qtab = 0 ∧ (∀ n, State.reset.acfg n = 0 ∧ Assoc.getD State.reset.regs.aroot 0 n = 0) ∧
  State.reset.regs.alease = 4 ∧
  ∀ c, (State.reset.core c).tfair = 4096 ∧ (State.reset.core c).thold = 1024 ∧ (State.reset.core c).mac0.fail = false ∧
    (State.reset.core c).mac1.fail = false ∧ (State.reset.core c).mac0.canary = 0 ∧ (State.reset.core c).mac1.canary = 0

/-- Registers read back what is written to them, and nothing else of the thread changes; p0 always reads true, and the nil and
zero operands discard a write and read as zero (R96, R98, R99).
Bytes written to memory read back, and every address outside them reads as before (R12); the canonical form is
kept. -/
def Obligations.RegistersAndMemoryReadBack : Prop :=
  (
    (∀ (t : Thread) n w, n < 1024 → (t.put n w).reg n = w ∧ (t.put n w).preds = t.preds ∧ (t.put n w).csp = t.csp ∧
      (t.put n w).pc = t.pc ∧ ∀ m, m ≠ n → (t.put n w).reg m = t.reg m) ∧
    (∀ (t : Thread) p b, p < 16 → ((t.puts (putP p b)).pred p = (b || p == 0)) ∧ (t.puts (putP p b)).regs = t.regs ∧
      ∀ r, r < 16 → r ≠ p → (t.puts (putP p b)).pred r = t.pred r) ∧
    (∀ (x : Ctx) w v, x.t.puts (putW .nil w) = x.t ∧ x.t.puts (putD .nil v) = x.t ∧ x.w .zero = 0 ∧ x.d .zero = 0 ∧ x.w .nil = 0 ∧
      ∀ n, n + 1 < 1024 →
        (x.t.puts (putD (.v n) v)).reg n = v.extractLsb' 0 32 ∧ (x.t.puts (putD (.v n) v)).reg (n + 1) = v.extractLsb' 32 32) ∧
    ∀ x : Ctx,
      let reads := fun (k n : Nat) => x.w (.sp k) = BitVec.ofNat 32 n ∧ x.d (.sp k) = BitVec.ofNat 64 n
      let wid := workId x.k.hd x.r.thr x.k.tidx
      reads 0 0 ∧ reads 1 (x.r.thr % 64) ∧ reads 2 x.r.thr ∧ reads 3 (x.r.thr / 64) ∧ reads 4 wid ∧ reads 5 (wid / 2 ^ 32 % 2 ^ 32) ∧
      (∀ n v, x.s.veinOf x.k.asid = some (n, v) → reads 6 v.rank) ∧ (x.s.veinOf x.k.asid = none → reads 6 0xFFFFFFFF) ∧
      reads 7 (x.s.clk.cycles - (x.s.core x.r.core).resetAt) ∧
      (∀ i < 6, reads (8 + i) ((widFields x.k.hd x.r.thr x.k.tidx).getD i 0)) ∧ reads 14 x.k.nthr ∧ reads 15 0) ∧
  (
    ∀ (m : Map Byte) (a : Nat) (bs : List Byte),
      Memory.readN (Memory.writeN m a bs) a bs.length = bs ∧
      (∀ c, c < a ∨ a + bs.length ≤ c → Memory.read (Memory.writeN m a bs) c = Memory.read m c) ∧
      (Memory.wf m = true → Memory.wf (Memory.writeN m a bs) = true) ∧
      ∀ n v : Nat, v < 256 ^ n → leNat (Memory.readN (Memory.writeN m a (leBytes n v)) a n) = v)

/-- Decoding undoes encoding: the bytes of every well-formed instruction word, with every operand at every value its encoding
admits, decode to that instruction; and whatever decodes is well formed. -/
def Obligations.DecodeUndoesEncode : Prop :=
  (∀ i : Instr, i.WellFormed → decode ((encode i).flatMap (leBytes 8)) = .ok i) ∧
  ∀ bs i, decode bs = .ok i → i.WellFormed

/-- Every step keeps the machine's invariant, from any state that has it: the memory keeps its canonical form (strictly rising
addresses and no entry equal to the unlisted byte), and the table of threads its. -/
def Obligations.StepKeepsInv : Prop :=
  ∀ s t, s.memWf = true → Assoc.wf s.threads = true → step s = .next t → t.memWf = true ∧ Assoc.wf t.threads = true
end

