-- ==== Sys2Proof/Laws/Assoc.lean ====
section
/-! SUPPORT. Reading after writing in the sparse tables and in memory, and that every operation keeps the canonical
form. -/

namespace Sys2Proof
namespace Assoc

variable {α : Type}

@[simp] theorem find?_put_same (m : Map α) (n : Nat) (x : α) : find? (put m n x) n = some x := by
  induction m with
  | nil => simp [put, find?]
  | cons e m ih =>
    obtain ⟨k, v⟩ := e
    simp only [put]
    split
    · simp [find?, *]
    · split <;> simp [find?, *]

@[simp] theorem find?_put_ne (m : Map α) (n k : Nat) (x : α) (h : k ≠ n) : find? (put m n x) k = find? m k := by
  induction m with
  | nil => simp [put, find?, h]
  | cons e m ih =>
    obtain ⟨a, v⟩ := e
    simp only [put]
    split
    · subst_vars; simp [find?, h]
    · split <;> simp [find?, h, ih]

@[simp] theorem find?_del_same (m : Map α) (n : Nat) : find? (del m n) n = none := by
  induction m with
  | nil => rfl
  | cons e m ih =>
    obtain ⟨a, v⟩ := e
    simp only [del]
    split <;> simp_all [find?]

@[simp] theorem find?_del_ne (m : Map α) (n k : Nat) (h : k ≠ n) : find? (del m n) k = find? m k := by
  induction m with
  | nil => rfl
  | cons e m ih =>
    obtain ⟨a, v⟩ := e
    simp only [del]
    split
    · subst_vars; simp [find?, h, ih]
    · simp [find?, ih]

section
variable [DecidableEq α]

@[simp] theorem getD_setD_same (m : Map α) (d : α) (n : Nat) (x : α) : getD (setD m d n x) d n = x := by
  unfold setD getD
  split <;> simp_all

@[simp] theorem getD_setD_ne (m : Map α) (d : α) (n k : Nat) (x : α) (h : k ≠ n) :
    getD (setD m d n x) d k = getD m d k := by
  unfold setD getD
  split <;> simp [h]

end

theorem above_mono {a b : Nat} (h : a ≤ b) : ∀ m : Map α, above b m = true → above a m = true
  | [], _ => rfl
  | (k, v) :: m, hm => by
    simp only [above, Bool.and_eq_true, decide_eq_true_eq] at hm ⊢
    exact ⟨by omega, hm.2⟩

theorem above_put {a n : Nat} (x : α) (han : a < n) : ∀ m : Map α, above a m = true → above a (put m n x) = true
  | [], _ => by simp [put, above, han]
  | (k, v) :: m, h => by
    simp only [above, Bool.and_eq_true, decide_eq_true_eq] at h
    simp only [put]
    split
    · simp_all [above]
    · split
      · simp_all [above]
      · simp only [above, Bool.and_eq_true, decide_eq_true_eq]
        exact ⟨h.1, above_put x (by omega) m h.2⟩

theorem above_del {a : Nat} (n : Nat) : ∀ m : Map α, above a m = true → above a (del m n) = true
  | [], _ => rfl
  | (k, v) :: m, h => by
    simp only [above, Bool.and_eq_true, decide_eq_true_eq] at h
    simp only [del]
    split
    · exact above_mono (by omega) _ (above_del n m h.2)
    · simp only [above, Bool.and_eq_true, decide_eq_true_eq]
      exact ⟨h.1, above_del n m h.2⟩

theorem wf_of_above {a : Nat} : ∀ m : Map α, above a m = true → wf m = true
  | [], _ => rfl
  | (k, v) :: m, h => by
    simp only [above, Bool.and_eq_true] at h
    exact h.2

theorem wf_put (m : Map α) (n : Nat) (x : α) (h : wf m = true) : wf (put m n x) = true := by
  cases m with
  | nil => rfl
  | cons e m =>
    obtain ⟨k, v⟩ := e
    simp only [wf] at h
    simp only [put]
    split
    · subst_vars; exact h
    · split
      · simp [wf, above, *]
      · exact above_put x (by omega) m h

theorem wf_del (m : Map α) (n : Nat) (h : wf m = true) : wf (del m n) = true := by
  cases m with
  | nil => rfl
  | cons e m =>
    obtain ⟨k, v⟩ := e
    simp only [wf] at h
    simp only [del]
    split
    · exact wf_of_above _ (above_del n m h)
    · exact above_del n m h

theorem above_filter {a : Nat} (p : Nat × α → Bool) : ∀ m : Map α, above a m = true → above a (m.filter p) = true
  | [], _ => rfl
  | (k, v) :: m, h => by
    simp only [above, Bool.and_eq_true, decide_eq_true_eq] at h
    simp only [List.filter]
    split
    · simp only [above, Bool.and_eq_true, decide_eq_true_eq]
      exact ⟨h.1, above_filter p m h.2⟩
    · exact above_mono (by omega) _ (above_filter p m h.2)

theorem wf_filter (p : Nat × α → Bool) (m : Map α) (h : wf m = true) : wf (m.filter p) = true := by
  cases m with
  | nil => rfl
  | cons e m =>
    obtain ⟨k, v⟩ := e
    simp only [wf] at h
    simp only [List.filter]
    split
    · exact above_filter p m h
    · exact wf_of_above _ (above_filter p m h)

theorem mem_put (m : Map α) (n : Nat) (x : α) (e : Nat × α) (h : e ∈ put m n x) : e = (n, x) ∨ e ∈ m := by
  induction m with
  | nil => simp_all [put]
  | cons a m ih =>
    obtain ⟨k, v⟩ := a
    simp only [put] at h
    split at h
    · simp_all; tauto
    · split at h <;> simp_all; tauto

theorem mem_del (m : Map α) (n : Nat) (e : Nat × α) (h : e ∈ del m n) : e ∈ m := by
  induction m with
  | nil => simp_all [del]
  | cons a m ih =>
    obtain ⟨k, v⟩ := a
    simp only [del] at h
    split at h
    · exact List.mem_cons_of_mem _ (ih h)
    · rcases List.mem_cons.mp h with h | h
      · simp [h]
      · exact List.mem_cons_of_mem _ (ih h)

end Assoc

/- ## Memory -/

namespace Memory

@[simp] theorem read_write_same (m : Map Byte) (a : Nat) (b : Byte) : Memory.read (Memory.write m a b) a = b :=
  Assoc.getD_setD_same m unlistedByte a b

@[simp] theorem read_write_ne (m : Map Byte) (a c : Nat) (b : Byte) (h : c ≠ a) :
    Memory.read (Memory.write m a b) c = Memory.read m c :=
  Assoc.getD_setD_ne m unlistedByte a c b h

theorem wf_write (m : Map Byte) (a : Nat) (b : Byte) (h : Memory.wf m = true) : Memory.wf (Memory.write m a b) = true := by
  simp only [Memory.wf, Bool.and_eq_true, List.all_eq_true, decide_eq_true_eq] at h ⊢
  unfold Memory.write Assoc.setD
  split
  · exact ⟨Assoc.wf_del _ _ h.1, fun e he => h.2 e (Assoc.mem_del _ _ _ he)⟩
  · refine ⟨Assoc.wf_put _ _ _ h.1, fun e he => ?_⟩
    rcases Assoc.mem_put _ _ _ _ he with he | he
    · simp_all
    · exact h.2 e he

theorem wf_writeN (bs : List Byte) : ∀ (m : Map Byte) (a : Nat), Memory.wf m = true → Memory.wf (Memory.writeN m a bs) = true := by
  induction bs with
  | nil => intro m a h; exact h
  | cons b bs ih => intro m a h; exact ih _ _ (wf_write m a b h)

theorem wf_filter (p : Nat × Byte → Bool) (m : Map Byte) (h : Memory.wf m = true) : Memory.wf (m.filter p) = true := by
  simp only [Memory.wf, Bool.and_eq_true, List.all_eq_true] at h ⊢
  exact ⟨Assoc.wf_filter p m h.1, fun e he => h.2 e (List.mem_filter.mp he).1⟩

/-- A write of bytes leaves every address outside them as it was. -/
theorem read_writeN_out (bs : List Byte) : ∀ (m : Map Byte) (a c : Nat), (c < a ∨ a + bs.length ≤ c) →
    Memory.read (Memory.writeN m a bs) c = Memory.read m c := by
  induction bs with
  | nil => intro m a c _; rfl
  | cons b bs ih =>
    intro m a c h
    simp only [List.length_cons] at h
    rw [Memory.writeN, ih _ _ _ (by omega), read_write_ne _ _ _ _ (by omega)]

/-- What was written reads back. -/
theorem readN_writeN (bs : List Byte) : ∀ (m : Map Byte) (a : Nat), Memory.readN (Memory.writeN m a bs) a bs.length = bs := by
  induction bs with
  | nil => intro m a; rfl
  | cons b bs ih =>
    intro m a
    rw [Memory.writeN, List.length_cons, Memory.readN, ih,
      read_writeN_out bs _ _ _ (by omega), read_write_same]

end Memory
end Sys2Proof
end

