-- ==== Sys2Proof/Laws/Issue.lean ====
section
/-! SUPPORT. What issuing a word comes to, said once: for a group of one thread, whatever the word; and what
`GoesOn` and `Places` ask of a word that is issued. -/

namespace Sys2Proof
namespace Machine

/-- What the current run's group issues is what `issues?` says. -/
theorem State.issues?_some {s : State} {i : Instr} {id : Nat} {q : Run} {k : Task} {h : Hdr}
    (hs : s.issues? i = some (id, q, k, h)) :
    s.curRun = some (id, q) ∧ i.hdr? = some h ∧ s.task? q.core q.slot = some k ∧ q.members.Nodup ∧
      ((s.live q).any fun e => e.2.stalledOn i) = false ∧ (convergent i && !q.conv) = false ∧ q.len < 24 ∧
      (!h.b && (s.live q).any fun e => lastOfBlock i e.2) = false ∧
      s.tableFull q i (s.acting q h).length = false := by
  unfold State.issues? at hs
  split at hs
  · split at hs
    · split at hs
      · rename_i hc
        cases hs
        simp only [Bool.and_eq_true, decide_eq_true_eq, Bool.not_eq_true', Bool.or_eq_true] at hc
        obtain ⟨⟨⟨⟨⟨h1, h2⟩, h3⟩, h4⟩, h5⟩, h6⟩ := hc
        refine ⟨‹_›, ‹_›, ‹_›, h1, h2, ?_, h4, ?_, h6⟩
        · rcases h3 with h3 | h3 <;> simp [h3]
        · rcases h5 with h5 | h5 <;> simp [h5]
      · exact absurd hs (by simp)
    · exact absurd hs (by simp)
  · exact absurd hs (by simp)

/-- A group that may issue a word, and whose word's own condition holds, issues it: the effect of each active member in
turn, then the others go past it. -/
theorem issueWith_group {i : Instr} {pre : State → Task → Run → List (Nat × Thread) → Bool} {body : Ctx → State → Out}
    {s : State} {id : Nat} {q : Run} {k : Task} {h : Hdr} (hs : s.issues? i = some (id, q, k, h))
    (hp : pre s k q (s.acting q h) = true) :
    issueWith i pre body s =
      (((s.live q).filter fun e => !e.2.active h).foldl
        (fun st e => st.advance ⟨q.core, q.slot, e.1⟩ k (wordBytes i))
        ((s.acting q h).foldl (fun st e => st.execOne s k q i body e) (s.tickAll q))).afterWord id q i h
          (!(s.acting q h).isEmpty) := by
  obtain ⟨h1, h2, h3, _, h5, h6, h7, h8, h9⟩ := State.issues?_some hs
  have hlen : ¬ 24 ≤ q.len := by omega
  unfold State.acting at *
  simp only [issueWith, h1, h2, h3, h5, h6, h8, h9, hp, hlen]
  simp

/-- What `solo?` says of a group of one. -/
theorem State.solo?_some {s : State} {i : Instr} {id : Nat} {q : Run} {h : Hdr} {x : Ctx}
    (hs : s.solo? i = some (id, q, h, x)) :
    ∃ k j t, x = s.ctx k q j t ∧ s.issues? i = some (id, q, k, h) ∧ s.live q = [(j, t)] ∧ t.active h = true ∧
      precheck k q.slot j t i = none := by
  unfold State.solo? at hs
  split at hs
  · split at hs
    · split at hs
      · rename_i hi _ _ _ hl hc
        cases hs
        simp only [Bool.and_eq_true, Option.isNone_iff_eq_none] at hc
        exact ⟨_, _, _, rfl, hi, hl, hc.1, hc.2⟩
      · exact absurd hs (by simp)
    · exact absurd hs (by simp)
  · exact absurd hs (by simp)

/-- A word issued by a group of one thread, by the outcome of its own effect. -/
theorem issueWith_solo {i : Instr} {pre : State → Task → Run → List (Nat × Thread) → Bool} {body : Ctx → State → Out}
    {s : State} {id : Nat} {q : Run} {h : Hdr} {x : Ctx} (hs : s.solo? i = some (id, q, h, x))
    (hp : pre s x.k q [(x.r.thr, x.t)] = true) :
    issueWith i pre body s =
      match body x (s.begun q i x.r) with
      | .ok u => ((u.noteWrites x.r i).advance x.r x.k (wordBytes i)).afterWord id q i h true
      | .stay u => u.afterWord id q i h true
      | .moved u => u.afterWord id q i h true
      | .trap c d tv ta =>
        ((s.tickAll q).updThread x.r fun t => t.raise c d x.t.pc tv ta).afterWord id q i h true := by
  obtain ⟨k, j, t, rfl, h1, h2, h3, h4⟩ := State.solo?_some hs
  have ha : s.acting q h = [(j, t)] := by simp [State.acting, h2, h3]
  rw [issueWith_group h1 (by rw [ha]; exact hp), ha, h2]
  simp only [List.filter, h3, Bool.not_true, List.foldl, State.execOne, h4, State.begun, State.ctx]
  split <;> simp_all [State.ctx]

/-- `GoesOn` from what the word's effect answers. -/
theorem goesOn_of {i : Instr} {P : Ctx → State → Prop} {E : Ctx → State → State → Prop}
    {pre : State → Task → Run → List (Nat × Thread) → Bool} {body : Ctx → State → Out}
    (he : ∀ s, exec i s = .next (issueWith i pre body s))
    (hp : ∀ s q x st, x.s = s → P x st → pre s x.k q [(x.r.thr, x.t)] = true)
    (hb : ∀ x st, P x st → ∃ u, body x st = .ok u ∧ E x st u) : GoesOn i P E := by
  intro s id q h x hs hP
  obtain ⟨u, hu, hE⟩ := hb x _ hP
  refine ⟨u, hE, ?_⟩
  obtain ⟨k, j, t, rfl, -⟩ := State.solo?_some hs
  rw [he, issueWith_solo hs (hp s q _ _ rfl hP), hu]

/-- `Places` from what the word's effect answers. -/
theorem places_of {i : Instr} {P : Ctx → State → Prop} {E : Ctx → State → State → Prop}
    {pre : State → Task → Run → List (Nat × Thread) → Bool} {body : Ctx → State → Out}
    (he : ∀ s, exec i s = .next (issueWith i pre body s))
    (hp : ∀ s q x st, x.s = s → P x st → pre s x.k q [(x.r.thr, x.t)] = true)
    (hb : ∀ x st, P x st → ∃ u, (body x st = .stay u ∨ body x st = .moved u) ∧ E x st u) : Places i P E := by
  intro s id q h x hs hP
  obtain ⟨u, hu, hE⟩ := hb x _ hP
  refine ⟨u, hE, ?_⟩
  obtain ⟨k, j, t, rfl, -⟩ := State.solo?_some hs
  rw [he, issueWith_solo hs (hp s q _ _ rfl hP)]
  rcases hu with hu | hu <;> rw [hu]

end Machine
end Sys2Proof
end

