-- ==== Sys2Proof/Laws/State.lean ====
section
/-! SUPPORT. What each update of the state leaves alone, a field at a time, and reading back what was set. -/

namespace Sys2Proof
namespace Machine

variable (s : State)

/- ## setThread -/

@[simp] theorem State.setThread_chip (r : TRef) (t : Thread) : (s.setThread r t).chip = s.chip := rfl
@[simp] theorem State.setThread_inc (r : TRef) (t : Thread) : (s.setThread r t).inc = s.inc := rfl
@[simp] theorem State.setThread_clk (r : TRef) (t : Thread) : (s.setThread r t).clk = s.clk := rfl
@[simp] theorem State.setThread_regs (r : TRef) (t : Thread) : (s.setThread r t).regs = s.regs := rfl
@[simp] theorem State.setThread_cores (r : TRef) (t : Thread) : (s.setThread r t).cores = s.cores := rfl
@[simp] theorem State.setThread_tasks (r : TRef) (t : Thread) : (s.setThread r t).tasks = s.tasks := rfl
@[simp] theorem State.setThread_runs (r : TRef) (t : Thread) : (s.setThread r t).runs = s.runs := rfl
@[simp] theorem State.setThread_cur (r : TRef) (t : Thread) : (s.setThread r t).cur = s.cur := rfl
@[simp] theorem State.setThread_lastCore (r : TRef) (t : Thread) : (s.setThread r t).lastCore = s.lastCore := rfl
@[simp] theorem State.setThread_timersFirst (r : TRef) (t : Thread) : (s.setThread r t).timersFirst = s.timersFirst := rfl
@[simp] theorem State.setThread_mem (r : TRef) (t : Thread) : (s.setThread r t).mem = s.mem := rfl
@[simp] theorem State.setThread_poison (r : TRef) (t : Thread) : (s.setThread r t).poison = s.poison := rfl
@[simp] theorem State.setThread_hist (r : TRef) (t : Thread) : (s.setThread r t).hist = s.hist := rfl
@[simp] theorem State.setThread_invs (r : TRef) (t : Thread) : (s.setThread r t).invs = s.invs := rfl
@[simp] theorem State.setThread_rws (r : TRef) (t : Thread) : (s.setThread r t).rws = s.rws := rfl
@[simp] theorem State.setThread_agents (r : TRef) (t : Thread) : (s.setThread r t).agents = s.agents := rfl
@[simp] theorem State.setThread_veins (r : TRef) (t : Thread) : (s.setThread r t).veins = s.veins := rfl
@[simp] theorem State.setThread_regions (r : TRef) (t : Thread) : (s.setThread r t).regions = s.regions := rfl
@[simp] theorem State.setThread_phases (r : TRef) (t : Thread) : (s.setThread r t).phases = s.phases := rfl
@[simp] theorem State.setThread_tlb (r : TRef) (t : Thread) : (s.setThread r t).tlb = s.tlb := rfl
@[simp] theorem State.setThread_fab (r : TRef) (t : Thread) : (s.setThread r t).fab = s.fab := rfl
@[simp] theorem State.setThread_host (r : TRef) (t : Thread) : (s.setThread r t).host = s.host := rfl
@[simp] theorem State.setThread_harts (r : TRef) (t : Thread) : (s.setThread r t).harts = s.harts := rfl
@[simp] theorem State.setThread_plat (r : TRef) (t : Thread) : (s.setThread r t).plat = s.plat := rfl
@[simp] theorem State.setThread_dlog (r : TRef) (t : Thread) : (s.setThread r t).dlog = s.dlog := rfl
@[simp] theorem State.setThread_dseq (r : TRef) (t : Thread) : (s.setThread r t).dseq = s.dseq := rfl
@[simp] theorem State.setThread_trace (r : TRef) (t : Thread) : (s.setThread r t).trace = s.trace := rfl
@[simp] theorem State.setThread_agenda (r : TRef) (t : Thread) : (s.setThread r t).agenda = s.agenda := rfl
@[simp] theorem State.setThread_out (r : TRef) (t : Thread) : (s.setThread r t).out = s.out := rfl
@[simp] theorem State.setThread_nextId (r : TRef) (t : Thread) : (s.setThread r t).nextId = s.nextId := rfl
@[simp] theorem State.setThread_free (r : TRef) (t : Thread) : (s.setThread r t).free = s.free := rfl

/- ## setTask -/

@[simp] theorem State.setTask_chip (c n : Nat) (k : Task) : (s.setTask c n k).chip = s.chip := rfl
@[simp] theorem State.setTask_inc (c n : Nat) (k : Task) : (s.setTask c n k).inc = s.inc := rfl
@[simp] theorem State.setTask_clk (c n : Nat) (k : Task) : (s.setTask c n k).clk = s.clk := rfl
@[simp] theorem State.setTask_regs (c n : Nat) (k : Task) : (s.setTask c n k).regs = s.regs := rfl
@[simp] theorem State.setTask_cores (c n : Nat) (k : Task) : (s.setTask c n k).cores = s.cores := rfl
@[simp] theorem State.setTask_threads (c n : Nat) (k : Task) : (s.setTask c n k).threads = s.threads := rfl
@[simp] theorem State.setTask_runs (c n : Nat) (k : Task) : (s.setTask c n k).runs = s.runs := rfl
@[simp] theorem State.setTask_cur (c n : Nat) (k : Task) : (s.setTask c n k).cur = s.cur := rfl
@[simp] theorem State.setTask_lastCore (c n : Nat) (k : Task) : (s.setTask c n k).lastCore = s.lastCore := rfl
@[simp] theorem State.setTask_timersFirst (c n : Nat) (k : Task) : (s.setTask c n k).timersFirst = s.timersFirst := rfl
@[simp] theorem State.setTask_mem (c n : Nat) (k : Task) : (s.setTask c n k).mem = s.mem := rfl
@[simp] theorem State.setTask_poison (c n : Nat) (k : Task) : (s.setTask c n k).poison = s.poison := rfl
@[simp] theorem State.setTask_hist (c n : Nat) (k : Task) : (s.setTask c n k).hist = s.hist := rfl
@[simp] theorem State.setTask_invs (c n : Nat) (k : Task) : (s.setTask c n k).invs = s.invs := rfl
@[simp] theorem State.setTask_rws (c n : Nat) (k : Task) : (s.setTask c n k).rws = s.rws := rfl
@[simp] theorem State.setTask_agents (c n : Nat) (k : Task) : (s.setTask c n k).agents = s.agents := rfl
@[simp] theorem State.setTask_veins (c n : Nat) (k : Task) : (s.setTask c n k).veins = s.veins := rfl
@[simp] theorem State.setTask_regions (c n : Nat) (k : Task) : (s.setTask c n k).regions = s.regions := rfl
@[simp] theorem State.setTask_phases (c n : Nat) (k : Task) : (s.setTask c n k).phases = s.phases := rfl
@[simp] theorem State.setTask_tlb (c n : Nat) (k : Task) : (s.setTask c n k).tlb = s.tlb := rfl
@[simp] theorem State.setTask_fab (c n : Nat) (k : Task) : (s.setTask c n k).fab = s.fab := rfl
@[simp] theorem State.setTask_host (c n : Nat) (k : Task) : (s.setTask c n k).host = s.host := rfl
@[simp] theorem State.setTask_harts (c n : Nat) (k : Task) : (s.setTask c n k).harts = s.harts := rfl
@[simp] theorem State.setTask_plat (c n : Nat) (k : Task) : (s.setTask c n k).plat = s.plat := rfl
@[simp] theorem State.setTask_dlog (c n : Nat) (k : Task) : (s.setTask c n k).dlog = s.dlog := rfl
@[simp] theorem State.setTask_dseq (c n : Nat) (k : Task) : (s.setTask c n k).dseq = s.dseq := rfl
@[simp] theorem State.setTask_trace (c n : Nat) (k : Task) : (s.setTask c n k).trace = s.trace := rfl
@[simp] theorem State.setTask_agenda (c n : Nat) (k : Task) : (s.setTask c n k).agenda = s.agenda := rfl
@[simp] theorem State.setTask_out (c n : Nat) (k : Task) : (s.setTask c n k).out = s.out := rfl
@[simp] theorem State.setTask_nextId (c n : Nat) (k : Task) : (s.setTask c n k).nextId = s.nextId := rfl
@[simp] theorem State.setTask_free (c n : Nat) (k : Task) : (s.setTask c n k).free = s.free := rfl

/- ## setCore -/

@[simp] theorem State.setCore_chip (c : Nat) (x : Core) : (s.setCore c x).chip = s.chip := rfl
@[simp] theorem State.setCore_inc (c : Nat) (x : Core) : (s.setCore c x).inc = s.inc := rfl
@[simp] theorem State.setCore_clk (c : Nat) (x : Core) : (s.setCore c x).clk = s.clk := rfl
@[simp] theorem State.setCore_regs (c : Nat) (x : Core) : (s.setCore c x).regs = s.regs := rfl
@[simp] theorem State.setCore_tasks (c : Nat) (x : Core) : (s.setCore c x).tasks = s.tasks := rfl
@[simp] theorem State.setCore_threads (c : Nat) (x : Core) : (s.setCore c x).threads = s.threads := rfl
@[simp] theorem State.setCore_runs (c : Nat) (x : Core) : (s.setCore c x).runs = s.runs := rfl
@[simp] theorem State.setCore_cur (c : Nat) (x : Core) : (s.setCore c x).cur = s.cur := rfl
@[simp] theorem State.setCore_lastCore (c : Nat) (x : Core) : (s.setCore c x).lastCore = s.lastCore := rfl
@[simp] theorem State.setCore_timersFirst (c : Nat) (x : Core) : (s.setCore c x).timersFirst = s.timersFirst := rfl
@[simp] theorem State.setCore_mem (c : Nat) (x : Core) : (s.setCore c x).mem = s.mem := rfl
@[simp] theorem State.setCore_poison (c : Nat) (x : Core) : (s.setCore c x).poison = s.poison := rfl
@[simp] theorem State.setCore_hist (c : Nat) (x : Core) : (s.setCore c x).hist = s.hist := rfl
@[simp] theorem State.setCore_invs (c : Nat) (x : Core) : (s.setCore c x).invs = s.invs := rfl
@[simp] theorem State.setCore_rws (c : Nat) (x : Core) : (s.setCore c x).rws = s.rws := rfl
@[simp] theorem State.setCore_agents (c : Nat) (x : Core) : (s.setCore c x).agents = s.agents := rfl
@[simp] theorem State.setCore_veins (c : Nat) (x : Core) : (s.setCore c x).veins = s.veins := rfl
@[simp] theorem State.setCore_regions (c : Nat) (x : Core) : (s.setCore c x).regions = s.regions := rfl
@[simp] theorem State.setCore_phases (c : Nat) (x : Core) : (s.setCore c x).phases = s.phases := rfl
@[simp] theorem State.setCore_tlb (c : Nat) (x : Core) : (s.setCore c x).tlb = s.tlb := rfl
@[simp] theorem State.setCore_fab (c : Nat) (x : Core) : (s.setCore c x).fab = s.fab := rfl
@[simp] theorem State.setCore_host (c : Nat) (x : Core) : (s.setCore c x).host = s.host := rfl
@[simp] theorem State.setCore_harts (c : Nat) (x : Core) : (s.setCore c x).harts = s.harts := rfl
@[simp] theorem State.setCore_plat (c : Nat) (x : Core) : (s.setCore c x).plat = s.plat := rfl
@[simp] theorem State.setCore_dlog (c : Nat) (x : Core) : (s.setCore c x).dlog = s.dlog := rfl
@[simp] theorem State.setCore_dseq (c : Nat) (x : Core) : (s.setCore c x).dseq = s.dseq := rfl
@[simp] theorem State.setCore_trace (c : Nat) (x : Core) : (s.setCore c x).trace = s.trace := rfl
@[simp] theorem State.setCore_agenda (c : Nat) (x : Core) : (s.setCore c x).agenda = s.agenda := rfl
@[simp] theorem State.setCore_out (c : Nat) (x : Core) : (s.setCore c x).out = s.out := rfl
@[simp] theorem State.setCore_nextId (c : Nat) (x : Core) : (s.setCore c x).nextId = s.nextId := rfl
@[simp] theorem State.setCore_free (c : Nat) (x : Core) : (s.setCore c x).free = s.free := rfl

/- ## setHart -/

@[simp] theorem State.setHart_chip (n : Nat) (x : Hart) : (s.setHart n x).chip = s.chip := rfl
@[simp] theorem State.setHart_inc (n : Nat) (x : Hart) : (s.setHart n x).inc = s.inc := rfl
@[simp] theorem State.setHart_clk (n : Nat) (x : Hart) : (s.setHart n x).clk = s.clk := rfl
@[simp] theorem State.setHart_regs (n : Nat) (x : Hart) : (s.setHart n x).regs = s.regs := rfl
@[simp] theorem State.setHart_cores (n : Nat) (x : Hart) : (s.setHart n x).cores = s.cores := rfl
@[simp] theorem State.setHart_tasks (n : Nat) (x : Hart) : (s.setHart n x).tasks = s.tasks := rfl
@[simp] theorem State.setHart_threads (n : Nat) (x : Hart) : (s.setHart n x).threads = s.threads := rfl
@[simp] theorem State.setHart_runs (n : Nat) (x : Hart) : (s.setHart n x).runs = s.runs := rfl
@[simp] theorem State.setHart_cur (n : Nat) (x : Hart) : (s.setHart n x).cur = s.cur := rfl
@[simp] theorem State.setHart_lastCore (n : Nat) (x : Hart) : (s.setHart n x).lastCore = s.lastCore := rfl
@[simp] theorem State.setHart_timersFirst (n : Nat) (x : Hart) : (s.setHart n x).timersFirst = s.timersFirst := rfl
@[simp] theorem State.setHart_mem (n : Nat) (x : Hart) : (s.setHart n x).mem = s.mem := rfl
@[simp] theorem State.setHart_poison (n : Nat) (x : Hart) : (s.setHart n x).poison = s.poison := rfl
@[simp] theorem State.setHart_hist (n : Nat) (x : Hart) : (s.setHart n x).hist = s.hist := rfl
@[simp] theorem State.setHart_invs (n : Nat) (x : Hart) : (s.setHart n x).invs = s.invs := rfl
@[simp] theorem State.setHart_rws (n : Nat) (x : Hart) : (s.setHart n x).rws = s.rws := rfl
@[simp] theorem State.setHart_agents (n : Nat) (x : Hart) : (s.setHart n x).agents = s.agents := rfl
@[simp] theorem State.setHart_veins (n : Nat) (x : Hart) : (s.setHart n x).veins = s.veins := rfl
@[simp] theorem State.setHart_regions (n : Nat) (x : Hart) : (s.setHart n x).regions = s.regions := rfl
@[simp] theorem State.setHart_phases (n : Nat) (x : Hart) : (s.setHart n x).phases = s.phases := rfl
@[simp] theorem State.setHart_tlb (n : Nat) (x : Hart) : (s.setHart n x).tlb = s.tlb := rfl
@[simp] theorem State.setHart_fab (n : Nat) (x : Hart) : (s.setHart n x).fab = s.fab := rfl
@[simp] theorem State.setHart_host (n : Nat) (x : Hart) : (s.setHart n x).host = s.host := rfl
@[simp] theorem State.setHart_plat (n : Nat) (x : Hart) : (s.setHart n x).plat = s.plat := rfl
@[simp] theorem State.setHart_dlog (n : Nat) (x : Hart) : (s.setHart n x).dlog = s.dlog := rfl
@[simp] theorem State.setHart_dseq (n : Nat) (x : Hart) : (s.setHart n x).dseq = s.dseq := rfl
@[simp] theorem State.setHart_trace (n : Nat) (x : Hart) : (s.setHart n x).trace = s.trace := rfl
@[simp] theorem State.setHart_agenda (n : Nat) (x : Hart) : (s.setHart n x).agenda = s.agenda := rfl
@[simp] theorem State.setHart_out (n : Nat) (x : Hart) : (s.setHart n x).out = s.out := rfl
@[simp] theorem State.setHart_nextId (n : Nat) (x : Hart) : (s.setHart n x).nextId = s.nextId := rfl
@[simp] theorem State.setHart_free (n : Nat) (x : Hart) : (s.setHart n x).free = s.free := rfl

/- ## poke -/

@[simp] theorem State.poke_chip (a : Nat) (bs : List Byte) : (s.poke a bs).chip = s.chip := rfl
@[simp] theorem State.poke_inc (a : Nat) (bs : List Byte) : (s.poke a bs).inc = s.inc := rfl
@[simp] theorem State.poke_clk (a : Nat) (bs : List Byte) : (s.poke a bs).clk = s.clk := rfl
@[simp] theorem State.poke_regs (a : Nat) (bs : List Byte) : (s.poke a bs).regs = s.regs := rfl
@[simp] theorem State.poke_cores (a : Nat) (bs : List Byte) : (s.poke a bs).cores = s.cores := rfl
@[simp] theorem State.poke_tasks (a : Nat) (bs : List Byte) : (s.poke a bs).tasks = s.tasks := rfl
@[simp] theorem State.poke_threads (a : Nat) (bs : List Byte) : (s.poke a bs).threads = s.threads := rfl
@[simp] theorem State.poke_runs (a : Nat) (bs : List Byte) : (s.poke a bs).runs = s.runs := rfl
@[simp] theorem State.poke_cur (a : Nat) (bs : List Byte) : (s.poke a bs).cur = s.cur := rfl
@[simp] theorem State.poke_lastCore (a : Nat) (bs : List Byte) : (s.poke a bs).lastCore = s.lastCore := rfl
@[simp] theorem State.poke_timersFirst (a : Nat) (bs : List Byte) : (s.poke a bs).timersFirst = s.timersFirst := rfl
@[simp] theorem State.poke_invs (a : Nat) (bs : List Byte) : (s.poke a bs).invs = s.invs := rfl
@[simp] theorem State.poke_rws (a : Nat) (bs : List Byte) : (s.poke a bs).rws = s.rws := rfl
@[simp] theorem State.poke_agents (a : Nat) (bs : List Byte) : (s.poke a bs).agents = s.agents := rfl
@[simp] theorem State.poke_veins (a : Nat) (bs : List Byte) : (s.poke a bs).veins = s.veins := rfl
@[simp] theorem State.poke_regions (a : Nat) (bs : List Byte) : (s.poke a bs).regions = s.regions := rfl
@[simp] theorem State.poke_phases (a : Nat) (bs : List Byte) : (s.poke a bs).phases = s.phases := rfl
@[simp] theorem State.poke_tlb (a : Nat) (bs : List Byte) : (s.poke a bs).tlb = s.tlb := rfl
@[simp] theorem State.poke_fab (a : Nat) (bs : List Byte) : (s.poke a bs).fab = s.fab := rfl
@[simp] theorem State.poke_host (a : Nat) (bs : List Byte) : (s.poke a bs).host = s.host := rfl
@[simp] theorem State.poke_harts (a : Nat) (bs : List Byte) : (s.poke a bs).harts = s.harts := rfl
@[simp] theorem State.poke_plat (a : Nat) (bs : List Byte) : (s.poke a bs).plat = s.plat := rfl
@[simp] theorem State.poke_dlog (a : Nat) (bs : List Byte) : (s.poke a bs).dlog = s.dlog := rfl
@[simp] theorem State.poke_dseq (a : Nat) (bs : List Byte) : (s.poke a bs).dseq = s.dseq := rfl
@[simp] theorem State.poke_trace (a : Nat) (bs : List Byte) : (s.poke a bs).trace = s.trace := rfl
@[simp] theorem State.poke_agenda (a : Nat) (bs : List Byte) : (s.poke a bs).agenda = s.agenda := rfl
@[simp] theorem State.poke_out (a : Nat) (bs : List Byte) : (s.poke a bs).out = s.out := rfl
@[simp] theorem State.poke_free (a : Nat) (bs : List Byte) : (s.poke a bs).free = s.free := rfl

/- ## send -/

@[simp] theorem State.send_chip (m : OutMsg) : (s.send m).chip = s.chip := rfl
@[simp] theorem State.send_inc (m : OutMsg) : (s.send m).inc = s.inc := rfl
@[simp] theorem State.send_clk (m : OutMsg) : (s.send m).clk = s.clk := rfl
@[simp] theorem State.send_regs (m : OutMsg) : (s.send m).regs = s.regs := rfl
@[simp] theorem State.send_cores (m : OutMsg) : (s.send m).cores = s.cores := rfl
@[simp] theorem State.send_tasks (m : OutMsg) : (s.send m).tasks = s.tasks := rfl
@[simp] theorem State.send_threads (m : OutMsg) : (s.send m).threads = s.threads := rfl
@[simp] theorem State.send_runs (m : OutMsg) : (s.send m).runs = s.runs := rfl
@[simp] theorem State.send_cur (m : OutMsg) : (s.send m).cur = s.cur := rfl
@[simp] theorem State.send_lastCore (m : OutMsg) : (s.send m).lastCore = s.lastCore := rfl
@[simp] theorem State.send_timersFirst (m : OutMsg) : (s.send m).timersFirst = s.timersFirst := rfl
@[simp] theorem State.send_mem (m : OutMsg) : (s.send m).mem = s.mem := rfl
@[simp] theorem State.send_poison (m : OutMsg) : (s.send m).poison = s.poison := rfl
@[simp] theorem State.send_hist (m : OutMsg) : (s.send m).hist = s.hist := rfl
@[simp] theorem State.send_invs (m : OutMsg) : (s.send m).invs = s.invs := rfl
@[simp] theorem State.send_rws (m : OutMsg) : (s.send m).rws = s.rws := rfl
@[simp] theorem State.send_agents (m : OutMsg) : (s.send m).agents = s.agents := rfl
@[simp] theorem State.send_veins (m : OutMsg) : (s.send m).veins = s.veins := rfl
@[simp] theorem State.send_regions (m : OutMsg) : (s.send m).regions = s.regions := rfl
@[simp] theorem State.send_phases (m : OutMsg) : (s.send m).phases = s.phases := rfl
@[simp] theorem State.send_tlb (m : OutMsg) : (s.send m).tlb = s.tlb := rfl
@[simp] theorem State.send_host (m : OutMsg) : (s.send m).host = s.host := rfl
@[simp] theorem State.send_harts (m : OutMsg) : (s.send m).harts = s.harts := rfl
@[simp] theorem State.send_plat (m : OutMsg) : (s.send m).plat = s.plat := rfl
@[simp] theorem State.send_dlog (m : OutMsg) : (s.send m).dlog = s.dlog := rfl
@[simp] theorem State.send_dseq (m : OutMsg) : (s.send m).dseq = s.dseq := rfl
@[simp] theorem State.send_trace (m : OutMsg) : (s.send m).trace = s.trace := rfl
@[simp] theorem State.send_agenda (m : OutMsg) : (s.send m).agenda = s.agenda := rfl
@[simp] theorem State.send_nextId (m : OutMsg) : (s.send m).nextId = s.nextId := rfl
@[simp] theorem State.send_free (m : OutMsg) : (s.send m).free = s.free := rfl

/- ## deputy -/

@[simp] theorem State.deputy_chip (a b c d e : Nat) : (s.deputy a b c d e).chip = s.chip := rfl
@[simp] theorem State.deputy_inc (a b c d e : Nat) : (s.deputy a b c d e).inc = s.inc := rfl
@[simp] theorem State.deputy_clk (a b c d e : Nat) : (s.deputy a b c d e).clk = s.clk := rfl
@[simp] theorem State.deputy_regs (a b c d e : Nat) : (s.deputy a b c d e).regs = s.regs := rfl
@[simp] theorem State.deputy_cores (a b c d e : Nat) : (s.deputy a b c d e).cores = s.cores := rfl
@[simp] theorem State.deputy_tasks (a b c d e : Nat) : (s.deputy a b c d e).tasks = s.tasks := rfl
@[simp] theorem State.deputy_threads (a b c d e : Nat) : (s.deputy a b c d e).threads = s.threads := rfl
@[simp] theorem State.deputy_runs (a b c d e : Nat) : (s.deputy a b c d e).runs = s.runs := rfl
@[simp] theorem State.deputy_cur (a b c d e : Nat) : (s.deputy a b c d e).cur = s.cur := rfl
@[simp] theorem State.deputy_lastCore (a b c d e : Nat) : (s.deputy a b c d e).lastCore = s.lastCore := rfl
@[simp] theorem State.deputy_timersFirst (a b c d e : Nat) : (s.deputy a b c d e).timersFirst = s.timersFirst := rfl
@[simp] theorem State.deputy_mem (a b c d e : Nat) : (s.deputy a b c d e).mem = s.mem := rfl
@[simp] theorem State.deputy_poison (a b c d e : Nat) : (s.deputy a b c d e).poison = s.poison := rfl
@[simp] theorem State.deputy_hist (a b c d e : Nat) : (s.deputy a b c d e).hist = s.hist := rfl
@[simp] theorem State.deputy_invs (a b c d e : Nat) : (s.deputy a b c d e).invs = s.invs := rfl
@[simp] theorem State.deputy_rws (a b c d e : Nat) : (s.deputy a b c d e).rws = s.rws := rfl
@[simp] theorem State.deputy_agents (a b c d e : Nat) : (s.deputy a b c d e).agents = s.agents := rfl
@[simp] theorem State.deputy_veins (a b c d e : Nat) : (s.deputy a b c d e).veins = s.veins := rfl
@[simp] theorem State.deputy_regions (a b c d e : Nat) : (s.deputy a b c d e).regions = s.regions := rfl
@[simp] theorem State.deputy_phases (a b c d e : Nat) : (s.deputy a b c d e).phases = s.phases := rfl
@[simp] theorem State.deputy_tlb (a b c d e : Nat) : (s.deputy a b c d e).tlb = s.tlb := rfl
@[simp] theorem State.deputy_fab (a b c d e : Nat) : (s.deputy a b c d e).fab = s.fab := rfl
@[simp] theorem State.deputy_host (a b c d e : Nat) : (s.deputy a b c d e).host = s.host := rfl
@[simp] theorem State.deputy_harts (a b c d e : Nat) : (s.deputy a b c d e).harts = s.harts := rfl
@[simp] theorem State.deputy_plat (a b c d e : Nat) : (s.deputy a b c d e).plat = s.plat := rfl
@[simp] theorem State.deputy_trace (a b c d e : Nat) : (s.deputy a b c d e).trace = s.trace := rfl
@[simp] theorem State.deputy_agenda (a b c d e : Nat) : (s.deputy a b c d e).agenda = s.agenda := rfl
@[simp] theorem State.deputy_out (a b c d e : Nat) : (s.deputy a b c d e).out = s.out := rfl
@[simp] theorem State.deputy_nextId (a b c d e : Nat) : (s.deputy a b c d e).nextId = s.nextId := rfl
@[simp] theorem State.deputy_free (a b c d e : Nat) : (s.deputy a b c d e).free = s.free := rfl

/- ## updThread -/

@[simp] theorem State.updThread_chip (r : TRef) (f : Thread → Thread) : (s.updThread r f).chip = s.chip := by
  unfold State.updThread; split <;> rfl
@[simp] theorem State.updThread_inc (r : TRef) (f : Thread → Thread) : (s.updThread r f).inc = s.inc := by
  unfold State.updThread; split <;> rfl
@[simp] theorem State.updThread_clk (r : TRef) (f : Thread → Thread) : (s.updThread r f).clk = s.clk := by
  unfold State.updThread; split <;> rfl
@[simp] theorem State.updThread_regs (r : TRef) (f : Thread → Thread) : (s.updThread r f).regs = s.regs := by
  unfold State.updThread; split <;> rfl
@[simp] theorem State.updThread_cores (r : TRef) (f : Thread → Thread) : (s.updThread r f).cores = s.cores := by
  unfold State.updThread; split <;> rfl
@[simp] theorem State.updThread_tasks (r : TRef) (f : Thread → Thread) : (s.updThread r f).tasks = s.tasks := by
  unfold State.updThread; split <;> rfl
@[simp] theorem State.updThread_runs (r : TRef) (f : Thread → Thread) : (s.updThread r f).runs = s.runs := by
  unfold State.updThread; split <;> rfl
@[simp] theorem State.updThread_cur (r : TRef) (f : Thread → Thread) : (s.updThread r f).cur = s.cur := by
  unfold State.updThread; split <;> rfl
@[simp] theorem State.updThread_lastCore (r : TRef) (f : Thread → Thread) : (s.updThread r f).lastCore = s.lastCore := by
  unfold State.updThread; split <;> rfl
@[simp] theorem State.updThread_timersFirst (r : TRef) (f : Thread → Thread) : (s.updThread r f).timersFirst = s.timersFirst := by
  unfold State.updThread; split <;> rfl
@[simp] theorem State.updThread_mem (r : TRef) (f : Thread → Thread) : (s.updThread r f).mem = s.mem := by
  unfold State.updThread; split <;> rfl
@[simp] theorem State.updThread_poison (r : TRef) (f : Thread → Thread) : (s.updThread r f).poison = s.poison := by
  unfold State.updThread; split <;> rfl
@[simp] theorem State.updThread_hist (r : TRef) (f : Thread → Thread) : (s.updThread r f).hist = s.hist := by
  unfold State.updThread; split <;> rfl
@[simp] theorem State.updThread_invs (r : TRef) (f : Thread → Thread) : (s.updThread r f).invs = s.invs := by
  unfold State.updThread; split <;> rfl
@[simp] theorem State.updThread_rws (r : TRef) (f : Thread → Thread) : (s.updThread r f).rws = s.rws := by
  unfold State.updThread; split <;> rfl
@[simp] theorem State.updThread_agents (r : TRef) (f : Thread → Thread) : (s.updThread r f).agents = s.agents := by
  unfold State.updThread; split <;> rfl
@[simp] theorem State.updThread_veins (r : TRef) (f : Thread → Thread) : (s.updThread r f).veins = s.veins := by
  unfold State.updThread; split <;> rfl
@[simp] theorem State.updThread_regions (r : TRef) (f : Thread → Thread) : (s.updThread r f).regions = s.regions := by
  unfold State.updThread; split <;> rfl
@[simp] theorem State.updThread_phases (r : TRef) (f : Thread → Thread) : (s.updThread r f).phases = s.phases := by
  unfold State.updThread; split <;> rfl
@[simp] theorem State.updThread_tlb (r : TRef) (f : Thread → Thread) : (s.updThread r f).tlb = s.tlb := by
  unfold State.updThread; split <;> rfl
@[simp] theorem State.updThread_fab (r : TRef) (f : Thread → Thread) : (s.updThread r f).fab = s.fab := by
  unfold State.updThread; split <;> rfl
@[simp] theorem State.updThread_host (r : TRef) (f : Thread → Thread) : (s.updThread r f).host = s.host := by
  unfold State.updThread; split <;> rfl
@[simp] theorem State.updThread_harts (r : TRef) (f : Thread → Thread) : (s.updThread r f).harts = s.harts := by
  unfold State.updThread; split <;> rfl
@[simp] theorem State.updThread_plat (r : TRef) (f : Thread → Thread) : (s.updThread r f).plat = s.plat := by
  unfold State.updThread; split <;> rfl
@[simp] theorem State.updThread_dlog (r : TRef) (f : Thread → Thread) : (s.updThread r f).dlog = s.dlog := by
  unfold State.updThread; split <;> rfl
@[simp] theorem State.updThread_dseq (r : TRef) (f : Thread → Thread) : (s.updThread r f).dseq = s.dseq := by
  unfold State.updThread; split <;> rfl
@[simp] theorem State.updThread_trace (r : TRef) (f : Thread → Thread) : (s.updThread r f).trace = s.trace := by
  unfold State.updThread; split <;> rfl
@[simp] theorem State.updThread_agenda (r : TRef) (f : Thread → Thread) : (s.updThread r f).agenda = s.agenda := by
  unfold State.updThread; split <;> rfl
@[simp] theorem State.updThread_out (r : TRef) (f : Thread → Thread) : (s.updThread r f).out = s.out := by
  unfold State.updThread; split <;> rfl
@[simp] theorem State.updThread_nextId (r : TRef) (f : Thread → Thread) : (s.updThread r f).nextId = s.nextId := by
  unfold State.updThread; split <;> rfl
@[simp] theorem State.updThread_free (r : TRef) (f : Thread → Thread) : (s.updThread r f).free = s.free := by
  unfold State.updThread; split <;> rfl

/- ## updTask -/

@[simp] theorem State.updTask_chip (c n : Nat) (f : Task → Task) : (s.updTask c n f).chip = s.chip := by
  unfold State.updTask; split <;> rfl
@[simp] theorem State.updTask_inc (c n : Nat) (f : Task → Task) : (s.updTask c n f).inc = s.inc := by
  unfold State.updTask; split <;> rfl
@[simp] theorem State.updTask_clk (c n : Nat) (f : Task → Task) : (s.updTask c n f).clk = s.clk := by
  unfold State.updTask; split <;> rfl
@[simp] theorem State.updTask_regs (c n : Nat) (f : Task → Task) : (s.updTask c n f).regs = s.regs := by
  unfold State.updTask; split <;> rfl
@[simp] theorem State.updTask_cores (c n : Nat) (f : Task → Task) : (s.updTask c n f).cores = s.cores := by
  unfold State.updTask; split <;> rfl
@[simp] theorem State.updTask_threads (c n : Nat) (f : Task → Task) : (s.updTask c n f).threads = s.threads := by
  unfold State.updTask; split <;> rfl
@[simp] theorem State.updTask_runs (c n : Nat) (f : Task → Task) : (s.updTask c n f).runs = s.runs := by
  unfold State.updTask; split <;> rfl
@[simp] theorem State.updTask_cur (c n : Nat) (f : Task → Task) : (s.updTask c n f).cur = s.cur := by
  unfold State.updTask; split <;> rfl
@[simp] theorem State.updTask_lastCore (c n : Nat) (f : Task → Task) : (s.updTask c n f).lastCore = s.lastCore := by
  unfold State.updTask; split <;> rfl
@[simp] theorem State.updTask_timersFirst (c n : Nat) (f : Task → Task) : (s.updTask c n f).timersFirst = s.timersFirst := by
  unfold State.updTask; split <;> rfl
@[simp] theorem State.updTask_mem (c n : Nat) (f : Task → Task) : (s.updTask c n f).mem = s.mem := by
  unfold State.updTask; split <;> rfl
@[simp] theorem State.updTask_poison (c n : Nat) (f : Task → Task) : (s.updTask c n f).poison = s.poison := by
  unfold State.updTask; split <;> rfl
@[simp] theorem State.updTask_hist (c n : Nat) (f : Task → Task) : (s.updTask c n f).hist = s.hist := by
  unfold State.updTask; split <;> rfl
@[simp] theorem State.updTask_invs (c n : Nat) (f : Task → Task) : (s.updTask c n f).invs = s.invs := by
  unfold State.updTask; split <;> rfl
@[simp] theorem State.updTask_rws (c n : Nat) (f : Task → Task) : (s.updTask c n f).rws = s.rws := by
  unfold State.updTask; split <;> rfl
@[simp] theorem State.updTask_agents (c n : Nat) (f : Task → Task) : (s.updTask c n f).agents = s.agents := by
  unfold State.updTask; split <;> rfl
@[simp] theorem State.updTask_veins (c n : Nat) (f : Task → Task) : (s.updTask c n f).veins = s.veins := by
  unfold State.updTask; split <;> rfl
@[simp] theorem State.updTask_regions (c n : Nat) (f : Task → Task) : (s.updTask c n f).regions = s.regions := by
  unfold State.updTask; split <;> rfl
@[simp] theorem State.updTask_phases (c n : Nat) (f : Task → Task) : (s.updTask c n f).phases = s.phases := by
  unfold State.updTask; split <;> rfl
@[simp] theorem State.updTask_tlb (c n : Nat) (f : Task → Task) : (s.updTask c n f).tlb = s.tlb := by
  unfold State.updTask; split <;> rfl
@[simp] theorem State.updTask_fab (c n : Nat) (f : Task → Task) : (s.updTask c n f).fab = s.fab := by
  unfold State.updTask; split <;> rfl
@[simp] theorem State.updTask_host (c n : Nat) (f : Task → Task) : (s.updTask c n f).host = s.host := by
  unfold State.updTask; split <;> rfl
@[simp] theorem State.updTask_harts (c n : Nat) (f : Task → Task) : (s.updTask c n f).harts = s.harts := by
  unfold State.updTask; split <;> rfl
@[simp] theorem State.updTask_plat (c n : Nat) (f : Task → Task) : (s.updTask c n f).plat = s.plat := by
  unfold State.updTask; split <;> rfl
@[simp] theorem State.updTask_dlog (c n : Nat) (f : Task → Task) : (s.updTask c n f).dlog = s.dlog := by
  unfold State.updTask; split <;> rfl
@[simp] theorem State.updTask_dseq (c n : Nat) (f : Task → Task) : (s.updTask c n f).dseq = s.dseq := by
  unfold State.updTask; split <;> rfl
@[simp] theorem State.updTask_trace (c n : Nat) (f : Task → Task) : (s.updTask c n f).trace = s.trace := by
  unfold State.updTask; split <;> rfl
@[simp] theorem State.updTask_agenda (c n : Nat) (f : Task → Task) : (s.updTask c n f).agenda = s.agenda := by
  unfold State.updTask; split <;> rfl
@[simp] theorem State.updTask_out (c n : Nat) (f : Task → Task) : (s.updTask c n f).out = s.out := by
  unfold State.updTask; split <;> rfl
@[simp] theorem State.updTask_nextId (c n : Nat) (f : Task → Task) : (s.updTask c n f).nextId = s.nextId := by
  unfold State.updTask; split <;> rfl
@[simp] theorem State.updTask_free (c n : Nat) (f : Task → Task) : (s.updTask c n f).free = s.free := by
  unfold State.updTask; split <;> rfl

/- ## updCore -/

@[simp] theorem State.updCore_chip (c : Nat) (f : Core → Core) : (s.updCore c f).chip = s.chip := rfl
@[simp] theorem State.updCore_inc (c : Nat) (f : Core → Core) : (s.updCore c f).inc = s.inc := rfl
@[simp] theorem State.updCore_clk (c : Nat) (f : Core → Core) : (s.updCore c f).clk = s.clk := rfl
@[simp] theorem State.updCore_regs (c : Nat) (f : Core → Core) : (s.updCore c f).regs = s.regs := rfl
@[simp] theorem State.updCore_tasks (c : Nat) (f : Core → Core) : (s.updCore c f).tasks = s.tasks := rfl
@[simp] theorem State.updCore_threads (c : Nat) (f : Core → Core) : (s.updCore c f).threads = s.threads := rfl
@[simp] theorem State.updCore_runs (c : Nat) (f : Core → Core) : (s.updCore c f).runs = s.runs := rfl
@[simp] theorem State.updCore_cur (c : Nat) (f : Core → Core) : (s.updCore c f).cur = s.cur := rfl
@[simp] theorem State.updCore_lastCore (c : Nat) (f : Core → Core) : (s.updCore c f).lastCore = s.lastCore := rfl
@[simp] theorem State.updCore_timersFirst (c : Nat) (f : Core → Core) : (s.updCore c f).timersFirst = s.timersFirst := rfl
@[simp] theorem State.updCore_mem (c : Nat) (f : Core → Core) : (s.updCore c f).mem = s.mem := rfl
@[simp] theorem State.updCore_poison (c : Nat) (f : Core → Core) : (s.updCore c f).poison = s.poison := rfl
@[simp] theorem State.updCore_hist (c : Nat) (f : Core → Core) : (s.updCore c f).hist = s.hist := rfl
@[simp] theorem State.updCore_invs (c : Nat) (f : Core → Core) : (s.updCore c f).invs = s.invs := rfl
@[simp] theorem State.updCore_rws (c : Nat) (f : Core → Core) : (s.updCore c f).rws = s.rws := rfl
@[simp] theorem State.updCore_agents (c : Nat) (f : Core → Core) : (s.updCore c f).agents = s.agents := rfl
@[simp] theorem State.updCore_veins (c : Nat) (f : Core → Core) : (s.updCore c f).veins = s.veins := rfl
@[simp] theorem State.updCore_regions (c : Nat) (f : Core → Core) : (s.updCore c f).regions = s.regions := rfl
@[simp] theorem State.updCore_phases (c : Nat) (f : Core → Core) : (s.updCore c f).phases = s.phases := rfl
@[simp] theorem State.updCore_tlb (c : Nat) (f : Core → Core) : (s.updCore c f).tlb = s.tlb := rfl
@[simp] theorem State.updCore_fab (c : Nat) (f : Core → Core) : (s.updCore c f).fab = s.fab := rfl
@[simp] theorem State.updCore_host (c : Nat) (f : Core → Core) : (s.updCore c f).host = s.host := rfl
@[simp] theorem State.updCore_harts (c : Nat) (f : Core → Core) : (s.updCore c f).harts = s.harts := rfl
@[simp] theorem State.updCore_plat (c : Nat) (f : Core → Core) : (s.updCore c f).plat = s.plat := rfl
@[simp] theorem State.updCore_dlog (c : Nat) (f : Core → Core) : (s.updCore c f).dlog = s.dlog := rfl
@[simp] theorem State.updCore_dseq (c : Nat) (f : Core → Core) : (s.updCore c f).dseq = s.dseq := rfl
@[simp] theorem State.updCore_trace (c : Nat) (f : Core → Core) : (s.updCore c f).trace = s.trace := rfl
@[simp] theorem State.updCore_agenda (c : Nat) (f : Core → Core) : (s.updCore c f).agenda = s.agenda := rfl
@[simp] theorem State.updCore_out (c : Nat) (f : Core → Core) : (s.updCore c f).out = s.out := rfl
@[simp] theorem State.updCore_nextId (c : Nat) (f : Core → Core) : (s.updCore c f).nextId = s.nextId := rfl
@[simp] theorem State.updCore_free (c : Nat) (f : Core → Core) : (s.updCore c f).free = s.free := rfl

/- ## updLaunch -/

@[simp] theorem State.updLaunch_chip (n : Nat) (f : Launch → Launch) : (s.updLaunch n f).chip = s.chip := rfl
@[simp] theorem State.updLaunch_inc (n : Nat) (f : Launch → Launch) : (s.updLaunch n f).inc = s.inc := rfl
@[simp] theorem State.updLaunch_clk (n : Nat) (f : Launch → Launch) : (s.updLaunch n f).clk = s.clk := rfl
@[simp] theorem State.updLaunch_regs (n : Nat) (f : Launch → Launch) : (s.updLaunch n f).regs = s.regs := rfl
@[simp] theorem State.updLaunch_cores (n : Nat) (f : Launch → Launch) : (s.updLaunch n f).cores = s.cores := rfl
@[simp] theorem State.updLaunch_tasks (n : Nat) (f : Launch → Launch) : (s.updLaunch n f).tasks = s.tasks := rfl
@[simp] theorem State.updLaunch_threads (n : Nat) (f : Launch → Launch) : (s.updLaunch n f).threads = s.threads := rfl
@[simp] theorem State.updLaunch_runs (n : Nat) (f : Launch → Launch) : (s.updLaunch n f).runs = s.runs := rfl
@[simp] theorem State.updLaunch_cur (n : Nat) (f : Launch → Launch) : (s.updLaunch n f).cur = s.cur := rfl
@[simp] theorem State.updLaunch_lastCore (n : Nat) (f : Launch → Launch) : (s.updLaunch n f).lastCore = s.lastCore := rfl
@[simp] theorem State.updLaunch_timersFirst (n : Nat) (f : Launch → Launch) : (s.updLaunch n f).timersFirst = s.timersFirst := rfl
@[simp] theorem State.updLaunch_mem (n : Nat) (f : Launch → Launch) : (s.updLaunch n f).mem = s.mem := rfl
@[simp] theorem State.updLaunch_poison (n : Nat) (f : Launch → Launch) : (s.updLaunch n f).poison = s.poison := rfl
@[simp] theorem State.updLaunch_hist (n : Nat) (f : Launch → Launch) : (s.updLaunch n f).hist = s.hist := rfl
@[simp] theorem State.updLaunch_invs (n : Nat) (f : Launch → Launch) : (s.updLaunch n f).invs = s.invs := rfl
@[simp] theorem State.updLaunch_rws (n : Nat) (f : Launch → Launch) : (s.updLaunch n f).rws = s.rws := rfl
@[simp] theorem State.updLaunch_veins (n : Nat) (f : Launch → Launch) : (s.updLaunch n f).veins = s.veins := rfl
@[simp] theorem State.updLaunch_regions (n : Nat) (f : Launch → Launch) : (s.updLaunch n f).regions = s.regions := rfl
@[simp] theorem State.updLaunch_phases (n : Nat) (f : Launch → Launch) : (s.updLaunch n f).phases = s.phases := rfl
@[simp] theorem State.updLaunch_tlb (n : Nat) (f : Launch → Launch) : (s.updLaunch n f).tlb = s.tlb := rfl
@[simp] theorem State.updLaunch_fab (n : Nat) (f : Launch → Launch) : (s.updLaunch n f).fab = s.fab := rfl
@[simp] theorem State.updLaunch_host (n : Nat) (f : Launch → Launch) : (s.updLaunch n f).host = s.host := rfl
@[simp] theorem State.updLaunch_harts (n : Nat) (f : Launch → Launch) : (s.updLaunch n f).harts = s.harts := rfl
@[simp] theorem State.updLaunch_plat (n : Nat) (f : Launch → Launch) : (s.updLaunch n f).plat = s.plat := rfl
@[simp] theorem State.updLaunch_dlog (n : Nat) (f : Launch → Launch) : (s.updLaunch n f).dlog = s.dlog := rfl
@[simp] theorem State.updLaunch_dseq (n : Nat) (f : Launch → Launch) : (s.updLaunch n f).dseq = s.dseq := rfl
@[simp] theorem State.updLaunch_trace (n : Nat) (f : Launch → Launch) : (s.updLaunch n f).trace = s.trace := rfl
@[simp] theorem State.updLaunch_agenda (n : Nat) (f : Launch → Launch) : (s.updLaunch n f).agenda = s.agenda := rfl
@[simp] theorem State.updLaunch_out (n : Nat) (f : Launch → Launch) : (s.updLaunch n f).out = s.out := rfl
@[simp] theorem State.updLaunch_nextId (n : Nat) (f : Launch → Launch) : (s.updLaunch n f).nextId = s.nextId := rfl
@[simp] theorem State.updLaunch_free (n : Nat) (f : Launch → Launch) : (s.updLaunch n f).free = s.free := rfl

/- ## markDirty -/

@[simp] theorem State.markDirty_chip (c n : Nat) (bs : List Nat) : (s.markDirty c n bs).chip = s.chip := State.updTask_chip s c n _
@[simp] theorem State.markDirty_inc (c n : Nat) (bs : List Nat) : (s.markDirty c n bs).inc = s.inc := State.updTask_inc s c n _
@[simp] theorem State.markDirty_clk (c n : Nat) (bs : List Nat) : (s.markDirty c n bs).clk = s.clk := State.updTask_clk s c n _
@[simp] theorem State.markDirty_regs (c n : Nat) (bs : List Nat) : (s.markDirty c n bs).regs = s.regs := State.updTask_regs s c n _
@[simp] theorem State.markDirty_cores (c n : Nat) (bs : List Nat) : (s.markDirty c n bs).cores = s.cores := State.updTask_cores s c n _
@[simp] theorem State.markDirty_threads (c n : Nat) (bs : List Nat) : (s.markDirty c n bs).threads = s.threads := State.updTask_threads s c n _
@[simp] theorem State.markDirty_runs (c n : Nat) (bs : List Nat) : (s.markDirty c n bs).runs = s.runs := State.updTask_runs s c n _
@[simp] theorem State.markDirty_cur (c n : Nat) (bs : List Nat) : (s.markDirty c n bs).cur = s.cur := State.updTask_cur s c n _
@[simp] theorem State.markDirty_lastCore (c n : Nat) (bs : List Nat) : (s.markDirty c n bs).lastCore = s.lastCore := State.updTask_lastCore s c n _
@[simp] theorem State.markDirty_timersFirst (c n : Nat) (bs : List Nat) : (s.markDirty c n bs).timersFirst = s.timersFirst := State.updTask_timersFirst s c n _
@[simp] theorem State.markDirty_mem (c n : Nat) (bs : List Nat) : (s.markDirty c n bs).mem = s.mem := State.updTask_mem s c n _
@[simp] theorem State.markDirty_poison (c n : Nat) (bs : List Nat) : (s.markDirty c n bs).poison = s.poison := State.updTask_poison s c n _
@[simp] theorem State.markDirty_hist (c n : Nat) (bs : List Nat) : (s.markDirty c n bs).hist = s.hist := State.updTask_hist s c n _
@[simp] theorem State.markDirty_invs (c n : Nat) (bs : List Nat) : (s.markDirty c n bs).invs = s.invs := State.updTask_invs s c n _
@[simp] theorem State.markDirty_rws (c n : Nat) (bs : List Nat) : (s.markDirty c n bs).rws = s.rws := State.updTask_rws s c n _
@[simp] theorem State.markDirty_agents (c n : Nat) (bs : List Nat) : (s.markDirty c n bs).agents = s.agents := State.updTask_agents s c n _
@[simp] theorem State.markDirty_veins (c n : Nat) (bs : List Nat) : (s.markDirty c n bs).veins = s.veins := State.updTask_veins s c n _
@[simp] theorem State.markDirty_regions (c n : Nat) (bs : List Nat) : (s.markDirty c n bs).regions = s.regions := State.updTask_regions s c n _
@[simp] theorem State.markDirty_phases (c n : Nat) (bs : List Nat) : (s.markDirty c n bs).phases = s.phases := State.updTask_phases s c n _
@[simp] theorem State.markDirty_tlb (c n : Nat) (bs : List Nat) : (s.markDirty c n bs).tlb = s.tlb := State.updTask_tlb s c n _
@[simp] theorem State.markDirty_fab (c n : Nat) (bs : List Nat) : (s.markDirty c n bs).fab = s.fab := State.updTask_fab s c n _
@[simp] theorem State.markDirty_host (c n : Nat) (bs : List Nat) : (s.markDirty c n bs).host = s.host := State.updTask_host s c n _
@[simp] theorem State.markDirty_harts (c n : Nat) (bs : List Nat) : (s.markDirty c n bs).harts = s.harts := State.updTask_harts s c n _
@[simp] theorem State.markDirty_plat (c n : Nat) (bs : List Nat) : (s.markDirty c n bs).plat = s.plat := State.updTask_plat s c n _
@[simp] theorem State.markDirty_dlog (c n : Nat) (bs : List Nat) : (s.markDirty c n bs).dlog = s.dlog := State.updTask_dlog s c n _
@[simp] theorem State.markDirty_dseq (c n : Nat) (bs : List Nat) : (s.markDirty c n bs).dseq = s.dseq := State.updTask_dseq s c n _
@[simp] theorem State.markDirty_trace (c n : Nat) (bs : List Nat) : (s.markDirty c n bs).trace = s.trace := State.updTask_trace s c n _
@[simp] theorem State.markDirty_agenda (c n : Nat) (bs : List Nat) : (s.markDirty c n bs).agenda = s.agenda := State.updTask_agenda s c n _
@[simp] theorem State.markDirty_out (c n : Nat) (bs : List Nat) : (s.markDirty c n bs).out = s.out := State.updTask_out s c n _
@[simp] theorem State.markDirty_nextId (c n : Nat) (bs : List Nat) : (s.markDirty c n bs).nextId = s.nextId := State.updTask_nextId s c n _
@[simp] theorem State.markDirty_free (c n : Nat) (bs : List Nat) : (s.markDirty c n bs).free = s.free := State.updTask_free s c n _

/- ## What was set reads back -/

theorem thrKey_inj {c n i j : Nat} (h : thrKey ⟨c, n, i⟩ = thrKey ⟨c, n, j⟩) : i = j := by
  unfold thrKey at h; simpa using h

@[simp] theorem State.thread?_setThread_same (r : TRef) (t : Thread) : (s.setThread r t).thread? r = some t := by
  simp [State.thread?, State.setThread]

@[simp] theorem State.thread?_setThread_ne (r r' : TRef) (t : Thread) (h : thrKey r' ≠ thrKey r) :
    (s.setThread r t).thread? r' = s.thread? r' := by
  simp [State.thread?, State.setThread, h]

@[simp] theorem State.task?_setTask_same (c n : Nat) (k : Task) : (s.setTask c n k).task? c n = some k := by
  simp [State.task?, State.setTask]

@[simp] theorem State.task?_setThread (r : TRef) (t : Thread) (c n : Nat) :
    (s.setThread r t).task? c n = s.task? c n := rfl

@[simp] theorem State.thread?_setTask (c n : Nat) (k : Task) (r : TRef) : (s.setTask c n k).thread? r = s.thread? r := rfl

@[simp] theorem State.core_setCore_same (c : Nat) (x : Core) : (s.setCore c x).core c = x := by
  simp [State.core, State.setCore]

@[simp] theorem State.core_setCore_ne (c d : Nat) (x : Core) (h : d ≠ c) : (s.setCore c x).core d = s.core d := by
  simp [State.core, State.setCore, h]

theorem State.thread?_updThread_same (r : TRef) (f : Thread → Thread) : (s.updThread r f).thread? r = (s.thread? r).map f := by
  unfold State.updThread; split <;> simp [*]

@[simp] theorem State.thread?_updThread_ne (r r' : TRef) (f : Thread → Thread) (h : thrKey r' ≠ thrKey r) :
    (s.updThread r f).thread? r' = s.thread? r' := by
  unfold State.updThread; split <;> simp [*]

theorem State.task?_updTask_same (c n : Nat) (f : Task → Task) : (s.updTask c n f).task? c n = (s.task? c n).map f := by
  unfold State.updTask; split <;> simp [*]

@[simp] theorem State.task?_updThread (r : TRef) (f : Thread → Thread) (c n : Nat) :
    (s.updThread r f).task? c n = s.task? c n := by
  unfold State.updThread; split <;> simp

@[simp] theorem State.thread?_updTask (c n : Nat) (f : Task → Task) (r : TRef) :
    (s.updTask c n f).thread? r = s.thread? r := by
  unfold State.updTask; split <;> simp

@[simp] theorem State.thread?_markDirty (c n : Nat) (bs : List Nat) (r : TRef) :
    (s.markDirty c n bs).thread? r = s.thread? r := State.thread?_updTask s c n _ r

/- ## Registers of a thread (R96) -/

variable (t : Thread)

theorem Thread.reg_put_same (n : Nat) (v : Word) (h : n < 1024) : (t.put n v).reg n = v := by
  simp [Thread.put, Thread.reg, h]

theorem Thread.reg_put_ne (n m : Nat) (v : Word) (h : m ≠ n) : (t.put n v).reg m = t.reg m := by
  unfold Thread.put Thread.reg
  split
  · simp [h]
  · split <;> rfl

@[simp] theorem Thread.pred_zero : t.pred 0 = true := rfl

@[simp] theorem Thread.put_p0 (v : Word) : t.put 1024 v = t := rfl

@[simp] theorem Thread.pc_put (n : Nat) (v : Word) : (t.put n v).pc = t.pc := by
  unfold Thread.put; split <;> [rfl; (split <;> rfl)]

@[simp] theorem Thread.trap_put (n : Nat) (v : Word) : (t.put n v).trap = t.trap := by
  unfold Thread.put; split <;> [rfl; (split <;> rfl)]

end Machine
end Sys2Proof
end

