-- ==== Sys2Proof/Laws/Group.lean ====
section
/-! SUPPORT. What a group of any size comes to when it issues a word that only writes registers: each step of the issue
touches one member's thread, so the members' own lemmas add up (R104, R119, R126). -/

namespace Sys2Proof
namespace Machine

/-- A change that touches one member's thread at most, and of the rest only what `SameAround` leaves open. -/
def OnlyAt (q : Run) (j : Nat) (s u : State) : Prop :=
  u.mem = s.mem ∧ u.poison = s.poison ∧ u.regs = s.regs ∧ u.cores = s.cores ∧ u.veins = s.veins ∧ u.regions = s.regions ∧
  u.harts = s.harts ∧ u.plat = s.plat ∧ u.clk = s.clk ∧
  (u.task? q.core q.slot).map (fun k => (k.scratch, k.tiles, k.version, k.ks, k.qs, k.allot)) =
    (s.task? q.core q.slot).map (fun k => (k.scratch, k.tiles, k.version, k.ks, k.qs, k.allot)) ∧
  ∀ r : TRef, thrKey r ≠ thrKey ⟨q.core, q.slot, j⟩ → u.thread? r = s.thread? r

theorem OnlyAt.refl (q : Run) (j : Nat) (s : State) : OnlyAt q j s s := by simp [OnlyAt]

theorem OnlyAt.trans {q : Run} {j : Nat} {a b c : State} (h : OnlyAt q j a b) (g : OnlyAt q j b c) : OnlyAt q j a c := by
  obtain ⟨h1, h2, h3, h4, h5, h6, h7, h8, h9, h10, h11⟩ := h
  obtain ⟨g1, g2, g3, g4, g5, g6, g7, g8, g9, g10, g11⟩ := g
  exact ⟨g1.trans h1, g2.trans h2, g3.trans h3, g4.trans h4, g5.trans h5, g6.trans h6, g7.trans h7, g8.trans h8,
    g9.trans h9, g10.trans h10, fun r hr => (g11 r hr).trans (h11 r hr)⟩

theorem SameAround.refl (q : Run) (s : State) : SameAround q s s := by simp [SameAround]

theorem SameAround.of_fresh (q : Run) (s : State) : SameAround q s s.fresh.2 :=
  ⟨rfl, rfl, rfl, rfl, rfl, rfl, rfl, rfl, rfl, rfl, fun _ _ => rfl⟩

theorem SameAround.trans {q : Run} {a b c : State} (h : SameAround q a b) (g : SameAround q b c) : SameAround q a c := by
  obtain ⟨h1, h2, h3, h4, h5, h6, h7, h8, h9, h10, h11⟩ := h
  obtain ⟨g1, g2, g3, g4, g5, g6, g7, g8, g9, g10, g11⟩ := g
  exact ⟨g1.trans h1, g2.trans h2, g3.trans h3, g4.trans h4, g5.trans h5, g6.trans h6, g7.trans h7, g8.trans h8,
    g9.trans h9, g10.trans h10, fun r hr => (g11 r hr).trans (h11 r hr)⟩

theorem OnlyAt.around {q : Run} {j : Nat} {a b : State} (h : OnlyAt q j a b) (hj : j ∈ q.members) : SameAround q a b := by
  obtain ⟨h1, h2, h3, h4, h5, h6, h7, h8, h9, h10, h11⟩ := h
  exact ⟨h1, h2, h3, h4, h5, h6, h7, h8, h9, h10, fun r hr => h11 r (hr j hj)⟩

theorem OnlyAt.setThread (q : Run) (j : Nat) (s : State) (t : Thread) : OnlyAt q j s (s.setThread ⟨q.core, q.slot, j⟩ t) :=
  ⟨rfl, rfl, rfl, rfl, rfl, rfl, rfl, rfl, rfl, rfl, fun r hr => State.thread?_setThread_ne s _ r t hr⟩

theorem OnlyAt.updThread (q : Run) (j : Nat) (s : State) (f : Thread → Thread) :
    OnlyAt q j s (s.updThread ⟨q.core, q.slot, j⟩ f) := by
  unfold State.updThread
  split
  · exact OnlyAt.setThread q j s _
  · exact OnlyAt.refl q j s

theorem OnlyAt.markDirty (q : Run) (j : Nat) (s : State) (bs : List Nat) : OnlyAt q j s (s.markDirty q.core q.slot bs) := by
  refine ⟨by simp, by simp, by simp, by simp, by simp, by simp, by simp, by simp, by simp, ?_, by simp⟩
  unfold State.markDirty
  rw [State.task?_updTask_same]
  cases s.task? q.core q.slot with
  | none => rfl
  | some k => simp only [Option.map_some, Task.markDirty]; split <;> rfl

theorem OnlyAt.openWin (q : Run) (j : Nat) (s : State) (i : Instr) : OnlyAt q j s (s.openWin ⟨q.core, q.slot, j⟩ i) := by
  unfold State.openWin
  split
  · split
    · exact OnlyAt.refl q j s
    · exact OnlyAt.updThread q j s _
  · exact OnlyAt.refl q j s

theorem State.openTicket_frame {s u : State} {r : TRef} {op : Nat} {copy : Option (Nat × Nat)} {uid asid va i : Nat} {pri : Bool}
    (h : s.openTicket r op copy uid asid va pri = some (i, u)) :
    u.mem = s.mem ∧ u.poison = s.poison ∧ u.regs = s.regs ∧ u.cores = s.cores ∧ u.veins = s.veins ∧ u.regions = s.regions ∧
      u.harts = s.harts ∧ u.plat = s.plat ∧ u.clk = s.clk ∧ u.tasks = s.tasks ∧ u.threads = s.threads := by
  unfold State.openTicket at h
  simp only at h
  generalize ((List.range 4096).find? _) = x at h
  cases x with
  | none => exact absurd h (by simp)
  | some i =>
    simp only [Option.some.injEq, Prod.mk.injEq] at h
    obtain ⟨-, rfl⟩ := h
    cases pri <;> simp

/-- Entering the header where a thread stands touches that thread, and of it neither file nor handler registers. -/
theorem State.enterAt_only (q : Run) (j : Nat) (s : State) (k : Task) (b : Bool) :
    OnlyAt q j s (s.enterAt ⟨q.core, q.slot, j⟩ k b) ∧
      ∀ t, s.thread? ⟨q.core, q.slot, j⟩ = some t →
        ∃ t', (s.enterAt ⟨q.core, q.slot, j⟩ k b).thread? ⟨q.core, q.slot, j⟩ = some t' ∧ SameFile t' t := by
  unfold State.enterAt
  cases ht : s.thread? ⟨q.core, q.slot, j⟩ with
  | none => exact ⟨OnlyAt.refl q j s, by simp⟩
  | some t =>
    simp only
    split
    · exact ⟨OnlyAt.setThread q j s _, by simp [SameFile, Thread.enter]⟩
    · refine ⟨OnlyAt.setThread q j s _, ?_⟩
      rintro _ ⟨⟩
      refine ⟨_, State.thread?_setThread_same s _ _, ?_⟩
      unfold Thread.raise
      split <;> simp [SameFile]
    · exact ⟨OnlyAt.setThread q j s _, by simp [SameFile, Thread.defer]⟩
    · exact ⟨OnlyAt.setThread q j s _, by simp [SameFile, Thread.defer]⟩
    · exact ⟨OnlyAt.refl q j s, fun _ h => by cases h; exact ⟨_, ht, by simp [SameFile]⟩⟩
    · split
      · exact ⟨OnlyAt.refl q j s, fun _ h => by cases h; exact ⟨_, ht, by simp [SameFile]⟩⟩
      · split
        · rename_i _ _ _ _ _ i s1 ho
          obtain ⟨h1, h2, h3, h4, h5, h6, h7, h8, h9, h10, h11⟩ := State.openTicket_frame ho
          refine ⟨⟨h1, h2, h3, h4, h5, h6, h7, h8, h9, ?_, ?_⟩, by simp [SameFile]⟩
          · simp [State.task?, h10]
          · intro r hr
            rw [State.thread?_setThread_ne _ _ _ _ hr, State.thread?, State.thread?, h11]
        · exact ⟨OnlyAt.refl q j s, fun _ h => by cases h; exact ⟨_, ht, by simp [SameFile]⟩⟩

theorem SameFile.refl (t : Thread) : SameFile t t := by simp [SameFile]

theorem SameFile.trans {a b c : Thread} (h : SameFile a b) (g : SameFile b c) : SameFile a c := by
  unfold SameFile at *; simp_all

/-- A thread that goes on past a word keeps its file. -/
theorem State.advance_only (q : Run) (j : Nat) (s : State) (k : Task) (n : Nat) :
    OnlyAt q j s (s.advance ⟨q.core, q.slot, j⟩ k n) ∧
      ∀ t, s.thread? ⟨q.core, q.slot, j⟩ = some t →
        ∃ t', (s.advance ⟨q.core, q.slot, j⟩ k n).thread? ⟨q.core, q.slot, j⟩ = some t' ∧ SameFile t' t := by
  unfold State.advance
  cases ht : s.thread? ⟨q.core, q.slot, j⟩ with
  | none => exact ⟨OnlyAt.refl q j s, by simp⟩
  | some t =>
    simp only
    split
    · obtain ⟨h1, h2⟩ := State.enterAt_only q j (s.setThread ⟨q.core, q.slot, j⟩ { t with pc := t.pc + BitVec.ofNat 64 n }) k true
      refine ⟨(OnlyAt.setThread q j s _).trans h1, ?_⟩
      rintro _ ⟨⟩
      obtain ⟨t', h3, h4⟩ := h2 _ (State.thread?_setThread_same s _ _)
      exact ⟨t', h3, h4.trans (by simp [SameFile])⟩
    · exact ⟨OnlyAt.setThread q j s _, by simp [SameFile]⟩

/-- Steps that each touch one thread, over a list of different threads: the whole touches only the list's, and each of
them as its own step does. -/
theorem foldl_only {q : Run} {f : State → Nat × Thread → State}
    (hf : ∀ s e, OnlyAt q e.1 s (f s e)) : ∀ (es : List (Nat × Thread)) (s : State), (es.map Prod.fst).Nodup →
      (∀ e ∈ es, e.1 ∈ q.members) →
      SameAround q s (es.foldl f s) ∧
      (∀ j, j ∉ es.map Prod.fst → (es.foldl f s).thread? ⟨q.core, q.slot, j⟩ = s.thread? ⟨q.core, q.slot, j⟩) ∧
      ∀ e ∈ es, ∃ s1, s1.thread? ⟨q.core, q.slot, e.1⟩ = s.thread? ⟨q.core, q.slot, e.1⟩ ∧
        (es.foldl f s).thread? ⟨q.core, q.slot, e.1⟩ = (f s1 e).thread? ⟨q.core, q.slot, e.1⟩
  | [], s, _, _ => ⟨SameAround.refl q s, by simp, by simp⟩
  | e :: es, s, hn, hm => by
    simp only [List.map_cons, List.nodup_cons] at hn
    obtain ⟨h1, h2, h3⟩ := foldl_only hf es (f s e) hn.2 fun x hx => hm x (List.mem_cons_of_mem _ hx)
    have he := hf s e
    have hne : ∀ j, j ≠ e.1 → (f s e).thread? ⟨q.core, q.slot, j⟩ = s.thread? ⟨q.core, q.slot, j⟩ := fun j hj =>
      he.2.2.2.2.2.2.2.2.2.2 _ fun h => hj (thrKey_inj h)
    refine ⟨(he.around (hm e (by simp))).trans h1, ?_, ?_⟩
    · intro j hj
      simp only [List.map_cons, List.mem_cons, not_or] at hj
      rw [List.foldl_cons, h2 j hj.2, hne j hj.1]
    · intro x hx
      rcases List.mem_cons.mp hx with rfl | hx
      · exact ⟨s, rfl, h2 _ hn.1⟩
      · obtain ⟨s1, h4, h5⟩ := h3 x hx
        refine ⟨s1, h4.trans (hne _ ?_), h5⟩
        rintro h
        exact hn.1 (h ▸ List.mem_map_of_mem hx)

theorem SameFile.puts {a b : Thread} (h : SameFile a b) : ∀ ws, SameFile (a.puts ws) (b.puts ws) := by
  intro ws
  induction ws generalizing a b with
  | nil => exact h
  | cons w ws ih =>
    refine ih ?_
    obtain ⟨n, v⟩ := w
    unfold SameFile at h ⊢
    unfold Thread.put
    split
    · simp_all
    · split <;> simp_all

/-- The members that still execute are members, each once. -/
theorem State.live_nodup {s : State} {q : Run} (h : q.members.Nodup) : ((s.live q).map Prod.fst).Nodup := by
  have : ∀ ms : List Nat, ms.Nodup → ((ms.filterMap fun i =>
      match s.thread? ⟨q.core, q.slot, i⟩ with
      | some t => if t.runs then some (i, t) else none
      | none => none).map Prod.fst).Nodup := by
    intro ms hms
    refine List.Nodup.sublist (l₂ := ms) ?_ hms
    clear hms
    induction ms with
    | nil => simp
    | cons i ms ih =>
      rw [List.filterMap_cons]
      split
      · exact ih.cons _
      · rename_i e he
        split at he
        · split at he
          · cases he; exact ih.cons_cons _
          · exact absurd he (by simp)
        · exact absurd he (by simp)
  exact this _ h

theorem State.live_mem {s : State} {q : Run} {e : Nat × Thread} (h : e ∈ s.live q) :
    e.1 ∈ q.members ∧ s.thread? ⟨q.core, q.slot, e.1⟩ = some e.2 ∧ e.2.runs = true := by
  obtain ⟨i, hi, h⟩ := List.mem_filterMap.mp h
  split at h
  · split at h
    · cases h; exact ⟨hi, ‹_›, ‹_›⟩
    · exact absurd h (by simp)
  · exact absurd h (by simp)

/-- A word whose own effect on a thread is to write registers does, issued by a group, what `GroupWrites` says. -/
theorem groupWrites_of {i : Instr} {f : Ctx → List (Nat × Word)}
    (he : ∀ s, exec i s = .next (issue i (shortWrites f) s)) : GroupWrites i f := by
  intro s id q k h hs
  obtain ⟨-, -, -, hn, -⟩ := State.issues?_some hs
  have hl := State.live_nodup (s := s) hn
  have hm : ∀ e ∈ s.live q, e.1 ∈ q.members := fun e he => (State.live_mem he).1
  have hact : ((s.acting q h).map Prod.fst).Nodup := hl.sublist (List.Sublist.map _ List.filter_sublist)
  have hina : (((s.live q).filter fun e => !e.2.active h).map Prod.fst).Nodup := hl.sublist (List.Sublist.map _ List.filter_sublist)
  -- the three rounds of the issue
  obtain ⟨a0, a2, a3⟩ := foldl_only (q := q) (f := fun st (e : Nat × Thread) =>
    st.setThread ⟨q.core, q.slot, e.1⟩ (e.2.issuedAt s.nextId))
    (fun s e => OnlyAt.setThread q e.1 s _) (s.live q) s.fresh.2 hl hm
  have a1 : SameAround q s (s.tickAll q) := SameAround.trans (SameAround.of_fresh q s) a0
  have hexec : ∀ st e, OnlyAt q e.1 st (State.execOne st s k q i (shortWrites f) e) := by
    intro st e
    unfold State.execOne
    simp only
    split
    · exact OnlyAt.updThread q e.1 st _
    · exact (OnlyAt.openWin q e.1 st i).trans ((OnlyAt.updThread q e.1 _ _).trans
        ((OnlyAt.markDirty q e.1 _ _).trans (State.advance_only q e.1 _ k _).1))
  obtain ⟨b1, b2, b3⟩ := foldl_only (q := q) hexec (s.acting q h) (s.tickAll q) hact
    fun e he => hm e (List.mem_filter.mp he).1
  obtain ⟨c1, c2, c3⟩ := foldl_only (q := q) (f := fun st e => st.advance ⟨q.core, q.slot, e.1⟩ k (wordBytes i))
    (fun st e => (State.advance_only q e.1 st k _).1) ((s.live q).filter fun e => !e.2.active h)
    ((s.acting q h).foldl (fun st e => st.execOne s k q i (shortWrites f) e) (s.tickAll q)) hina
    fun e he => hm e (List.mem_filter.mp he).1
  refine ⟨_, by rw [he, issue, issueWith_group hs rfl], (a1.trans b1).trans c1, ?_⟩
  intro j t hjt
  obtain ⟨-, ht, hr⟩ := State.live_mem hjt
  have huniq : ∀ t', (j, t') ∈ s.live q → t' = t := fun t' h' => by
    have := (State.live_mem h').2.1; rw [ht] at this; exact (Option.some.inj this).symm
  obtain ⟨s1, -, h2⟩ := a3 (j, t) hjt
  simp only [State.thread?_setThread_same] at h2
  cases hac : t.active h with
  | false =>
    have hj : j ∉ (s.acting q h).map Prod.fst := by
      intro hmem
      obtain ⟨⟨j', t'⟩, h5, rfl⟩ := List.mem_map.mp hmem
      have h6 := List.mem_filter.mp h5
      rw [huniq t' h6.1] at h6
      simp [hac] at h6
    obtain ⟨s3, h3, h4⟩ := c3 (j, t) (List.mem_filter.mpr ⟨hjt, by simp [hac]⟩)
    obtain ⟨t', h5, h6⟩ := (State.advance_only q j s3 k (wordBytes i)).2 _ (by rw [h3, b2 j hj]; exact h2)
    exact ⟨t', h4.trans h5, fun _ => h6.trans (by simp [SameFile, Thread.issuedAt]), by simp, by simp⟩
  | true =>
    have hj : j ∉ ((s.live q).filter fun e => !e.2.active h).map Prod.fst := by
      intro hmem
      obtain ⟨⟨j', t'⟩, h5, rfl⟩ := List.mem_map.mp hmem
      have h6 := List.mem_filter.mp h5
      rw [huniq t' h6.1] at h6
      simp [hac] at h6
    obtain ⟨s3, h3, h4⟩ := b3 (j, t) (List.mem_filter.mpr ⟨hjt, hac⟩)
    have h3' := h3.trans h2
    rw [c2 j hj, h4]
    unfold State.execOne
    simp only
    cases hp : precheck k q.slot j t i with
    | some cd =>
      obtain ⟨c, d⟩ := cd
      simp only
      rw [State.thread?_updThread_same, h3']
      refine ⟨_, rfl, by simp, by simp, ?_⟩
      rintro c' d' - ⟨⟩
      have htr : t.trap = none := by
        simp only [Thread.runs, Bool.and_eq_true, Option.isNone_iff_eq_none] at hr; exact hr.2
      simp [Thread.raise, Thread.issuedAt, htr, SameFile]
    | none =>
      simp only
      have hw : ∃ t1, (s3.openWin ⟨q.core, q.slot, j⟩ i).thread? ⟨q.core, q.slot, j⟩ = some t1 ∧ SameFile t1 t := by
        unfold State.openWin
        split
        · split
          · exact ⟨_, h3', by simp [SameFile, Thread.issuedAt]⟩
          · exact ⟨_, by rw [State.thread?_updThread_same, h3']; rfl, by simp [SameFile, Thread.issuedAt]⟩
        · exact ⟨_, h3', by simp [SameFile, Thread.issuedAt]⟩
      obtain ⟨t1, h5, h6⟩ := hw
      simp only [shortWrites]
      obtain ⟨t', h7, h8⟩ := (State.advance_only q j
        (State.noteWrites (State.updThread _ ⟨q.core, q.slot, j⟩ fun t1 => t1.puts (f (s.ctx k q j t))) ⟨q.core, q.slot, j⟩ i) k
        (wordBytes i)).2 _ (by rw [State.noteWrites, State.thread?_markDirty, State.thread?_updThread_same, h5]; rfl)
      exact ⟨t', h7, by simp, fun _ _ => h8.trans (h6.puts _), by simp⟩

end Machine
end Sys2Proof
end

