-- ==== Sys2Proof/Laws/PerInstr.lean ====
section
/-! SUPPORT. Per instruction: a term stands for a word exactly where the encoder gives it an opcode and a body (R103); an
event of the table has none. -/

namespace Sys2Proof
namespace Laws
namespace WordShape

/-- What holds of each constructor. -/
def Statement (i : Instr) : Prop := i.isWord = i.opBody.isSome

theorem nop (h : Hdr) : Statement (.nop h) := rfl
theorem bra (h : Hdr) (off : BitVec 32) : Statement (.bra h off) := rfl
theorem brx (h : Hdr) (a : Opnd) : Statement (.brx h a) := rfl
theorem brxRel (h : Hdr) (a : Opnd) : Statement (.brxRel h a) := rfl
theorem call (h : Hdr) (off : BitVec 32) : Statement (.call h off) := rfl
theorem callIndirect (h : Hdr) (a : Opnd) : Statement (.callIndirect h a) := rfl
theorem ret (h : Hdr) : Statement (.ret h) := rfl
theorem exitThreads (h : Hdr) : Statement (.exitThreads h) := rfl
theorem yieldCore (h : Hdr) : Statement (.yieldCore h) := rfl
theorem waittAbs (h : Hdr) (d a : Opnd) : Statement (.waittAbs h d a) := rfl
theorem waittRel (h : Hdr) (d a : Opnd) : Statement (.waittRel h d a) := rfl
theorem trap (h : Hdr) (a : Opnd) (code : Nat) : Statement (.trap h a code) := rfl
theorem bkpt (h : Hdr) (n : Nat) : Statement (.bkpt h n) := rfl
theorem kset (h : Hdr) (k : Nat) (c : KCount) : Statement (.kset h k c) := by cases c <;> rfl
theorem ksign (h : Hdr) (d : Opnd) (k : Nat) : Statement (.ksign h d k) := rfl
theorem phadv (h : Hdr) (d : Opnd) (slot : Nat) : Statement (.phadv h d slot) := rfl
theorem phwait (h : Hdr) (d a : Opnd) (slot nbr : Nat) : Statement (.phwait h d a slot nbr) := rfl
theorem bar (h : Hdr) (d : Opnd) (scope : Scope) (eng : Bool) : Statement (.bar h d scope eng) := rfl
theorem barNock (h : Hdr) (d : Opnd) (scope : Scope) (eng : Bool) : Statement (.barNock h d scope eng) := rfl
theorem commit (h : Hdr) (d : Opnd) (eng : Bool) : Statement (.commit h d eng) := rfl
theorem iadd (h : Hdr) (ty : Ty) (sat : Bool) (d a b : Opnd) : Statement (.iadd h ty sat d a b) := rfl
theorem isub (h : Hdr) (ty : Ty) (sat : Bool) (d a b : Opnd) : Statement (.isub h ty sat d a b) := rfl
theorem imul (h : Hdr) (ty : Ty) (sat : Bool) (d a b : Opnd) : Statement (.imul h ty sat d a b) := rfl
theorem imulh (h : Hdr) (ty : Ty) (d a b : Opnd) : Statement (.imulh h ty d a b) := rfl
theorem imad (h : Hdr) (ty : Ty) (sat : Bool) (d a b c : Opnd) : Statement (.imad h ty sat d a b c) := rfl
theorem idiv (h : Hdr) (ty : Ty) (sat : Bool) (d a b : Opnd) : Statement (.idiv h ty sat d a b) := rfl
theorem irem (h : Hdr) (ty : Ty) (d a b : Opnd) : Statement (.irem h ty d a b) := rfl
theorem imin (h : Hdr) (ty : Ty) (d a b : Opnd) : Statement (.imin h ty d a b) := rfl
theorem imax (h : Hdr) (ty : Ty) (d a b : Opnd) : Statement (.imax h ty d a b) := rfl
theorem iabs (h : Hdr) (ty : Ty) (sat : Bool) (d a : Opnd) : Statement (.iabs h ty sat d a) := rfl
theorem iset (h : Hdr) (cc : Cc) (ty : Ty) (p : Nat) (a b : Opnd) (q : Nat) : Statement (.iset h cc ty p a b q) := rfl
theorem iseti (h : Hdr) (cc : Cc) (ty : Ty) (p : Nat) (a : Opnd) (imm : BitVec 20) : Statement (.iseti h cc ty p a imm) := rfl
theorem sel (h : Hdr) (ty : Ty) (d a b : Opnd) (q : Nat) : Statement (.sel h ty d a b q) := rfl
theorem and (h : Hdr) (d a b : Opnd) : Statement (.and h d a b) := rfl
theorem or (h : Hdr) (d a b : Opnd) : Statement (.or h d a b) := rfl
theorem xor (h : Hdr) (d a b : Opnd) : Statement (.xor h d a b) := rfl
theorem logi (h : Hdr) (op : Lop) (hi : Bool) (d a : Opnd) (imm : BitVec 20) : Statement (.logi h op hi d a imm) := rfl
theorem shl (h : Hdr) (ty : Ty) (d a b : Opnd) : Statement (.shl h ty d a b) := rfl
theorem shr (h : Hdr) (ty : Ty) (d a b : Opnd) : Statement (.shr h ty d a b) := rfl
theorem rot (h : Hdr) (ty : Ty) (right : Bool) (d a b : Opnd) : Statement (.rot h ty right d a b) := rfl
theorem clz (h : Hdr) (wide : Bool) (d a : Opnd) : Statement (.clz h wide d a) := rfl
theorem popc (h : Hdr) (wide : Bool) (d a : Opnd) : Statement (.popc h wide d a) := rfl
theorem brev (h : Hdr) (wide : Bool) (d a : Opnd) : Statement (.brev h wide d a) := rfl
theorem bfx (h : Hdr) (signed : Bool) (d a c : Opnd) : Statement (.bfx h signed d a c) := rfl
theorem bfi (h : Hdr) (d a b c : Opnd) : Statement (.bfi h d a b c) := rfl
theorem lea (h : Hdr) (sx : Bool) (sh : Nat) (d a b : Opnd) : Statement (.lea h sx sh d a b) := rfl
theorem movi (h : Hdr) (wide : Bool) (d : Opnd) (imm : BitVec 20) : Statement (.movi h wide d imm) := rfl
theorem movl (h : Hdr) (single : Bool) (d : Opnd) (lit : DWord) : Statement (.movl h single d lit) := rfl
theorem mov (h : Hdr) (ty : Ty) (d a : Opnd) : Statement (.mov h ty d a) := rfl
theorem iaddi (h : Hdr) (ty : Ty) (sat : Bool) (d a : Opnd) (imm : BitVec 20) : Statement (.iaddi h ty sat d a imm) := rfl
theorem plop (h : Hdr) (tt p a b : Nat) : Statement (.plop h tt p a b) := rfl
theorem pmovPack (h : Hdr) (d : Opnd) : Statement (.pmovPack h d) := rfl
theorem pmovUnpack (h : Hdr) (a : Opnd) : Statement (.pmovUnpack h a) := rfl
theorem pmovNz (h : Hdr) (p : Nat) (a : Opnd) : Statement (.pmovNz h p a) := rfl
theorem pmovVal (h : Hdr) (d : Opnd) (p : Nat) : Statement (.pmovVal h d p) := rfl
theorem fadd (h : Hdr) (rm : Rm) (sat : Bool) (d a b : Opnd) : Statement (.fadd h rm sat d a b) := rfl
theorem fsub (h : Hdr) (rm : Rm) (sat : Bool) (d a b : Opnd) : Statement (.fsub h rm sat d a b) := rfl
theorem fmul (h : Hdr) (rm : Rm) (sat : Bool) (d a b : Opnd) : Statement (.fmul h rm sat d a b) := rfl
theorem ffma (h : Hdr) (rm : Rm) (sat : Bool) (d a b c : Opnd) : Statement (.ffma h rm sat d a b c) := rfl
theorem fmin (h : Hdr) (d a b : Opnd) : Statement (.fmin h d a b) := rfl
theorem fmax (h : Hdr) (d a b : Opnd) : Statement (.fmax h d a b) := rfl
theorem fset (h : Hdr) (cc : Cc) (p : Nat) (a b : Opnd) (q : Nat) : Statement (.fset h cc p a b q) := rfl
theorem frcp (h : Hdr) (rm : Rm) (sat : Bool) (d a : Opnd) : Statement (.frcp h rm sat d a) := rfl
theorem frsq (h : Hdr) (sat : Bool) (d a : Opnd) : Statement (.frsq h sat d a) := rfl
theorem fsqrt (h : Hdr) (rm : Rm) (sat : Bool) (d a : Opnd) : Statement (.fsqrt h rm sat d a) := rfl
theorem fex2 (h : Hdr) (sat : Bool) (d a : Opnd) : Statement (.fex2 h sat d a) := rfl
theorem flg2 (h : Hdr) (sat : Bool) (d a : Opnd) : Statement (.flg2 h sat d a) := rfl
theorem ftrig (h : Hdr) (cos sat : Bool) (d a : Opnd) : Statement (.ftrig h cos sat d a) := rfl
theorem fcls (h : Hdr) (ty : Ty) (d a : Opnd) : Statement (.fcls h ty d a) := rfl
theorem hadd2 (h : Hdr) (ty : Ty) (rm : Rm) (sat : Bool) (d a b : Opnd) : Statement (.hadd2 h ty rm sat d a b) := rfl
theorem hmul2 (h : Hdr) (ty : Ty) (rm : Rm) (sat : Bool) (d a b : Opnd) : Statement (.hmul2 h ty rm sat d a b) := rfl
theorem hfma2 (h : Hdr) (ty : Ty) (rm : Rm) (sat : Bool) (d a b c : Opnd) : Statement (.hfma2 h ty rm sat d a b c) := rfl
theorem cvt (h : Hdr) (dt st : Ty) (rm : Rm) (sat : Bool) (d a : Opnd) : Statement (.cvt h dt st rm sat d a) := rfl
theorem fscal (h : Hdr) (rm : Rm) (sat : Bool) (d a b : Opnd) : Statement (.fscal h rm sat d a b) := rfl
theorem dot4 (h : Hdr) (ty : Ty) (rm : Rm) (sat : Bool) (d a b c : Opnd) : Statement (.dot4 h ty rm sat d a b c) := rfl
theorem shfl (h : Hdr) (w64 : Bool) (mode : ShflMode) (d a b : Opnd) : Statement (.shfl h w64 mode d a b) := rfl
theorem vote (h : Hdr) (f : VoteForm) : Statement (.vote h f) := by cases f <;> rfl
theorem crdx (h : Hdr) (op : RedOp) (d a : Opnd) : Statement (.crdx h op d a) := rfl
theorem ld (h : Hdr) (sz : Nat) (ord : Ord) (scope : Scope) (hint : Nat) (d a : Opnd) (off : BitVec 16) : Statement (.ld h sz ord scope hint d a off) := rfl
theorem st (h : Hdr) (sz : Nat) (ord : Ord) (scope : Scope) (hint : Nat) (d a : Opnd) (off : BitVec 16) : Statement (.st h sz ord scope hint d a off) := rfl
theorem atom (h : Hdr) (op : Aop) (w64 : Bool) (ord : Ord) (scope : Scope) (d a b : Opnd) : Statement (.atom h op w64 ord scope d a b) := rfl
theorem red (h : Hdr) (op : Aop) (w64 : Bool) (ord : Ord) (scope : Scope) (a b : Opnd) : Statement (.red h op w64 ord scope a b) := rfl
theorem fenceFull (h : Hdr) (d : Opnd) (scope : Scope) (eng : Bool) : Statement (.fenceFull h d scope eng) := rfl
theorem fenceAcq (h : Hdr) (d : Opnd) (scope : Scope) (eng : Bool) : Statement (.fenceAcq h d scope eng) := rfl
theorem fenceRel (h : Hdr) (d : Opnd) (scope : Scope) (eng : Bool) : Statement (.fenceRel h d scope eng) := rfl
theorem pref (h : Hdr) (sz hint : Nat) (a : Opnd) (off : BitVec 16) : Statement (.pref h sz hint a off) := rfl
theorem cctlInv (h : Hdr) (a : Opnd) (off : BitVec 16) : Statement (.cctlInv h a off) := rfl
theorem cctlInvall (h : Hdr) : Statement (.cctlInvall h) := rfl
theorem cctlWb (h : Hdr) (a : Opnd) (off : BitVec 16) : Statement (.cctlWb h a off) := rfl
theorem cctlWbinv (h : Hdr) (a : Opnd) (off : BitVec 16) : Statement (.cctlWbinv h a off) := rfl
theorem copy (h : Hdr) (d a b : Opnd) (q : QSide) : Statement (.copy h d a b q) := rfl
theorem copyt (h : Hdr) (d a b : Opnd) (q : QSide) : Statement (.copyt h d a b q) := rfl
theorem gath (h : Hdr) (d a b : Opnd) (q : Option Nat) : Statement (.gath h d a b q) := rfl
theorem skcfg (h : Hdr) (d a b : Opnd) (q : Nat) : Statement (.skcfg h d a b q) := rfl
theorem skopRes (h : Hdr) (d b : Opnd) (q : Nat) : Statement (.skopRes h d b q) := rfl
theorem skopPub (h : Hdr) (d b : Opnd) (q : Nat) : Statement (.skopPub h d b q) := rfl
theorem skopTake (h : Hdr) (d b : Opnd) (q : Nat) : Statement (.skopTake h d b q) := rfl
theorem skopPop (h : Hdr) (d b : Opnd) (q : Nat) : Statement (.skopPop h d b q) := rfl
theorem skopState (h : Hdr) (d : Opnd) (q : Nat) : Statement (.skopState h d q) := rfl
theorem binit (h : Hdr) (a : Opnd) (n : Nat) : Statement (.binit h a n) := rfl
theorem barv (h : Hdr) (d a : Opnd) (n : Nat) : Statement (.barv h d a n) := rfl
theorem bwait (h : Hdr) (d a : Opnd) (p : Bool) : Statement (.bwait h d a p) := rfl
theorem bexp (h : Hdr) (d a : Opnd) (n : Nat) : Statement (.bexp h d a n) := rfl
theorem mload (h : Hdr) (fmt : BFmt) (mb : Bool) (d a : Opnd) (k q : Nat) : Statement (.mload h fmt mb d a k q) := rfl
theorem mma (h : Hdr) (tr im : Bool) (fmt : AFmt) (mb : Bool) (d : Opnd) (tile : Nat) (b : Opnd) (k q : Nat) : Statement (.mma h tr im fmt mb d tile b k q) := rfl
theorem mzero (h : Hdr) (tile c : Nat) : Statement (.mzero h tile c) := rfl
theorem mdrain (h : Hdr) (fmt : OFmt) (rm : Rm) (sat za : Bool) (d : Opnd) (tile k q : Nat) : Statement (.mdrain h fmt rm sat za d tile k q) := rfl
theorem mstatState (h : Hdr) (d : Opnd) (mb : Bool) : Statement (.mstatState h d mb) := rfl
theorem mstatPasses (h : Hdr) (d : Opnd) (mb : Bool) : Statement (.mstatPasses h d mb) := rfl
theorem mstatCanary (h : Hdr) (d : Opnd) (mb : Bool) : Statement (.mstatCanary h d mb) := rfl
theorem mstatChecks (h : Hdr) (d : Opnd) (mb : Bool) : Statement (.mstatChecks h d mb) := rfl
theorem grow (h : Hdr) (d b : Opnd) (k : Nat) : Statement (.grow h d b k) := rfl
theorem shrink (h : Hdr) (d b : Opnd) (k : Nat) : Statement (.shrink h d b k) := rfl
theorem alook (h : Hdr) (node : Bool) (d a b : Opnd) (q : Option Nat) : Statement (.alook h node d a b q) := rfl
theorem aname (h : Hdr) (node : Bool) (d a b : Opnd) : Statement (.aname h node d a b) := rfl
theorem aref (h : Hdr) (d a : Opnd) (delta : BitVec 16) : Statement (.aref h d a delta) := rfl
theorem aldSec (h : Hdr) (d a : Opnd) (s : Nat) : Statement (.aldSec h d a s) := rfl
theorem aldAddr (h : Hdr) (d a : Opnd) : Statement (.aldAddr h d a) := rfl
theorem aswapSwap (h : Hdr) (d a r : Opnd) : Statement (.aswapSwap h d a r) := rfl
theorem aswapCas (h : Hdr) (d a r : Opnd) : Statement (.aswapCas h d a r) := rfl
theorem aout (h : Hdr) (d a b : Opnd) (q : Option Nat) : Statement (.aout h d a b q) := rfl
theorem astatCount (h : Hdr) (d a : Opnd) : Statement (.astatCount h d a) := rfl
theorem astatFree (h : Hdr) (d : Opnd) : Statement (.astatFree h d) := rfl
theorem astatUsed (h : Hdr) (d : Opnd) : Statement (.astatUsed h d) := rfl
theorem astatCollide (h : Hdr) (d : Opnd) : Statement (.astatCollide h d) := rfl
theorem astatRoot (h : Hdr) (d a : Opnd) : Statement (.astatRoot h d a) := rfl
theorem astatPend (h : Hdr) (d : Opnd) : Statement (.astatPend h d) := rfl
theorem launch (h : Hdr) (wait : Bool) (d a : Opnd) : Statement (.launch h wait d a) := rfl
theorem sysrd (h : Hdr) (w : Bool) (d : Opnd) (reg : Nat) : Statement (.sysrd h w d reg) := rfl
theorem syswr (h : Hdr) (w : Bool) (a : Opnd) (reg : Nat) : Statement (.syswr h w a reg) := rfl
theorem tret (h : Hdr) : Statement (.tret h) := rfl
theorem tstateRd (h : Hdr) (d : Opnd) (item : Nat) : Statement (.tstateRd h d item) := rfl
theorem tstateWr (h : Hdr) (a : Opnd) (item : Nat) : Statement (.tstateWr h a item) := rfl
theorem vmembForm (h : Hdr) (d a : Opnd) (slot : Nat) : Statement (.vmembForm h d a slot) := rfl
theorem vmembJoin (h : Hdr) (d a : Opnd) (slot : Nat) : Statement (.vmembJoin h d a slot) := rfl
theorem vmembLeave (h : Hdr) (d a : Opnd) (slot : Nat) : Statement (.vmembLeave h d a slot) := rfl
theorem vmembEvict (h : Hdr) (d a : Opnd) (slot : Nat) : Statement (.vmembEvict h d a slot) := rfl
theorem vmembQuery (h : Hdr) (d : Opnd) (slot : Nat) : Statement (.vmembQuery h d slot) := rfl
theorem vmembRot (h : Hdr) (d a : Opnd) (slot : Nat) : Statement (.vmembRot h d a slot) := rfl
theorem claimMake (h : Hdr) (d a : Opnd) : Statement (.claimMake h d a) := rfl
theorem claimEnd (h : Hdr) (d a : Opnd) : Statement (.claimEnd h d a) := rfl
theorem placeTask (h : Hdr) (d a : Opnd) : Statement (.placeTask h d a) := rfl
theorem placeRestore (h : Hdr) (d a : Opnd) : Statement (.placeRestore h d a) := rfl
theorem freezeHold (h : Hdr) (d a : Opnd) : Statement (.freezeHold h d a) := rfl
theorem freezeKill (h : Hdr) (d a : Opnd) : Statement (.freezeKill h d a) := rfl
theorem freezeSave (h : Hdr) (d a : Opnd) : Statement (.freezeSave h d a) := rfl
theorem freezeRelease (h : Hdr) (d a : Opnd) : Statement (.freezeRelease h d a) := rfl
theorem idle (h : Hdr) (d a : Opnd) (mask : Nat) : Statement (.idle h d a mask) := rfl
theorem dlog (h : Hdr) (d a : Opnd) : Statement (.dlog h d a) := rfl
theorem waittDeadline (r : TRef) : Statement (.waittDeadline r) := rfl
theorem phaseMarkReceive (slot src : Nat) (mark : Word) : Statement (.phaseMarkReceive slot src mark) := rfl
theorem registerResultWrite (r : TRef) (op : Nat) : Statement (.registerResultWrite r op) := rfl
theorem loadResponse (r : TRef) (op : Nat) (fromL1 : Bool) : Statement (.loadResponse r op fromL1) := rfl
theorem invalidationAck (id : Nat) : Statement (.invalidationAck id) := rfl
theorem copyCompletion (core slot : Nat) : Statement (.copyCompletion core slot) := rfl
theorem skipBufferGrant (core slot q : Nat) : Statement (.skipBufferGrant core slot q) := rfl
theorem mloadFire (core : Nat) (mb : Bool) : Statement (.mloadFire core mb) := rfl
theorem mmaPass (core : Nat) (mb : Bool) (bad : Option Nat) : Statement (.mmaPass core mb bad) := rfl
theorem mdrainFire (core slot op : Nat) : Statement (.mdrainFire core slot op) := rfl
theorem growGrant (core : Nat) : Statement (.growGrant core) := rfl
theorem shrinkApply (core : Nat) : Statement (.shrinkApply core) := rfl
theorem assayReclaimStep (n line : Nat) : Statement (.assayReclaimStep n line) := rfl
theorem tlbinv (v : DWord) : Statement (.tlbinv v) := rfl
theorem qtabWrite (v : DWord) : Statement (.qtabWrite v) := rfl
theorem assayRegionEnable (n : Nat) (v : DWord) : Statement (.assayRegionEnable n v) := rfl
theorem assayRegionDisable (n : Nat) (v : DWord) : Statement (.assayRegionDisable n v) := rfl
theorem phaseSlotDisable (n : Nat) (v : Word) : Statement (.phaseSlotDisable n v) := rfl
theorem idleWake (core : Nat) : Statement (.idleWake core) := rfl
theorem issueGroup (core : Nat) : Statement (.issueGroup core) := rfl
theorem holdTimeout (r : TRef) : Statement (.holdTimeout r) := rfl
theorem fairnessOverdue (r : TRef) : Statement (.fairnessOverdue r) := rfl
theorem deferredTrapDelivery (r : TRef) : Statement (.deferredTrapDelivery r) := rfl
theorem fholdExpiry (core slot : Nat) : Statement (.fholdExpiry core slot) := rfl
theorem hartFreezeTimeout (n : Nat) : Statement (.hartFreezeTimeout n) := rfl
theorem forceSave (core slot : Nat) : Statement (.forceSave core slot) := rfl
theorem debugHalt (r : TRef) : Statement (.debugHalt r) := rfl
theorem prewtExpiry (lnum : Nat) : Statement (.prewtExpiry lnum) := rfl
theorem drainDeadlineExpiry (core asid : Nat) : Statement (.drainDeadlineExpiry core asid) := rfl
theorem saveDeadlineExpiry (core slot : Nat) : Statement (.saveDeadlineExpiry core slot) := rfl
theorem timeSliceExpiry (core slot : Nat) : Statement (.timeSliceExpiry core slot) := rfl
theorem park (core slot : Nat) : Statement (.park core slot) := rfl
theorem packetClaim (core : Nat) : Statement (.packetClaim core) := rfl
theorem dependencePoll (lnum : Nat) : Statement (.dependencePoll lnum) := rfl
theorem taskPlacementChoice (core : Nat) : Statement (.taskPlacementChoice core) := rfl
theorem completionSignalWrite (lnum : Nat) : Statement (.completionSignalWrite lnum) := rfl
theorem wakeWrite (m : Master) (whole : Bool) (cap : BitVec 256) : Statement (.wakeWrite m whole cap) := rfl
theorem plainWake (m : Master) (cap : BitVec 256) : Statement (.plainWake m cap) := rfl
theorem faultTicketReturn (r : TRef) (op : Nat) : Statement (.faultTicketReturn r op) := rfl
theorem priResponse (id : Nat) (ok : Bool) : Statement (.priResponse id ok) := rfl
theorem replayNotice (id gen : Nat) (fail : Bool) : Statement (.replayNotice id gen fail) := rfl
theorem clmwtExpiry (id : Nat) : Statement (.clmwtExpiry id) := rfl
theorem rpwinExpiry (page : Nat) : Statement (.rpwinExpiry page) := rfl
theorem backfillRefill (frame : Nat) : Statement (.backfillRefill frame) := rfl
theorem remoteRequestReceive (src asid : Nat) (va : Nat) (op : RemoteOp) : Statement (.remoteRequestReceive src asid va op) := rfl
theorem atomicCacheLeaseEnd (line : Nat) : Statement (.atomicCacheLeaseEnd line) := rfl
theorem directoryRecallAll (asid line : Nat) (conflict : Bool) : Statement (.directoryRecallAll asid line conflict) := rfl
theorem veinUpdateReceive (u : VPacket) : Statement (.veinUpdateReceive u) := rfl
theorem sumpApply (slot : Nat) : Statement (.sumpApply slot) := rfl
theorem slotRequest (slot rank : Nat) : Statement (.slotRequest slot rank) := rfl
theorem slotGrant (slot s : Nat) : Statement (.slotGrant slot s) := rfl
theorem slotAck (slot s rank : Nat) : Statement (.slotAck slot s rank) := rfl
theorem handoverMarker (slot s succ : Nat) : Statement (.handoverMarker slot s succ) := rfl
theorem banksmanRotationTimer (slot : Nat) : Statement (.banksmanRotationTimer slot) := rfl
theorem memberDeparture (slot : Nat) (ranks : List Nat) (reports : List VReport) : Statement (.memberDeparture slot ranks reports) := rfl
theorem lagEvictionTimeout (slot rank : Nat) : Statement (.lagEvictionTimeout slot rank) := rfl
theorem joinStreamComplete (slot : Nat) (j : VJoin) : Statement (.joinStreamComplete slot j) := rfl
theorem formTimeout (slot : Nat) : Statement (.formTimeout slot) := rfl
theorem sweepMarkerReceive (slot s : Nat) : Statement (.sweepMarkerReceive slot s) := rfl
theorem readyNoticeReceive (slot rank seq : Nat) : Statement (.readyNoticeReceive slot rank seq) := rfl
theorem linkDown (peer : Nat) : Statement (.linkDown peer) := rfl
theorem peerLossTimeout (peer : Nat) : Statement (.peerLossTimeout peer) := rfl
theorem linkBringup (peer inc : Nat) : Statement (.linkBringup peer inc) := rfl
theorem fabricPacketReceive (hd : FabHdr) : Statement (.fabricPacketReceive hd) := rfl
theorem allowanceReturn (link bufset flits : Nat) : Statement (.allowanceReturn link bufset flits) := rfl
theorem ptpSyncMessage (offset : Int) (bound : Nat) : Statement (.ptpSyncMessage offset bound) := rfl
theorem reconfigDrain (links : List Nat) (peers : DrainPeers) : Statement (.reconfigDrain links peers) := rfl
theorem drainMarkerAck (link : Nat) : Statement (.drainMarkerAck link) := rfl
theorem reconfigRelock (reachable newInc : List Nat) : Statement (.reconfigRelock reachable newInc) := rfl
theorem hostSnoop (pa : Nat) (keepShared : Bool) : Statement (.hostSnoop pa keepShared) := rfl
theorem hostCxlMemAccess (addr : Nat) (write : Option (List Byte)) (n : Nat) : Statement (.hostCxlMemAccess addr write n) := rfl
theorem biasFlipToDev (addr : Nat) : Statement (.biasFlipToDev addr) := rfl
theorem biasFlipToHost (addr : Nat) : Statement (.biasFlipToHost addr) := rfl
theorem biasFlipComplete (addr : Nat) : Statement (.biasFlipComplete addr) := rfl
theorem hartAccess (n : Nat) (pa : HartAddr) (pbmt : Nat) (op : HartOp) : Statement (.hartAccess n pa pbmt op) := rfl
theorem dasidWrite (n : Nat) (mode : HartMode) (v : CsrOp) : Statement (.dasidWrite n mode v) := rfl
theorem hartSfence (n : Nat) : Statement (.hartSfence n) := rfl
theorem registerWrite (core reg : Nat) (v : DWord) : Statement (.registerWrite core reg v) := rfl
theorem remoteWriteAck (id : Nat) : Statement (.remoteWriteAck id) := rfl
theorem accessPerformed (r : TRef) (op : Nat) : Statement (.accessPerformed r op) := rfl
theorem debugResume (r : TRef) : Statement (.debugResume r) := rfl
theorem clusterRebuild (cluster : Rebuild) : Statement (.clusterRebuild cluster) := rfl
theorem powerCap (milliwatts : Nat) (order : Bool) : Statement (.powerCap milliwatts order) := rfl
theorem junctionThrottle (tj : Nat) : Statement (.junctionThrottle tj) := rfl
theorem throttleRelease (tj : Nat) (inputLow : Bool) : Statement (.throttleRelease tj inputLow) := rfl
theorem junctionTrip (tj : Nat) : Statement (.junctionTrip tj) := rfl
theorem powerStateA1 (on : Bool) : Statement (.powerStateA1 on) := rfl
theorem s1Entry (cluster : Nat) : Statement (.s1Entry cluster) := rfl
theorem s1Exit (cluster : Nat) : Statement (.s1Exit cluster) := rfl
theorem coldReset (peers : PeerSlots) (unlock : Bool) : Statement (.coldReset peers unlock) := rfl
theorem warmReset (peers : PeerSlots) : Statement (.warmReset peers) := rfl
theorem mailboxBegin (total : Nat) : Statement (.mailboxBegin total) := rfl
theorem mailboxChunk (off : Nat) (data : List Byte) : Statement (.mailboxChunk off data) := rfl
theorem mailboxSeal (peersFail : Nat) : Statement (.mailboxSeal peersFail) := rfl
theorem mailboxReboot (peers : PeerSlots) : Statement (.mailboxReboot peers) := rfl
theorem mailboxInvalidCmd (cmd : Nat) : Statement (.mailboxInvalidCmd cmd) := rfl
theorem antiRollbackFuseBlow (n : Nat) : Statement (.antiRollbackFuseBlow n) := rfl
theorem attestationRequest (nonce : List Byte) : Statement (.attestationRequest nonce) := rfl
theorem debugStateChange (st : Nat) (asids : List Nat) : Statement (.debugStateChange st asids) := rfl
theorem syncInterval : Statement .syncInterval := rfl
theorem rcdarkExpiry : Statement .rcdarkExpiry := rfl
theorem traceRecordWrite : Statement .traceRecordWrite := rfl
theorem s2Entry : Statement .s2Entry := rfl
theorem s2Exit : Statement .s2Exit := rfl
theorem s3Entry : Statement .s3Entry := rfl

end WordShape
end Laws
end Sys2Proof
end

