-- ==== Sys2Proof/Tests/Slice0.lean ====
section
/-! SUPPORT. The model's own tests: well-formedness, words decoded, one step of a few instructions, and for every
statement states and operands that meet its hypotheses. Expected values are worked by hand from the rules named. -/

set_option Elab.async false

namespace Sys2Proof
namespace Tests
open Machine

/- ## Helpers -/

/-- No flag, no lookahead, guard p0. -/
def h0 : Hdr := { b := false, la := 0, g := 0, gn := false }
/-- The same with B set. -/
def hB : Hdr := { h0 with b := true }

/-- The machine after reset with an instruction placed where step fetches. -/
def at_ (i : Instr) : State := State.reset.withFetchWord 64 ((encode i).headD 0)

/-- The placed thread. -/
def r0 : TRef := ⟨0, 16, 0⟩

/-- Registers of the placed thread. -/
def withRegs (ws : List (Nat × Nat)) (s : State) : State := s.updThread r0 fun t => t.puts (ws.map fun e => (e.1, BitVec.ofNat 32 e.2))

/-- The thread and its task changed. -/
def withThr (f : Thread → Thread) (s : State) : State := s.updThread r0 f
def withTask (f : Machine.Task → Machine.Task) (s : State) : State := s.updTask 0 16 f

/-- A group of one thread issues the instruction in a state, and P holds where its effect begins. -/
def wit (s : State) (i : Instr) (P : Ctx → State → Bool) : Bool :=
  match s.solo? i with
  | some (_, q, _, x) => P x (s.begun q i x.r)
  | none => false

/-- The instruction issues where it is placed. -/
def ready (i : Instr) : Bool := wit (at_ i) i fun _ _ => true

/-- Exec answers a next state of which P holds. -/
def nextIs (r : Res) (P : State → Bool) : Bool :=
  match r with
  | .next t => P t
  | _ => false

/-- A value P holds of. -/
def isSomeAnd {α : Type} (o : Option α) (P : α → Bool) : Bool :=
  match o with
  | some v => P v
  | none => false

/-- The placed thread's register after one step. -/
def stepReg (s : State) (n : Nat) : Option Word :=
  match step s with
  | .next t => (t.thread? r0).map fun th => th.reg n
  | _ => none

/- ## Well-formedness: an ill-formed term for each check -/

theorem test_wf_fields : (Instr.iadd h0 .f32 false (.v 3) (.v 1) (.v 2)).wf = false := by decide
theorem test_wf_regs_range : (Instr.iadd h0 .i32 false (.v 640) (.v 1) (.v 2)).wf = false := by decide
theorem test_wf_regs_pair : (Instr.iadd h0 .i64 false (.v 3) (.v 0) (.v 2)).wf = false := by decide
theorem test_wf_special_destination : (Instr.iadd h0 .i32 false .zero (.v 1) (.v 2)).wf = false := by decide
theorem test_wf_guard : (Instr.nop { h0 with g := 16 }).wf = false := by decide
theorem test_wf_lookahead : (Instr.nop { h0 with la := 1 }).wf = false ∧ (Instr.idiv { h0 with la := 15 } .i32 false (.v 3) (.v 1) (.v 2)).wf = true := by decide
theorem test_wf_transfer_b : (Instr.ret h0).wf = false ∧ (Instr.ret hB).wf = true := by decide
theorem test_wf_event_is_no_word : Instr.s2Entry.wf = true ∧ Instr.s2Entry.isWord = false := by decide

/- ## Decoding: words written out from the encoding tables (R103 to R113 and each instruction's rule) -/

/-- OP, then the fields of F3: D, A, B, C, FN. -/
def f3 (op d a b c fn : Nat) : Nat := op * 2 ^ 57 + d * 2 ^ 37 + a * 2 ^ 27 + b * 2 ^ 17 + c * 2 ^ 7 + fn
/-- OP, then the fields of FS: D, A, SEL16, FN. -/
def fs (op d a sel fn : Nat) : Nat := op * 2 ^ 57 + d * 2 ^ 37 + a * 2 ^ 27 + sel * 2 ^ 11 + fn

/-- Control: bra -1 with B = 1, bit 56; FB puts OFF32 at bit 5. -/
theorem test_dec_bra : decodeTableWord 64 (1 * 2 ^ 57 + 2 ^ 56 + 0xFFFFFFFF * 2 ^ 5) = some (.bra hB (-1)) := by decide
/-- Integer: iadd.i32 v3, v1, v2, guarded by !p1 (GN at bit 47, G at bit 48). -/
theorem test_dec_iadd : decodeTableWord 64 (f3 16 3 1 2 0 0 + 2 ^ 48 + 2 ^ 47) =
    some (.iadd { h0 with g := 1, gn := true } .i32 false (.v 3) (.v 1) (.v 2)) := by decide
/-- shr.i64 v4:v5, v6:v7, v2 (R165): TY 2. -/
theorem test_dec_shr : decodeTableWord 64 (f3 32 4 6 2 0 2) = some (.shr h0 .i64 (.v 4) (.v 6) (.v 2)) := by decide
/-- iset.lt.i32 p2, v1, v2 (R141, R160): CC 2 at bit 4. -/
theorem test_dec_iset : decodeTableWord 64 (f3 26 2 1 2 0 (2 * 16 + 0)) = some (.iset h0 .lt .i32 2 (.v 1) (.v 2) 0) := by decide
/-- Floating point: ffma with .rz (V = 1) and .sat (S, bit 6), .f32 is type 10. -/
theorem test_dec_ffma : decodeTableWord 64 (f3 51 3 1 2 4 (64 + 16 + 10)) = some (.ffma h0 .rz true (.v 3) (.v 1) (.v 2) (.v 4)) := by decide
/-- Cross-lane: shfl.down, one register (R182). -/
theorem test_dec_shfl : decodeTableWord 64 (f3 72 3 1 2 0 2) = some (.shfl h0 false .down (.v 3) (.v 1) (.v 2)) := by decide
/-- Memory: ld of 4 bytes (SZ 2), rlx, scope task, OFF16 = -8 (R107, R108). -/
theorem test_dec_ld : decodeTableWord 64 (80 * 2 ^ 57 + 3 * 2 ^ 37 + 4 * 2 ^ 27 + 0xFFF8 * 2 ^ 11 + 2 * 2 ^ 8) =
    some (.ld h0 2 .rlx .task 0 (.v 3) (.v 4) (BitVec.ofNat 16 0xFFF8)) := by decide
/-- atom.cas, 32 bits, scope chip, rlx (R109, R242): AOP 9 at bit 13, SCOPE 1 at bit 6. -/
theorem test_dec_atom : decodeTableWord 64 (82 * 2 ^ 57 + 3 * 2 ^ 37 + 4 * 2 ^ 27 + 6 * 2 ^ 17 + 9 * 2 ^ 13 + 1 * 2 ^ 6) =
    some (.atom h0 .cas false .rlx .chip (.v 3) (.v 4) (.v 6)) := by decide
/-- Copies: copy v8, v16:v21 with no barrier object and no skip buffer (R255). -/
theorem test_dec_copy : decodeTableWord 64 (f3 87 8 16 1008 0 0) = some (.copy h0 (.v 8) (.v 16) .zero .none) := by decide
/-- Barrier objects: bwait on parity 1 (R269). -/
theorem test_dec_bwait : decodeTableWord 64 (fs 92 8 4 1 0) = some (.bwait h0 (.v 8) (.v 4) true) := by decide
/-- Matrix: mma.dm8, the spec's word. -/
theorem test_dec_mma : decodeTableWord 64 0xC2000500003C0380 = some (.mma h0 false false .dm8 false (.v 40) 0 (.v 30) 0 1) := by decide
/-- Convergence: kset k0, 64, the spec's word. -/
theorem test_dec_kset : decodeTableWord 64 0x1400000000002000 = some (.kset h0 0 (.imm 64)) := by decide
/-- The vein: vmemb.join, phadv and phwait, the spec's words. -/
theorem test_dec_vein : decodeTableWord 64 0xEC00050060000001 = some (.vmembJoin h0 (.v 40) (.v 12) 0) ∧
    decodeTableWord 64 0x1800050000000800 = some (.phadv h0 (.v 40) 1) ∧
    decodeTableWord 64 0x1A00050040006800 = some (.phwait h0 (.v 40) (.v 8) 1 3) := by decide
/-- The assay: aref -1, ald.sec and aswap.cas, the spec's words. -/
theorem test_dec_assay : decodeTableWord 64 0xD4000500A7FFF800 = some (.aref h0 (.v 40) (.v 20) (-1)) ∧
    decodeTableWord 64 0xD6000400A0001000 = some (.aldSec h0 (.v 32) (.v 20) 2) ∧
    decodeTableWord 64 0xD8000600C0004001 = some (.aswapCas h0 (.v 48) (.v 24) (.v 8)) := by decide
/-- Launch, system and firmware: the spec's words. -/
theorem test_dec_system : decodeTableWord 64 0xE000050060000001 = some (.launch h0 true (.v 40) (.v 12)) ∧
    decodeTableWord 64 0xE600000040100000 = some (.syswr h0 false (.v 8) 0x200) ∧
    decodeTableWord 64 0xE900000000000000 = some (.tret hB) ∧
    decodeTableWord 64 0xEA00000020000001 = some (.tstateWr h0 (.v 4) 0) ∧
    decodeTableWord 64 0xEE00050060000000 = some (.claimMake h0 (.v 40) (.v 12)) ∧
    decodeTableWord 64 0xF200050060000002 = some (.freezeSave h0 (.v 40) (.v 12)) := by decide
/-- Reserved opcodes, a header word and a reserved field are refused (R116, R122, R123). -/
theorem test_dec_refused : decodeTableWord 64 (113 * 2 ^ 57) = none ∧ decodeTableWord 64 (127 * 2 ^ 57) = none ∧
    decodeTableWord 64 (f3 14 3 0 0 0 1) = none ∧ decodeTableWord 64 (f3 16 700 1 2 0 0) = none := by decide

/- ## One step of one instruction, with results worked by hand -/

/-- R158: 0x7FFFFFFF + 1 wraps to the minimum, and stays at the maximum under .sat. -/
theorem test_step_iadd_wraps :
    stepReg (withRegs [(1, 0x7FFFFFFF), (2, 1)] (at_ (.iadd h0 .i32 false (.v 3) (.v 1) (.v 2)))) 3 = some 0x80000000 ∧
    stepReg (withRegs [(1, 0x7FFFFFFF), (2, 1)] (at_ (.iadd h0 .i32 true (.v 3) (.v 1) (.v 2)))) 3 = some 0x7FFFFFFF := by
  decide +kernel
/-- R63: a 64-bit sum carries into the odd register; the destination may be a source. -/
theorem test_step_iadd_pair :
    stepReg (withRegs [(4, 0xFFFFFFFF), (5, 1), (6, 1)] (at_ (.iadd h0 .n64 false (.v 4) (.v 4) (.v 6)))) 5 = some 2 := by decide +kernel
/-- R165: a shift by the width or more gives zero, or sign copies. -/
theorem test_step_shr :
    stepReg (withRegs [(1, 0x80000000), (2, 40)] (at_ (.shr h0 .b32 (.v 3) (.v 1) (.v 2)))) 3 = some 0 ∧
    stepReg (withRegs [(1, 0x80000000), (2, 40)] (at_ (.shr h0 .i32 (.v 3) (.v 1) (.v 2)))) 3 = some 0xFFFFFFFF := by decide +kernel
/-- R167: bits [11:4] of 0xABC with the sign of bit 11. -/
theorem test_step_bfx :
    stepReg (withRegs [(1, 0xABC), (5, 0x0804)] (at_ (.bfx h0 true (.v 3) (.v 1) (.v 5)))) 3 = some 0xFFFFFFAB := by decide +kernel
/-- R75: 1 + 2^-24 ties to 1 under .rn and rounds up under .ru. -/
theorem test_step_fadd :
    stepReg (withRegs [(1, 0x3F800000), (2, 0x33800000)] (at_ (.fadd h0 .rn false (.v 3) (.v 1) (.v 2)))) 3 = some 0x3F800000 ∧
    stepReg (withRegs [(1, 0x3F800000), (2, 0x33800000)] (at_ (.fadd h0 .ru false (.v 3) (.v 1) (.v 2)))) 3 = some 0x3F800001 := by
  decide +kernel
/-- R76, R173: a product that is exactly zero is +0, and -0 under .rd: -5 times +0, and +5 times +0. -/
theorem test_step_fmul_zero :
    stepReg (withRegs [(1, 0xC0A00000), (2, 0)] (at_ (.fmul h0 .rn false (.v 3) (.v 1) (.v 2)))) 3 = some 0 ∧
    stepReg (withRegs [(1, 0x40A00000), (2, 0)] (at_ (.fmul h0 .rd false (.v 3) (.v 1) (.v 2)))) 3 = some 0x80000000 := by decide +kernel
/-- R98: thr of the placed thread is 0 and nthr is 1. -/
theorem test_step_mov_special : stepReg (withRegs [(3, 7)] (at_ (.mov h0 .b32 (.v 3) (.sp 14)))) 3 = some 1 := by decide +kernel

/- ## Hypotheses that can be met: every statement's, where its effect begins -/

/-- Every member of the group is active and passes the checks. -/
def grp (i : Instr) : Bool :=
  match (at_ i).issues? i with
  | some (_, q, k, h) => ((at_ i).live q).all fun e => e.2.active h && (precheck k q.slot e.1 e.2 i).isNone
  | none => false

theorem test_wit_IntegerArithmetic :
    ([.iadd h0 .i32 false (.v 3) (.v 1) (.v 2), .isub h0 .n32 true (.v 3) (.v 1) (.v 2), .imul h0 .i64 false (.v 4) (.v 6) (.v 8),
      .imulh h0 .n64 (.v 4) (.v 6) (.v 8), .imad h0 .i32 true (.v 3) (.v 1) (.v 2) (.v 639), .imin h0 .i32 (.v 3) (.v 1) (.v 2),
      .imax h0 .n32 (.v 3) (.v 1) (.v 2), .iabs h0 .i32 true (.v 3) (.v 1), .iaddi h0 .i32 false (.v 3) (.v 1) (-1)] :
      List Instr).all grp = true := by decide +kernel
/-- A member that is not active, and one that fails a check. -/
theorem test_wit_GroupWrites_others :
    (match (at_ (.iadd { h0 with gn := true } .i32 false (.v 3) (.v 1) (.v 2))).issues? (.iadd { h0 with gn := true } .i32 false (.v 3) (.v 1) (.v 2)) with
      | some (_, q, _, h) => ((at_ (.iadd { h0 with gn := true } .i32 false (.v 3) (.v 1) (.v 2))).live q).all fun e => !e.2.active h
      | none => false) = true ∧
    (match (at_ (.nop h0)).issues? (.iadd h0 .i64 false (.v 3) (.v 1) (.v 2)) with
      | some (_, q, k, h) => ((at_ (.nop h0)).live q).all fun e =>
          e.2.active h && decide (precheck k q.slot e.1 e.2 (.iadd h0 .i64 false (.v 3) (.v 1) (.v 2)) = some (.illegal, 0))
      | none => false) = true := by decide +kernel
theorem test_wit_DivisionInEveryCase :
    ready (.idiv h0 .i32 false (.v 3) (.v 1) (.v 2)) = true ∧ ready (.irem h0 .i32 (.v 3) (.v 1) (.v 2)) = true ∧
    grp (.iabs h0 .i32 false (.v 3) (.v 1)) = true ∧ Ty.exact .i32 0 = 0 ∧ Ty.exact .i32 0xFFFFFFFF = -1 ∧
    Ty.exact .i32 0x80000000 = Ty.lo .i32 ∧ Ty.hi .i32 < Int.tdiv (Ty.exact .i32 0x80000000) (Ty.exact .i32 0xFFFFFFFF) ∧
    Int.tdiv (Ty.exact .i32 7) (Ty.exact .i32 0xFFFFFFFE) ≤ Ty.hi .i32 := by decide +kernel
theorem test_wit_ComparisonsAndPredicates :
    ([.iset h0 .lt .i32 15 (.v 1) (.v 2) 0, .iseti h0 .ge .n32 4 (.v 1) 100, .sel h0 .b32 (.v 3) (.v 1) (.v 2) 4, .plop h0 6 3 1 2,
      .pmovPack h0 (.v 3), .pmovUnpack h0 (.v 3), .pmovNz h0 2 (.v 3), .pmovVal h0 (.v 3) 2] : List Instr).all grp = true := by decide +kernel
theorem test_wit_LogicShiftsAndMoves :
    ([.and h0 (.v 3) (.v 1) (.v 2), .or h0 (.v 3) (.v 1) (.v 2), .xor h0 .nil (.v 1) (.v 2), .logi h0 .or true (.v 3) (.v 1) 1,
      .shl h0 .b32 (.v 3) (.v 1) (.v 2), .shr h0 .i64 (.v 4) (.v 6) (.v 2), .rot h0 .b32 true (.v 3) (.v 1) (.v 2),
      .clz h0 true (.v 3) (.v 4), .popc h0 false (.v 3) (.v 4), .brev h0 true (.v 6) (.v 4), .bfx h0 true (.v 3) (.v 1) (.v 5),
      .bfi h0 (.v 3) (.v 1) (.v 2) (.v 5), .mov h0 .i64 (.v 4) (.sp 4), .movi h0 false (.v 3) (-5), .movl h0 true (.v 3) 0x3F800000,
      .lea h0 true 7 (.v 6) (.v 4) (.v 8)] : List Instr).all grp = true := by decide +kernel
theorem test_wit_FloatArithmetic :
    ([.fadd h0 .rn false (.v 3) (.v 1) (.v 2), .fsub h0 .rz true (.v 3) (.v 1) (.v 2), .fmul h0 .ru false (.v 3) (.v 1) (.v 2),
      .ffma h0 .rd false (.v 3) (.v 1) (.v 2) (.v 4), .fmin h0 (.v 3) (.v 1) (.v 2), .fmax h0 (.v 3) (.v 1) (.v 2),
      .fset h0 .un 2 (.v 1) (.v 2) 0, .fcls h0 .bf16 (.v 3) (.v 1)] : List Instr).all grp = true := by decide +kernel
theorem test_wit_LongResultsAreInFlightThenWritten :
    ([.frcp h0 .rn false (.v 3) (.v 1), .frsq h0 false (.v 3) (.v 1), .fsqrt h0 .rz false (.v 3) (.v 1), .fex2 h0 true (.v 3) (.v 1),
      .flg2 h0 false (.v 3) (.v 1), .ftrig h0 true false (.v 3) (.v 1), .fscal h0 .rn false (.v 3) (.v 1) (.v 2),
      .hadd2 h0 .f16 .rn false (.v 3) (.v 1) (.v 2), .hmul2 h0 .bf16 .rn false (.v 3) (.v 1) (.v 2),
      .hfma2 h0 .f16 .ru true (.v 3) (.v 1) (.v 2) (.v 4), .cvt h0 .dm8 .f32 .rn false (.v 4) (.v 3),
      .dot4 h0 .n8 .rn false (.v 3) (.v 1) (.v 2) (.v 4)] : List Instr).all ready = true ∧
    nextIs (step (at_ (.idiv h0 .i32 false (.v 3) (.v 1) (.v 2)))) (fun s => isSomeAnd (s.thread? r0) fun t =>
      isSomeAnd t.ops.head? fun o => decide (t.ops.find? (fun x => x.id == o.id) = some o) && match o.kind with | .result _ => true | _ => false) = true := by decide +kernel
/-- R75: the least positive subnormal and minus infinity of the half format are representable. -/
theorem test_wit_RoundingInEveryMode : Fmt.half.decode 1 ≠ .nan ∧ Fmt.half.decode 0xFC00 ≠ .nan ∧ 0xFC00 < 2 ^ Fmt.half.width := by
  decide +kernel
theorem test_wit_CrossLane :
    ([.shfl h0 true .xor (.v 4) (.v 6) (.v 2), .vote h0 (.all 1 2), .vote h0 (.any 1 2), .vote h0 (.ballot (.v 4) 2),
      .vote h0 (.uni 1 (.v 3)), .crdx h0 .addI32 (.v 3) (.v 1), .crdx h0 .addF32 (.v 3) (.v 1), .crdx h0 .minN32 (.v 3) (.v 1)] :
      List Instr).all grp = true := by decide +kernel
theorem test_wit_NopYieldAndWaitt :
    ready (.nop h0) = true ∧ ready (.yieldCore h0) = true ∧
    wit (at_ (.waittAbs h0 (.v 8) (.v 2))) (.waittAbs h0 (.v 8) (.v 2)) (fun x st => decide ((x.d (.v 2)).toNat ≤ st.clk.time)) = true ∧
    wit (withRegs [(2, 1)] (at_ (.waittAbs h0 (.v 8) (.v 2)))) (.waittAbs h0 (.v 8) (.v 2))
      (fun x st => decide (st.clk.time < (x.d (.v 2)).toNat)) = true ∧
    wit (at_ (.waittRel h0 (.v 8) (.v 2))) (.waittRel h0 (.v 8) (.v 2))
      (fun x st => decide (((BitVec.ofNat 64 x.s.clk.time) + x.d (.v 2)).toNat ≤ st.clk.time)) = true ∧
    wit (withRegs [(2, 1)] (at_ (.waittRel h0 (.v 8) (.v 2)))) (.waittRel h0 (.v 8) (.v 2))
      (fun x st => decide (st.clk.time < ((BitVec.ofNat 64 x.s.clk.time) + x.d (.v 2)).toNat)) = true ∧
    isSomeAnd ((withThr (fun t => { t with wait := .time 5 (.v 8) }) (at_ (.nop h0))).thread? r0)
      (fun t => decide (t.wait = .time 5 (.v 8))) = true := by decide +kernel

/-- A CALL's and a RET's own conditions on the stack pointer. -/
def pushOk (x : Ctx) : Bool :=
  decide (x.t.csp.toNat % 8 = 0) && decide (privBase + 16 ≤ x.t.csp.toNat) && decide (x.t.csp.toNat ≤ privBase + x.k.hd.privb) &&
    !privBusy x.t (x.t.csp.toNat - 16 - privBase) 16 && !x.s.commitHeld x.k && !x.s.overflowsBy x.k 1
def popOk (x : Ctx) (st : State) : Bool :=
  decide (x.t.csp.toNat % 8 = 0) && decide (privBase ≤ x.t.csp.toNat) && decide (x.t.csp.toNat + 16 ≤ privBase + x.k.hd.privb) &&
    !privBusy x.t (x.t.csp.toNat - privBase) 16 && !x.s.commitHeld x.k &&
    !st.poisoned (privKey x.k.uid x.r.thr (x.t.csp.toNat - privBase)) 16 &&
    (st.target? x.k (leNat (x.k.bytes st (privKey x.k.uid x.r.thr (x.t.csp.toNat - privBase)) 8))).isSome

/-- Each transfer to the header of the placed block; CALL with a record's room, RET with a record. -/
theorem test_wit_TransfersAndExit :
    wit (at_ (.bra hB (-1))) (.bra hB (-1)) (fun x st => (st.target? x.k (x.t.pc + ((-1 : BitVec 32).signExtend 64 <<< 3)).toNat).isSome) = true ∧
    wit (withRegs [(4, 0x20000)] (at_ (.brx hB (.v 4)))) (.brx hB (.v 4)) (fun x st => (st.target? x.k (x.d (.v 4)).toNat).isSome) = true ∧
    wit (withRegs [(4, 0xFFFFFFFF)] (at_ (.brxRel hB (.v 4)))) (.brxRel hB (.v 4))
      (fun x st => (st.target? x.k (x.t.pc + ((x.w (.v 4)).signExtend 64 <<< 3)).toNat).isSome) = true ∧
    wit (at_ (.call hB (-1))) (.call hB (-1))
      (fun x st => pushOk x && (st.target? x.k (x.t.pc + ((-1 : BitVec 32).signExtend 64 <<< 3)).toNat).isSome) = true ∧
    wit (withRegs [(4, 0x20000)] (at_ (.callIndirect hB (.v 4)))) (.callIndirect hB (.v 4))
      (fun x st => pushOk x && (st.target? x.k (x.d (.v 4)).toNat).isSome) = true ∧
    wit (withThr (fun t => { t with csp := t.csp - 16 }) (withTask (fun k => { k with version := Memory.writeN [] (privKey 1 0 4080) (leBytes 8 0x20000) })
      (at_ (.ret hB)))) (.ret hB) popOk = true ∧
    wit (at_ (.exitThreads hB)) (.exitThreads hB) (fun x _ => x.s.mayCommit x.k x.t) = true := by decide +kernel
/-- CALL's and RET's traps: a stack pointer that is not aligned, at the bottom and above the top, and a target with no header. -/
theorem test_wit_TransfersAndExit_traps :
    wit (withThr (fun t => { t with csp := t.csp - 4 }) (at_ (.ret hB))) (.ret hB) (fun x _ => decide (x.t.csp.toNat % 8 ≠ 0)) = true ∧
    wit (withThr (fun t => { t with csp := t.csp - 4088 }) (at_ (.call hB 0))) (.call hB 0)
      (fun x _ => decide (x.t.csp.toNat % 8 = 0) && decide (x.t.csp.toNat < privBase + 16)) = true ∧
    wit (at_ (.ret hB)) (.ret hB) (fun x _ => decide (privBase + x.k.hd.privb < x.t.csp.toNat + 16)) = true ∧
    wit (at_ (.call hB 0)) (.call hB 0) (fun x st => decide (privBase + 16 ≤ x.t.csp.toNat) && decide (x.t.csp.toNat ≤ privBase + x.k.hd.privb) &&
      decide (st.headerAt x.k x.t.pc.toNat = .bad)) = true := by decide +kernel

/-- The placed instruction's state with memory bytes, here words of the placed page. -/
def withWord (off w : Nat) (s : State) : State := { s with mem := Memory.writeN s.mem (hbmKey 0 (placedPage + off)) (leBytes 8 w) }
/-- A handler's header at 0x20100: one block of 16 words with KIND 2 (R36). -/
def withHandler (i : Instr) : State :=
  withTask (fun k => { k with hd := { k.hd with handler := true, hdlr := 0x20100 } })
    (withWord 0x100 (127 * 2 ^ 57 + 16 * 2 ^ 49 + 640 * 2 ^ 39 + 2 * 2 ^ 12) (at_ i))
/-- The debug state of every context. -/
def withDbg (d : Dbg) (s : State) : State := { s with plat := { s.plat with sec := .openDebug, dbg := d } }

/-- The conditions under which a lone thread's trap is taken at once. -/
def trapReady (s : State) (i : Instr) (P : Ctx → Bool) : Bool :=
  match s.solo? i with
  | some (_, q, _, x) =>
    decide (Assoc.wf s.threads = true) && decide (q.members = [x.r.thr]) && !x.t.halted && !x.t.haltReq && decide (x.k.frozen = none) &&
      decide (x.k.ending = none) && !x.t.ops.any Op.inFlight && P x
  | none => false

theorem test_wit_TakingATrap :
    ([.trap h0 (.v 1) 7, .bkpt h0 7] : List Instr).all (fun i => trapReady (withHandler i) i fun x =>
      x.k.hd.handler && !x.t.inh && match (withHandler i).headerAt x.k x.k.hd.hdlr with | .ok w => fld w 12 3 == 2 | _ => false) = true ∧
    trapReady (at_ (.trap h0 (.v 1) 7)) (.trap h0 (.v 1) 7) (fun x => !x.k.hd.handler && !x.t.inh) = true ∧
    trapReady (withThr (fun t => { t with inh := true }) (withHandler (.trap h0 (.v 1) 7))) (.trap h0 (.v 1) 7) (fun x => x.t.inh) = true := by
  decide +kernel
/-- R405: the trap's registers after TRAP 7 with 9 in v1 (cause 0x0C). -/
theorem test_step_trap :
    nextIs (step (withRegs [(1, 9)] (withHandler (.trap h0 (.v 1) 7)))) (fun s => isSomeAnd (s.thread? r0) fun t =>
      decide (t.tcause = 0x0C000007) && decide (t.tval = 9) && decide (t.tpc = 0x20008) && decide (t.pc = 0x20108) && t.inh) = true := by
  decide +kernel
theorem test_wit_BkptAndTret :
    wit (withDbg .trace (at_ (.bkpt h0 7))) (.bkpt h0 7) (fun x st => decide (st.dbgRun x.k.asid = .trace)) = true ∧
    wit (withDbg .halt (at_ (.bkpt h0 7))) (.bkpt h0 7) (fun x st => decide (st.dbgRun x.k.asid = .halt)) = true ∧
    (let s := withDbg .halt (at_ (.bkpt h0 7))
     trapReady s (.bkpt h0 7) fun x => decide (s.dbgRun x.k.asid = .halt) && s.runs.all fun e => some e.1 == s.cur) = true ∧
    wit (withThr (fun t => { t with inh := true, tpc := 0x20008, tblk := t.blk }) (at_ (.tret hB))) (.tret hB) (fun x _ =>
      x.t.inh && !x.t.modf && isSomeAnd x.t.tblk fun b =>
        decide ((if fld x.t.tcause.toNat 24 8 = 0xC ∨ fld x.t.tcause.toNat 24 8 = 0xD then x.t.tpc + 8 else x.t.tpc) ≠ b.endPc)) = true ∧
    wit (withThr (fun t => { t with inh := true, modf := true, tpc := 0x20000 }) (at_ (.tret hB))) (.tret hB) (fun x st =>
      x.t.inh && x.t.modf && (st.target? x.k x.t.tpc.toNat).isSome) = true ∧
    wit (at_ (.tret hB)) (.tret hB) (fun x _ => !x.t.inh) = true := by decide +kernel

/-- A thread at a barrier's fence: nothing open, or a store open. -/
def fenceAt (openStore : Bool) : State :=
  withThr (fun t => { t with
    wait := .fence 0 .chip [] false (.v 8)
    ops := if openStore then
      [mkOp 1 (.nop h0) 0 false (.store { va := 0, n := 4, place := .scratch 0, write := true, read := false, ord := .rlx, scope := .task, hint := 0 } [1, 2, 3, 4])]
      else [] }) (at_ (.nop h0))
theorem test_wit_BarriersFencesAndCommits :
    ([.bar h0 (.v 8) .task false, .barNock h0 (.v 8) .fab true, .fenceFull h0 (.v 8) .sys false, .fenceAcq h0 (.v 8) .chip true,
      .fenceRel h0 .nil .chip false, .commit h0 (.v 8) false] : List Instr).all ready = true ∧
    [false, true].all (fun b => isSomeAnd ((fenceAt b).task? 0 16) fun k => isSomeAnd ((fenceAt b).thread? r0) fun t =>
      decide (t.acks = 0) && (t.ops.any Op.openAcc == b) && !(fenceAt b).commitHeld k &&
        (fenceAt b).engDone 0 k [] && !(fenceAt b).remoteOut k && !(fenceAt b).acksOut 0 16 && !t.onTicket) = true := by decide +kernel
/-- The rendezvous: one thread that is not at a BAR; one that is, with a checkpoint's room and without. -/
theorem test_wit_BarriersFencesAndCommits_rendezvous :
    isSomeAnd ((at_ (.nop h0)).thread? r0) (fun t => !t.atBar && !t.ended) = true ∧
    (let s := withThr (fun t => { t with wait := .bar false .task false (.v 8) }) (withTask (fun k => { k with hd := { k.hd with ckpu := 2 } }) (at_ (.nop h0)))
     isSomeAnd (s.task? 0 16) (fun k => decide (k.frozen = none) && decide (k.ending = none) && k.parked.isNone && !s.commitHeld k &&
       decide (ckptFixed k.nthr ≤ k.hd.ckpu)) &&
     decide (((s.threadsOf 0 16).filter fun e => !e.2.ended).length = 1) &&
     ((s.threadsOf 0 16).filter fun e => !e.2.ended).all fun e => e.2.atBar && !e.2.halted && decide (e.2.held = none) &&
       !e.2.ops.any Op.openAcc && decide (e.2.acks = 0)) = true := by decide +kernel

/-- A thread of an ordinary task, in slot 0, at an instruction. -/
def at0 (i : Instr) : State :=
  let s := at_ i
  { s with
    tasks := [(taskKey 0 0, { Task.reset 1 0 0 0 0 placedHdr 0 with nthr := 1 })]
    threads := [(thrKey ⟨0, 0, 0⟩, placedThread)]
    runs := s.runs.map fun e => (e.1, { e.2 with slot := 0 }) }
theorem test_wit_PrivilegeAndCauseOrder :
    ([.idle h0 (.v 8) (.v 2) 1, .dlog h0 (.v 8) (.v 16), .syswr h0 false (.v 8) 0x200] : List Instr).all (fun i =>
      privileged i && i.wf && isSomeAnd ((at0 i).issues? i) fun e =>
        decide (e.2.1.slot ≠ fwSlot) && decide (((at0 i).live e.2.1).length = 1) && ((at0 i).live e.2.1).all fun m => m.2.active e.2.2.2) = true := by
  decide +kernel
/-- A word that meets each cause alone, and one that meets none. -/
theorem test_wit_PrivilegeAndCauseOrder_causes :
    isSomeAnd ((at_ (.nop h0)).task? 0 16) (fun k =>
      let c := fun (slot : Nat) (k : Machine.Task) (t : Thread) (i : Instr) => precheck k slot 0 t i
      let nm := { k with hd := { k.hd with nomatrix := true } }
      let few := { k with allot := [(0, 32)] }
      let win := { placedThread with wins := [{ left := 2, wr := [1], rd := [] }] }
      decide (c 0 k placedThread (.iadd h0 .i64 false (.v 3) (.v 1) (.v 2)) = some (.illegal, 0)) &&
      decide (c 0 k placedThread (.dlog h0 (.v 8) (.v 16)) = some (.priv, 0)) &&
      decide (c 0 nm placedThread (.mzero h0 0 0) = some (.matrixoff, 0)) &&
      decide (c 0 few placedThread (.iadd h0 .i32 false (.v 32) (.v 1) (.v 2)) = some (.regbound, 0)) &&
      decide (c 0 few placedThread (.iadd h0 .i32 false (.v 31) (.v 1) (.v 2)) = none) &&
      decide (c 0 k win (.iadd h0 .i32 false (.v 3) (.v 1) (.v 2)) = some (.lookahead, 0))) = true := by decide +kernel
theorem test_wit_NoActiveMemberNoEffect :
    isSomeAnd ((at_ (.nop { h0 with gn := true })).issues? (.nop { h0 with gn := true })) (fun e =>
      ((at_ (.nop { h0 with gn := true })).acting e.2.1 e.2.2.2).isEmpty) = true := by decide +kernel

/- ## Memory -/

/-- The state an instruction leaves where it runs. -/
def run1 (s : State) (i : Instr) : State :=
  match exec i s with
  | .next t => t
  | _ => s

/-- v4:v5 holds an address. -/
def atVa (va : Nat) (i : Instr) : State := withRegs [(4, va % 2 ^ 32), (5, va / 2 ^ 32)] (at_ i)
def okAt (x : Ctx) (va n : Nat) (w : Bool) : Bool :=
  match x.check va n w with
  | .ok _ => true
  | _ => false

theorem test_wit_AccessesAreCheckedAndIssue :
    ([(.ld h0 2 .rlx .task 0 (.v 3) (.v 4) 0, 4, false), (.st h0 5 .rel .chip 0 (.v 8) (.v 4) 0, 32, true), (.atom h0 .cas true .ar .chip (.v 8) (.v 4) (.v 12), 8, true),
      (.red h0 .add false .rlx .task (.v 4) (.v 3), 4, true)] : List (Instr × Nat × Bool)).all (fun e =>
        [0x20040, 0x01FFF00000000000, 0x01FFE00000000000].all fun va => wit (atVa va e.1) e.1 fun x _ =>
          okAt x va e.2.1 e.2.2 && x.s.mayCommit x.k x.t && !isWakePort x .glob va) = true ∧
    wit (atVa 0x20040 (.pref h0 0 0 (.v 4) 0)) (.pref h0 0 0 (.v 4) 0) (fun x st => !st.prefDrops x.r x.k (x.ea (.v 4) 0) 0) = true ∧
    wit (atVa 0x50000 (.pref h0 0 0 (.v 4) 0)) (.pref h0 0 0 (.v 4) 0) (fun x st => st.prefDrops x.r x.k (x.ea (.v 4) 0) 0) = true ∧
    ([.cctlInv h0 (.v 4) 0, .cctlInvall h0, .cctlWb h0 (.v 4) 0, .cctlWbinv h0 (.v 4) 0] : List Instr).all ready = true := by decide +kernel
/-- The checks at their boundaries: PRIVB is 4096 and SCRU 64 here, and an ordinary task has no claim. -/
theorem test_wit_AccessesAreCheckedAndIssue_checks :
    wit (at_ (.nop h0)) (.nop h0) (fun x _ =>
      decide (x.check 0x20042 4 false = .bad .align) && decide (x.check (2 ^ 57) 4 false = .bad .claim) &&
      decide (x.check 0x01FFF00000000000 4 false = .ok (.scratch 0)) && decide (x.check (0x01FFF00000000000 + 262140) 4 false = .ok (.scratch 262140)) &&
      decide (x.check (0x01FFF00000000000 + 262144) 4 false = .bad .claim) && decide (x.check (2 ^ 57 - 4) 4 true = .bad .claim) &&
      decide (x.check 0x01FFE00000000000 4 true = .ok (.priv 0)) && decide (x.check (0x01FFE00000000000 + 4092) 4 true = .ok (.priv 4092)) &&
      decide (x.check (0x01FFE00000000000 + 4096) 4 true = .bad .stack) && decide (x.check (0x01FFF00000000000 - 4) 4 true = .bad .stack) &&
      decide (x.check (0x01FFE00000000000 - 4) 4 true = .ok .glob)) = true ∧
    wit (at0 (.nop h0)) (.nop h0) (fun x _ => decide (x.check 0x20040 4 false = .bad .claim)) = true := by decide +kernel

/-- An access of the placed thread, issued and not yet performed, and P of its task, itself and the state. -/
def inFlight (s : State) (i : Instr) (P : State → Machine.Task → Op → Bool) : Bool :=
  isSomeAnd (((run1 s i).thread? r0).bind fun t => t.ops.head?) fun o => isSomeAnd ((run1 s i).opOf r0 o.id) fun e =>
    decide (e.2.2.ticket = none) && decide (e.1.frozen = none) && (run1 s i).mayPerform r0 e.1 e.2.1 e.2.2 && (e.2.2.acc?.all fun a => ((run1 s i).entryAt r0 e.1 a).isNone) && P (run1 s i) e.1 e.2.2
/-- Page 0x30000 of context 0 as an assay page of a region that is not enabled: it reads as zeros. -/
def withZeroPage (s : State) : State :=
  { s with mem := Memory.writeN s.mem (hbmKey 0 (placedTables + 0x4000 + 24)) (leBytes 8 (0x1F + 3 * 32)), regs := { s.regs with acfg := [(0, 2 ^ 57)] } }
/-- Where an access finds its bytes. -/
def locOk (s : State) (k : Machine.Task) (va : Nat) (kd : Kind) : Bool :=
  match s.locate k.asid va kd with
  | .ok key _ _ => decide (s.homeOf key = .own) && decide (s.peerOf key = none) && !s.poisoned key 8 && !s.sentOthers k.uid key 8
  | _ => false
theorem test_wit_LoadsReadTheTasksBytes :
    inFlight (atVa 0x01FFF00000000000 (.ld h0 2 .rlx .task 0 (.v 3) (.v 4) 0)) (.ld h0 2 .rlx .task 0 (.v 3) (.v 4) 0) (fun _ k o =>
      (match o.kind with | .load a _ => decide (a.place = .scratch 0) | _ => false) && !k.spoisoned 0 4) = true ∧
    inFlight (atVa 0x01FFE00000000FF8 (.ld h0 3 .rlx .task 0 (.v 8) (.v 4) 0)) (.ld h0 3 .rlx .task 0 (.v 8) (.v 4) 0) (fun s k o =>
      (match o.kind with | .load a _ => decide (a.place = .priv 0xFF8) | _ => false) && !s.poisoned (privKey k.uid 0 0xFF8) 8) = true ∧
    inFlight (atVa 0x20040 (.ld h0 2 .acq .chip 0 (.v 3) (.v 4) 0)) (.ld h0 2 .acq .chip 0 (.v 3) (.v 4) 0) (fun s k o =>
      (match o.kind with | .load a _ => decide (a.place = .glob) && decide (a.ord ≠ .inv) | _ => false) && locOk s k 0x20040 .r) = true ∧
    inFlight (withZeroPage (atVa 0x30000 (.ld h0 2 .rlx .task 0 (.v 3) (.v 4) 0))) (.ld h0 2 .rlx .task 0 (.v 3) (.v 4) 0) (fun s k o =>
      (match o.kind with | .load a _ => decide (a.place = .glob) | _ => false) && decide (s.locate k.asid 0x30000 .r = .zero)) = true := by
  decide +kernel
theorem test_wit_StoresWriteTheirBytesAlone :
    inFlight (atVa 0x01FFF00000000000 (.st h0 0 .rlx .task 0 (.v 3) (.v 4) 1)) (.st h0 0 .rlx .task 0 (.v 3) (.v 4) 1) (fun _ _ o =>
      (match o.kind with | .store a data => decide (a.place = .scratch 1) && decide (data.length = a.n) | _ => false)) = true ∧
    inFlight (atVa 0x01FFE00000000000 (.st h0 2 .rlx .task 0 (.v 3) (.v 4) 0)) (.st h0 2 .rlx .task 0 (.v 3) (.v 4) 0) (fun s k o =>
      (match o.kind with | .store a data => decide (a.place = .priv 0) && decide (data.length = a.n) && !s.overflows k (privKey k.uid 0 0) data | _ => false) &&
        decide (s.homeOf (privKey k.uid 0 0) = .priv)) = true ∧
    inFlight (atVa 0x20040 (.st h0 3 .rlx .task 0 (.v 8) (.v 4) 0)) (.st h0 3 .rlx .task 0 (.v 8) (.v 4) 0) (fun s k o =>
      (match o.kind with | .store a data => decide (a.place = .glob) && decide (data.length = a.n) && !s.overflows k (hbmKey 0 0x30040) data | _ => false) &&
        locOk s k 0x20040 .w && decide (s.locate k.asid 0x20040 .w = .ok (hbmKey 0 0x30040) 0 0)) = true := by decide +kernel
theorem test_wit_AtomicsReadAndWriteOnce :
    [0x01FFF00000000000, 0x20040].all (fun va =>
      ([.atom h0 .cas false .rlx .chip (.v 8) (.v 4) (.v 12), .red h0 .add true .rlx .chip (.v 4) (.v 12)] : List Instr).all fun i =>
        inFlight (atVa va i) i fun s k o => (match o.kind with
          | .atomic a _ w64 _ _ _ => decide (a.n = if w64 then 8 else 4) && (match a.place with | .scratch off => !k.spoisoned off a.n | .glob => locOk s k a.va .w | _ => false)
          | _ => false)) = true := by decide +kernel
/-- A write of the placed task to peer 1, not acknowledged. -/
def rw1 : RemoteWr := { peer := 1, uid := 1, core := 0, thrs := [0], copy := none, poison := false, cells := [(2 ^ 51, 7)] }
theorem test_wit_AcknowledgementsAndCacheControl :
    (Assoc.find? ({ at_ (.nop h0) with invs := [(3, { core := 1, lo := 0, n := 32, writers := [r0] })] } : State).invs 3).isSome = true ∧
    (let s := { at_ (.nop h0) with rws := [(3, rw1)] }
     isSomeAnd (Assoc.find? s.rws 3) (fun w => s.oldestTo 3 w.peer) && s.agents.tickets.isEmpty) = true ∧
    ([.cctlInv h0 (.v 4) 0, .cctlInvall h0, .cctlWb h0 (.v 4) 0, .cctlWbinv h0 (.v 4) 0] : List Instr).all (fun i =>
      inFlight (atVa 0x20040 i) i fun _ _ o => match o.kind with | .cctl _ fn => decide (fn ≤ 3) | _ => false) = true := by decide +kernel

/- ## Copies, skip buffers and barrier objects -/

/-- A copy's descriptor in v16 on: 32 bytes within the scratchpad, from offset 0 to offset 64. -/
def cpRegs : List (Nat × Nat) := [(16, 0), (17, 0x01FFF000), (18, 64), (19, 0x01FFF000), (20, 32), (21, 0)]
def cptRegs : List (Nat × Nat) := [(16, 0), (17, 0x01FFF000), (18, 64), (19, 0x01FFF000), (20, 0), (21, 32), (22, 1), (23, 1)]
/-- A gather of one row of 16 bytes from 0x20000 by a list at scratchpad offset 128. -/
def gaRegs : List (Nat × Nat) := [(16, 0x20000), (17, 0), (18, 64), (19, 0x01FFF000), (20, 16), (21, 0), (22, 128), (23, 0x01FFF000), (24, 1), (25, 16)]
/-- Skip buffer 0: four entries of 32 bytes at offset 1024, one published. -/
def q0 : SkipBuf := { SkipBuf.reset with base := 1024, esz := 1, cnt := 4, rsv := 1, pub := 1 }
def withQ (b : SkipBuf) (s : State) : State := withTask (fun k => k.setQ 0 b) s

def startOk (x : Ctx) (st : State) (c : CpDesc) (b : Opnd) (qs : QSide) : Bool :=
  (st.task? x.r.core x.r.slot).isSome && decide (c.bad x.k (barOf x b) qs = none) &&
    (match qs with | .from _ => true | _ => c.kind == 2 || rangeClaimed x c.srcRange false) &&
    (c.kind != 2 || rangeClaimed x c.listRange false) && (match qs with | .to _ => true | _ => rangeClaimed x c.dstRange true) &&
    (match qs with
      | .to n => decide (firstWaiting (x.k.q n).resv = none) && decide (c.entries x.k qs ≤ (x.k.q n).room)
      | .from n => decide (firstWaiting (x.k.q n).take = none) && decide (c.entries x.k qs ≤ (x.k.q n).avail) && decide (c.entries x.k qs ≤ (x.k.q n).cnt)
      | .none => true) && x.s.mayCommit x.k x.t
theorem test_wit_CopiesStartOrAnswerBaddesc :
    wit (withRegs cpRegs (at_ (.copy h0 (.v 8) (.v 16) .zero .none))) (.copy h0 (.v 8) (.v 16) .zero .none) (fun x st => startOk x st (copyDesc x (.v 16)) .zero .none) = true ∧
    wit (withQ q0 (withRegs (cpRegs ++ [(18, 0), (19, 0)]) (at_ (.copy h0 (.v 8) (.v 16) .zero (.to 0))))) (.copy h0 (.v 8) (.v 16) .zero (.to 0))
      (fun x st => startOk x st (copyDesc x (.v 16)) .zero (.to 0)) = true ∧
    wit (withQ q0 (withRegs (cpRegs ++ [(16, 0), (17, 0)]) (at_ (.copy h0 (.v 8) (.v 16) .zero (.from 0))))) (.copy h0 (.v 8) (.v 16) .zero (.from 0))
      (fun x st => startOk x st (copyDesc x (.v 16)) .zero (.from 0)) = true ∧
    wit (withRegs cptRegs (at_ (.copyt h0 (.v 8) (.v 16) .zero .none))) (.copyt h0 (.v 8) (.v 16) .zero .none) (fun x st => startOk x st (copytDesc x (.v 16)) .zero .none) = true ∧
    wit (withRegs gaRegs (at_ (.gath h0 (.v 8) (.v 16) .zero none))) (.gath h0 (.v 8) (.v 16) .zero none) (fun x st => startOk x st (gathDesc x (.v 16)) .zero .none) = true ∧
    wit (withRegs (cpRegs ++ [(2, 512), (3, 0x01FFF000)]) (at_ (.copy h0 (.v 8) (.v 16) (.v 2) .none))) (.copy h0 (.v 8) (.v 16) (.v 2) .none)
      (fun x st => startOk x st (copyDesc x (.v 16)) (.v 2) .none) = true := by decide +kernel
/-- Malformed: a length of zero, of every form. -/
theorem test_wit_CopiesStartOrAnswerBaddesc_bad :
    wit (at_ (.copy h0 (.v 8) (.v 16) .zero .none)) (.copy h0 (.v 8) (.v 16) .zero .none) (fun x _ => ((copyDesc x (.v 16)).bad x.k none .none).isSome) = true ∧
    wit (at_ (.copyt h0 (.v 8) (.v 16) .zero .none)) (.copyt h0 (.v 8) (.v 16) .zero .none) (fun x _ => ((copytDesc x (.v 16)).bad x.k none .none).isSome) = true ∧
    wit (at_ (.gath h0 (.v 8) (.v 16) .zero none)) (.gath h0 (.v 8) (.v 16) .zero none) (fun x _ => ((gathDesc x (.v 16)).bad x.k none .none).isSome) = true := by
  decide +kernel
/-- The copies of core 0 move their words in ascending order. -/
def ascending (s : State) : State := s.updCore 0 fun c => { c with copies := c.copies.map fun e => (e.1, { e.2 with order := 0 }) }
theorem test_wit_CopyMovesItsBytes :
    (let s := ascending (run1 (withRegs cpRegs (at_ (.copy h0 (.v 8) (.v 16) .zero .none))) (.copy h0 (.v 8) (.v 16) .zero .none))
     isSomeAnd ((s.core 0).copies.head?) fun e => isSomeAnd (s.task? 0 16) fun k => isSomeAnd (s.thread? r0) fun t =>
       let c := e.2
       decide (Assoc.find? (s.core 0).copies e.1 = some c) && decide (c.slot = 16) && decide (k.uid = c.uid) && decide (k.ending = none) && decide (c.ticket = none) &&
       decide (c.alook = none) && decide (c.aout = none) && decide (c.gather = none) && decide (c.bar = none) && decide (c.qsrc = none) &&
       decide (c.qdst = none) && !c.again && decide (c.done = none) && decide (c.tile = none) && decide (c.row = none) && !c.dirt && c.rows.isEmpty && !t.ended &&
       !s.alookBefore 0 c.uid c.thr c.id && (s.copySent 0 e.1 c.uid).isEmpty && decide (c.moves = [(scratchBase + 0, scratchBase + 64, c.total)]) && decide (0 + c.total ≤ 64) && !k.spoisoned 0 c.total &&
       Assoc.wf s.threads && decide (c.thr = 0) && isSomeAnd (t.ops.find? fun x => x.id == c.id) (fun o => decide (o.kind = .engine [c.d])) &&
       decide (∀ e ∈ t.ops, e.id < c.id → e.openWrite = false ∧ e.openAcq = false) && decide ((s.threadsOf 0 16).map Prod.fst = [0])) = true := by decide +kernel
theorem test_wit_SkipBufferWords :
    wit (withRegs [(2, 1024), (3, 4 + 4096)] (at_ (.skcfg h0 (.v 8) (.v 2) (.v 3) 0))) (.skcfg h0 (.v 8) (.v 2) (.v 3) 0) (fun x st =>
      isSomeAnd (st.task? 0 16) fun k => let b := k.q 0
        decide (b.rsv = b.con) && decide (b.crs = b.con) && b.resv.isEmpty && b.take.isEmpty && !st.copyNames 0 k.uid 0 &&
        decide ((x.w (.v 2)).toNat % 32 = 0) && decide ((x.w (.v 3)).toNat = 4 + 4096 * 1) && decide ((x.w (.v 2)).toNat + 4 * 1 * 32 ≤ k.scratchLen)) = true ∧
    wit (withQ q0 (at_ (.skopState h0 (.v 8) 0))) (.skopState h0 (.v 8) 0) (fun x _ => (x.k.q 0).cnt != 0) = true ∧
    ([.skopRes h0 (.v 8) (.v 2) 0, .skopTake h0 (.v 8) (.v 2) 0] : List Instr).all (fun i =>
      [1, 4].all fun n => wit (withRegs [(2, n)] (withQ q0 (at_ i))) i fun x _ => (x.k.q 0).cnt != 0 && decide (1 ≤ (x.w (.v 2)).toNat) && decide ((x.w (.v 2)).toNat ≤ (x.k.q 0).cnt)) = true ∧
    ([.skopPub h0 (.v 8) (.v 2) 0, .skopPop h0 (.v 8) (.v 2) 0] : List Instr).all (fun i =>
      wit (withRegs [(2, 1)] (withQ { q0 with resv := [{ id := 1, n := 1, granted := true, done := 0, skop := true }], take := [{ id := 1, n := 1, granted := true, done := 0, skop := true }] } (at_ i))) i fun x _ =>
        scratchQuiet x.s x.k { core := 0, slot := 0, members := [], pc := 0, len := 0, conv := false } [(x.r.thr, x.t)] &&
        decide ((x.w (.v 2)).toNat ≤ openSkop (x.k.q 0).resv) && decide ((x.w (.v 2)).toNat ≤ openSkop (x.k.q 0).take)) = true ∧
    isSomeAnd ((withQ { q0 with resv := [newEntry 1 1 true] } (at_ (.nop h0))).task? 0 16) (fun k =>
      isSomeAnd (firstWaiting (k.q 0).resv) fun x => x.skop && decide (x.n ≤ (k.q 0).room)) = true := by decide +kernel

/-- A barrier object at scratchpad offset 16: two arrivals awaited of two, in phase 0. -/
def withBar (arr pend : Nat) (s : State) : State :=
  withRegs [(4, 16), (5, 0x01FFF000)] (withTask (fun k => { k with scratch := Memory.writeN k.scratch 16 (leBytes 4 arr ++ leBytes 4 2 ++ leBytes 4 pend ++ leBytes 4 0) }) s)
def onBar (x : Ctx) (st : State) (P : BarObj → Bool) : Bool :=
  (x.t.ops.all fun o => match o.acc? with | some a => (match a.place with | .scratch _ => false | _ => true) | none => true) &&
    decide ((x.d (.v 4)).toNat = scratchBase + 16) && Assoc.wf st.threads && isSomeAnd (st.task? 0 16) fun k => decide (16 + 16 ≤ x.k.scratchLen) && !k.spoisoned 16 16 && P (k.barObj 16)
theorem test_wit_BarrierObjects :
    wit (withBar 2 0 (at_ (.binit h0 (.v 4) 65535))) (.binit h0 (.v 4) 65535) (fun x st => onBar x st fun _ => true) = true ∧
    [1, 2].all (fun n => wit (withBar 2 0 (at_ (.barv h0 (.v 8) (.v 4) n))) (.barv h0 (.v 8) (.v 4) n) (fun x st => onBar x st fun o => decide (n ≤ o.arr.toNat))) = true ∧
    [1, 65535].all (fun n => wit (withBar 1 0 (at_ (.bexp h0 (.v 8) (.v 4) n))) (.bexp h0 (.v 8) (.v 4) n) (fun x st =>
      onBar x st fun o => decide (o.arr ≠ 0) && decide (o.pend.toInt + 16 * n < 2 ^ 31))) = true ∧
    wit (withBar 2 0 (at_ (.bwait h0 (.v 8) (.v 4) true))) (.bwait h0 (.v 8) (.v 4) true) (fun x st => onBar x st fun o => o.phase.getLsbD 0 != true) = true ∧
    wit (withBar 2 0 (at_ (.bwait h0 (.v 8) (.v 4) false))) (.bwait h0 (.v 8) (.v 4) false) (fun x st => onBar x st fun o => o.phase.getLsbD 0 == false) = true := by
  decide +kernel

/- ## Convergence registers and the matrix engine -/

/-- Convergence register n as given. -/
def withK (n : Nat) (kr : KReg) (s : State) : State := withTask (fun k => k.setKreg n kr) s
/-- One thread of three has signed with an operation's word. -/
def signed (i : Instr) : KReg := { KReg.reset with count := 3, sigs := [{ thr := 1, op := 9, d := .nil, bearing := true }], opw := opwOf i, opi := some i, opt := 1 }
/-- The other hypotheses of a signature. -/
def signOk (i : Instr) (kn : Nat) (bearing : Bool) (x : Ctx) (st : State) : Bool :=
  isSomeAnd (st.task? 0 16) fun k => decide ((k.kreg kn).count ≠ 0) && decide ((k.kreg kn).sigs.length + 1 ≠ (k.kreg kn).count) &&
    ((k.kreg kn).sigs.all fun g => g.thr != x.r.thr) && (!bearing || (k.kreg kn).opw == 0 || opwOf i == (k.kreg kn).opw) &&
    (!isAllot i || (k.kreg kn).opw == 0 || x.r.thr / 64 == (k.kreg kn).opt / 64)
/-- Words that carry an operation. -/
def bearers : List Instr :=
  [.mload h0 .dm8 false (.v 40) (.v 20) 1 0, .mma h0 false false .dm8 false (.v 40) 0 (.v 30) 1 0,
   .mdrain h0 .f32 .rn false false (.v 40) 0 1 0, .grow h0 (.v 40) (.v 12) 1, .shrink h0 (.v 40) (.v 12) 1]
theorem test_wit_SignaturesJoin :
    [0, 1].all (fun n => wit (at_ (.kset h0 15 (.imm n))) (.kset h0 15 (.imm n)) fun _ st => isSomeAnd (st.task? 0 16) fun k =>
      decide (n ≤ k.nthr) && (k.kreg 15).sigs.isEmpty) = true ∧
    wit (withK 1 { KReg.reset with count := 1, sigs := [{ thr := 1, op := 9, d := .nil, bearing := false }] } (withRegs [(2, 1)] (at_ (.kset h0 1 (.reg (.v 2))))))
      (.kset h0 1 (.reg (.v 2))) (fun x st => isSomeAnd (st.task? 0 16) fun k => decide ((x.w (.v 2)).toNat ≤ k.nthr) && decide ((x.w (.v 2)).toNat = (k.kreg 1).count)) = true ∧
    wit (withK 1 { KReg.reset with count := 2 } (at_ (.ksign h0 (.v 8) 1))) (.ksign h0 (.v 8) 1) (signOk (.ksign h0 (.v 8) 1) 1 false) = true ∧
    bearers.all (fun i => wit (withK 1 { KReg.reset with count := 2 } (at_ i)) i (signOk i 1 true)) = true ∧
    bearers.all (fun i => wit (withK 1 (signed i) (at_ i)) i (signOk i 1 true)) = true := by decide +kernel

/-- Skip buffer 0 with entries large enough for every operation. -/
def qBig : SkipBuf := { SkipBuf.reset with base := 0, esz := 2048, cnt := 2, rsv := 1, pub := 1 }
def qA : SkipBuf := { SkipBuf.reset with base := 65536, esz := 128, cnt := 2, rsv := 1, pub := 1 }
def qO : SkipBuf := { SkipBuf.reset with base := 131072, esz := 512, cnt := 2 }
def kr1 (i : Instr) (vals : List Word) : KReg := { KReg.reset with count := 1, opi := some i, opw := opwOf i, vals := vals, sigs := [{ thr := 0, op := 5, d := .v 40, bearing := true }] }
theorem test_wit_PhasesComplete :
    isSomeAnd ((withTask (fun k => { (((k.setQ 0 qBig).setQ 1 qA).setQ 2 qO) with loaded0 := true, allot := [(0, 640)] }) (at_ (.nop h0))).task? 0 16) (fun k =>
      decide (mloadBad k 16 .dm8 [0, 0, 0, 0] = none) && (engEntries k (.mload h0 .dm8 false (.v 40) (.v 20) 1 0)).isOk && k.loaded false &&
      (engEntries k (.mma h0 false false .dm8 false (.v 40) 0 (.v 30) 1 1)).isOk && (engEntries k (.mdrain h0 .f32 .rn false false (.v 40) 0 1 2)).isOk &&
      (kr1 (.grow h0 (.v 40) (.v 12) 1) [640]).sigs.all (fun g => g.bearing) && decide (32 < Assoc.getD k.allot 0 0)) = true ∧
    isSomeAnd ((withTask (fun k => { k with allot := [(0, 32)] }) (at_ (.nop h0))).task? 0 16) (fun k =>
      decide (Assoc.getD k.allot 0 0 < 640) && decide ((640 - Assoc.getD k.allot 0 0) / 16 ≤ k.slack + (512 - k.units))) = true := by decide +kernel

/-- An operation at the head of a macro's queue, or beside the queues. -/
def engOp (i : Instr) (vals : List Word) (n : Nat) : EngOp :=
  { id := 5, uid := 1, slot := 16, instr := i, vals := vals, opt := 0, pc := 0, sigs := [{ thr := 0, op := 5, d := .v 40, bearing := true }], n := n }
def tile0 : BTile := { fmt := .dm8, src := 0, rstr := 0, cells := [(0, 0x38)], scales := [(0, 0x3F800000)], checks := 0 }
def atHead (o : EngOp) (b : SkipBuf) : State :=
  withTask (fun k => { (k.setQ 0 { b with take := [newEntry 5 1 false] }) with mt0 := some tile0 })
    ((at_ (.nop h0)).updCore 0 fun c => { c with mac0 := { c.mac0 with queue := [o] } })
def headOk (s : State) (o : EngOp) : Bool :=
  decide (((s.core 0).mac false).queue.head? = some o) && !((s.core 0).mac false).fail && isSomeAnd (s.task? 0 16) fun k => decide (k.uid = o.uid) && decide (k.frozen = none) && !s.refetching 0 o.uid false &&
    takeServed (k.q 0) o && !k.entryPoison (k.q 0) (k.q 0).crs.toNat o.n && !k.spoisoned (o.vals.getD 3 0).toNat 1024
theorem test_wit_MacrosLoadAndMultiply :
    headOk (atHead (engOp (.mload h0 .dm8 false (.v 40) (.v 20) 1 0) [0, 0, 0, 0] 1) qBig) (engOp (.mload h0 .dm8 false (.v 40) (.v 20) 1 0) [0, 0, 0, 0] 1) = true ∧
    ([.mma h0 false false .dm8 false (.v 40) 0 (.v 30) 1 0, .mma h0 true true .i8 false (.v 40) 3 (.v 30) 1 0] : List Instr).all (fun i =>
      let s := withTask (fun k => { k with mt0 := some { tile0 with fmt := match i with | .mma _ _ true .. => .i8 | _ => .dm8 } }) (atHead (engOp i [0x3F800000] 1) qA)
      headOk s (engOp i [0x3F800000] 1) && isSomeAnd (s.task? 0 16) fun k => !earlierTile (s.core 0) k 5 (3, 1) &&
        isSomeAnd (k.mt false) fun t => !s.mustRefetch 0 false k t && (match i with | .mma _ _ im f .. => !im || intModeOk f t.fmt | _ => false)) = true := by decide +kernel
theorem test_wit_DrainsClearsAndReads :
    ([.mzero h0 0 7, .mstatState h0 (.v 8) false, .mstatPasses h0 (.v 8) true, .mstatCanary h0 (.v 8) false, .mstatChecks h0 (.v 8) true] : List Instr).all (fun i =>
      ready i && (let u := run1 (at_ i) i
        isSomeAnd (u.task? 0 16) fun k => isSomeAnd k.drains.head? fun o => decide (o.instr = i) && isSomeAnd (u.thread? r0) fun t => t.ops.any fun e => e.id == o.id)) = true ∧
    (let o := engOp (.mdrain h0 .f32 .rn false true (.v 40) 3 1 0) [] 1
     let s := withTask (fun k => { (k.setQ 0 { qO with resv := [newEntry 5 1 false] }) with drains := [o] }) (withThr (fun t => { t with ops := [mkOp 5 (.nop h0) 0 true (.engine [.v 40])] }) (at_ (.nop h0)))
     isSomeAnd (s.task? 0 16) fun k => decide (k.drains.find? (fun x => x.id == 5) = some o) && decide (k.frozen = none) &&
       isSomeAnd (firstWaiting (k.q 0).resv) (fun x => decide (x.id = 5)) && decide (1 ≤ (k.q 0).room) && !earlierTile (s.core 0) k 5 (3, 1) &&
       (match engEntries k o.instr with | .ok n => decide (n = 1) | _ => false) && decide ((k.q 0).rsv.toNat + 1 ≤ 2 ^ 32) && decide (o.sigs = [{ thr := 0, op := 5, d := .v 40, bearing := true }]) &&
       isSomeAnd (s.thread? r0) fun t => t.ops.any fun e => e.id == 5) = true := by
  decide +kernel
def allotOp (v : Nat) (grow : Bool) : AllotOp := { uid := 1, slot := 16, crew := 0, v := v, grow := grow, sigs := [{ thr := 0, op := 0, d := .v 40, bearing := true }] }
theorem test_wit_AllotmentsChange :
    (let s := withTask (fun k => { k with allot := [(0, 32)] }) ((at_ (.nop h0)).updCore 0 fun c => { c with grants := [allotOp 640 true] })
     decide ((s.core 0).grants.find? (fun g => g.grow) = some (allotOp 640 true)) && isSomeAnd (s.task? 0 16) fun k =>
       decide (k.uid = 1) && decide (k.frozen = none) && (allotOp 640 true).sigs.all Sig.waits &&
       decide (Assoc.getD k.allot 0 0 < 640) && decide ((640 - Assoc.getD k.allot 0 0) / 16 ≤ k.slack + s.freePool 0)) = true ∧
    (let s := (at_ (.nop h0)).updCore 0 fun c => { c with grants := [allotOp 32 false] }
     isSomeAnd (s.task? 0 16) fun k => (allotOp 32 false).sigs.all Sig.waits && k.frozen.isNone && !s.shrinkBusy 0 k (allotOp 32 false) &&
       decide (32 < Assoc.getD k.allot 0 0)) = true := by decide +kernel

/- ## Phases and the vein -/

/-- Domain slot 1: NN 1, ALW 0, its neighbour chip 1, reachable or lost. -/
def withDomain (st : PeerSt) (s : State) : State :=
  { s with regs := { s.regs with pdcfg := [(1, 0x80010000)], pdnbr := [(2, 1)] }
           fab := { s.fab with peers := [(1, { st := st, inc := 0, since := 0, oseqOut := 0, oseqIn := 0, pend := [] })] } }
def phnIs (v : Word) (s : State) : State := s.setPhase 1 { ph := 0, phn := [(0, v)] }
def behind1 (s : State) : Bool :=
  decide (s.peerSt (s.pdNbr 1 0) ≠ .lost) &&
    decide (2 ^ 31 ≤ (Assoc.getD (s.phase 1).phn 0 0 + BitVec.ofNat 32 (s.pdAlw 1) - ((s.phase 1).ph + 1)).toNat)
/-- A saved task whose thread waits in a phase slot. -/
def withSavedWait (w : Wait) (s : State) : State :=
  { s with agents := { s.agents with saved := [(80, { task := { Task.reset 2 4 1 0 2 placedHdr 0 with nthr := 1 }, threads := [(0, { placedThread with wait := w })], macOps := [], grants := [] })] } }
theorem test_wit_PhasesAdvance :
    wit (withDomain .reachable (at_ (.phadv h0 (.v 40) 1))) (.phadv h0 (.v 40) 1) (fun _ st => st.pdEn 1) = true ∧
    wit (withDomain .reachable (at_ (.phwait h0 (.v 40) (.v 8) 1 0))) (.phwait h0 (.v 40) (.v 8) 1 0) (fun _ st => st.pdEn 1 && decide (0 < st.pdNn 1)) = true ∧
    (let s := withThr (fun t => { t with wait := .phadv 1 (.v 40) }) (withDomain .reachable (at_ (.nop h0)))
     let l := withThr (fun t => { t with wait := .phadv 1 (.v 40) }) (withDomain .lost (at_ (.nop h0)))
     (s.task? 0 16).isSome && isSomeAnd (s.thread? r0) (fun t => decide (t.wait = .phadv 1 (.v 40))) && isSomeAnd (s.task? 0 16) (fun k => !s.writesUnsent k) && s.pdEn 1 && decide (s.pdNn 1 = 1) && behind1 s &&
       !behind1 (phnIs 1 s) && !behind1 l) = true ∧
    (let s := withDomain .reachable (at_ (.nop h0))
     decide ((Assoc.getD ((phnIs 5 s).phase 1).phn 0 0 - 5).toNat < 2 ^ 31) && decide (2 ^ 31 ≤ (Assoc.getD (s.phase 1).phn 0 0 - (1 : Word)).toNat) &&
       decide (s.peerSt (s.pdNbr 1 0) ≠ .lost) && decide ((withDomain .lost s).peerSt ((withDomain .lost s).pdNbr 1 0) = .lost) && decide (s.pdNbr 1 0 = 1)) = true := by
  decide +kernel
/-- A slot that is not enabled, and one to disable, with waits of a thread and of a saved task's. -/
theorem test_wit_PhasesAdvance_disabled :
    (let s := withSavedWait (.phwait 1 0 5 (.v 40)) (withThr (fun t => { t with wait := .phadv 1 (.v 40) }) (withDomain .reachable (at_ (.nop h0))))
     (s.task? 0 16).isSome && (s.thread? r0).isSome && !s.pdEn 0 && Assoc.wf s.threads && decide ((0x00010000 : Word).getLsbD 31 = false) &&
       isSomeAnd (s.thread? r0) (fun t => decide (t.wait = .phadv 1 (.v 40))) && isSomeAnd s.agents.saved.head? fun e => isSomeAnd e.2.threads.head? fun x =>
         decide (x.2.wait = .phwait 1 0 5 (.v 40))) = true := by decide +kernel

/-- A vein set of ranks 0 and 1, this chip's rank 0, in slot 0. -/
def vset : VeinSet :=
  { VeinSet.make (fun _ _ => 0) [(0, 0, 0, 0), (1, 1, 0, 0)] 0 with vsid := 7, asid := 3, segb := 2 ^ 32, segl := 2 ^ 30, rots := 64, rott := 10 }
def withV (v : VeinSet) (s : State) : State := { s with veins := [(0, v)] }
def upd (kind slot : Nat) : VUpdate :=
  { vsid := 7, epoch := 0, kind := kind, rank := 1, wg := false, seq := 1, slot := slot, dep := List.replicate 16 0, sectors := [(4, List.replicate 32 9)], packets := 1, whole := true }
/-- A packet of rank 1. -/
def pkt (kind seq : Nat) : VPacket :=
  { vsid := 7, epoch := 0, kind := kind, rank := 1, wg := false, last := true, seq := seq, slot := 0, dep := List.replicate 16 0, sectors := [(4, List.replicate 32 9)] }
/-- The placed thread's strong operation 5. -/
def strongOp : Op := { mkOp 5 (.nop h0) 0 true (.strong { va := 2 ^ 32, n := 4, place := .glob, write := false, read := true, ord := .rlx, scope := .chip, hint := 0 } [1, 0, 0, 0] none false 0 0 (some (.v 8))) with closed := false }
def withOp (o : Op) (s : State) : State := withThr (fun t => { t with ops := [o] }) s
/-- The sets the statements are about wait for nothing by themselves. -/
theorem test_wit_calm : vset.calm ∧ ({ vset with sump := [upd 0 0] } : VeinSet).calm ∧ ({ vset with sweep := some [(0, 0)] } : VeinSet).calm ∧
    ({ ({ vset with joining := some (r0, 5) } : VeinSet) with joining := none } : VeinSet).calm := by
  unfold VeinSet.calm; decide +kernel
theorem test_wit_VeinUpdatesAndSlots :
    (let s := withV vset (at_ (.nop h0))
     decide (s.veins.find? (fun e => e.2.vsid == (pkt 0 1).vsid) = some (0, vset)) && decide (Assoc.find? s.veins 0 = some vset) && vset.accepts (pkt 0 1) &&
       decide (vset.appl.getD 1 0 < 1) && vset.accepts (pkt 2 3) && vset.sump.isEmpty) = true ∧
    (let u := { upd 0 0 with whole := false }
     ({ vset with sump := [u] } : VeinSet).sump = [u] ∧ u.whole = false ∧ u.rank = (pkt 0 1).rank ∧ u.seq = (pkt 0 1).seq ∧ u.wg = (pkt 0 1).wg) ∧
    (let v := { vset with sump := [upd 0 0] }
     decide (v.firstAppliable = some (upd 0 0)) && decide (v.sweep = none) && decide (v.cuts = []) &&
       decide (((upd 0 0).sectors.map Prod.fst).Nodup) && ((upd 0 0).sectors.all fun e => e.2.length == 32)) = true ∧
    ((vset.frozen = [] ∧ vset.banksman = vset.rank ∧ vset.assigned + 1 < vset.rots) ∧ ({ vset with banksman := 1 } : VeinSet).banksman ≠ vset.rank ∧
      ({ vset with frozen := [1] } : VeinSet).frozen ≠ [] ∧ (64 ≤ ({ vset with assigned := 63 } : VeinSet).assigned + 1 ∧ 1 < vset.members.length)) ∧
    (let g : StrongOp := { ref := r0, op := 5, slot := some 0, performed := true, acks := [1], requested := true }
     let s := withV { vset with strongs := [g] } (withOp strongOp (at_ (.nop h0)))
     isSomeAnd (s.thread? g.ref) (fun t => decide (t.ops.find? (fun o => o.id == 5) = some strongOp)) && decide (g.slot = some 0)) = true ∧
    (1 ≠ vset.applSlot ∧ vset.voids.contains vset.applSlot = false ∧ vset.strongs = []) := by decide +kernel
theorem test_wit_SweepsAndForms :
    (let v := { vset with banksman := 1 }
     v.sweep = none ∧ v.sweepSlot = none ∧ 0 = v.applSlot ∧ v.banksman ≠ v.rank ∧ 1 < v.members.length ∧
       (v.ranks.all fun r => ((v.rank, v.appl.getD v.rank 0) :: v.early.filter fun x => x.1 != v.rank).any fun n => n.1 == r && decide (n.2 ≤ v.appl.getD r 0)) = false) ∧
    (let cut := fun (seq : Nat) => vset.ranks.all fun r => ([(0, 0), (1, seq)] : List (Nat × Nat)).any fun (n : Nat × Nat) => n.1 == r && decide (n.2 ≤ vset.appl.getD r 0)
     cut 0 && !cut 3) = true ∧ vset.sweep = none ∧
    (let o : Op := { strongOp with kind := .engine [.v 40] }
     let v := { vset with forming := some (0, r0, 5), desc := [7] }
     let s := withV v (withOp o (at_ (.nop h0)))
     let hd : FabHdr := { tinc := 0, tgt := 0, src := 1, asid := 0, cls := 1, vc := 5, kind := 1, nflit := 1, oseq := 0, addr := 0, rest := 0, via := .die, msg := .form 7 1 [7] }
     s.up && decide (hd.tgt = s.chip.toNat) && !FabHdr.bad hd s.inc.toNat && !s.fab.frozenPeers.contains (hd.src, hd.asid) && decide (hd.msg = .form v.vsid 1 v.desc) &&
       decide (s.veins.find? (fun e => e.2.vsid == v.vsid) = some (0, v)) && (v.ranks.all fun x => x == 1 || x == v.rank) &&
       Assoc.wf s.threads && decide ((s.threadsOf 0 16).map Prod.fst = [0]) && isSomeAnd (s.thread? r0) fun t =>
         isSomeAnd (t.ops.find? fun o => o.id == 5) fun o => decide (o.kind = .engine [.v 40])) = true := by decide +kernel

/-- Bytes of the mapped page at 0x20000, from an offset. -/
def withBytes (off : Nat) (bs : List Byte) (s : State) : State := { s with mem := Memory.writeN s.mem (hbmKey 0 (0x30000 + off)) bs }
/-- A VMEMB descriptor: RANK, BANKSMAN, MEMB, ROTS and ROTT, and the second member's chip. -/
def vDesc (rank bank memb rots rott chip1 : Nat) : List Byte :=
  leBytes 8 (2 ^ 32) ++ leBytes 8 (2 ^ 30) ++ leBytes 2 7 ++ leBytes 2 3 ++ [BitVec.ofNat 8 rank, BitVec.ofNat 8 bank] ++ leBytes 2 memb ++ leBytes 2 rots ++
    leBytes 2 rott ++ leBytes 4 0 ++ leBytes 2 0 ++ leBytes 2 chip1
def atDesc (bs : List Byte) (i : Instr) : State := withBytes 0x100 bs (atVa 0x20100 i)
def onDesc (x : Ctx) (st : State) (P : (Nat → Nat → Nat) → Bool) : Bool :=
  !x.t.ops.any Op.openStore && isSomeAnd (st.localBytes x.k (x.d (.v 4)).toNat 128) fun bs => P (rdBytes bs)
theorem test_wit_VmembWords_made :
    wit (atVa 0x50000 (.vmembForm h0 (.v 40) (.v 4) 0)) (.vmembForm h0 (.v 40) (.v 4) 0) (fun x st => decide (st.localBytes x.k (x.d (.v 4)).toNat 128 = none)) = true ∧
    wit (atDesc (vDesc 0 0 1 64 51 0) (.vmembForm h0 (.v 40) (.v 4) 0)) (.vmembForm h0 (.v 40) (.v 4) 0)
      (fun x st => onDesc x st fun f => decide (formBad st 0 f = some 0x1A)) = true ∧
    wit (atDesc (vDesc 0 1 0 0 0 0) (.vmembJoin h0 (.v 40) (.v 4) 0)) (.vmembJoin h0 (.v 40) (.v 4) 0)
      (fun x st => onDesc x st fun f => decide (joinBad st 0 f = some 0x15)) = true ∧
    wit (atDesc (vDesc 0 0 1 64 10 0) (.vmembForm h0 (.v 40) (.v 4) 0)) (.vmembForm h0 (.v 40) (.v 4) 0)
      (fun x st => onDesc x st fun f => decide (formBad st 0 f = none) && decide (st.staleRank (formMembers f) = none) && decide ((formMembers f).length = 1)) = true ∧
    wit (atDesc (vDesc 0 1 3 1024 50 1) (.vmembForm h0 (.v 40) (.v 4) 0)) (.vmembForm h0 (.v 40) (.v 4) 0)
      (fun x st => onDesc x st fun f => decide (formBad st 0 f = none) && decide (st.staleRank (formMembers f) = none) && decide ((formMembers f).length = 2)) = true ∧
    wit (atDesc (vDesc 15 0 0 0 0 0) (.vmembJoin h0 (.v 40) (.v 4) 0)) (.vmembJoin h0 (.v 40) (.v 4) 0) (fun x st => onDesc x st fun f => decide (joinBad st 0 f = none)) = true := by
  decide +kernel
theorem test_wit_VmembWords_named :
    wit (withV vset (atDesc (vDesc 0 0 0 0 0 0) (.vmembLeave h0 (.v 40) (.v 4) 0))) (.vmembLeave h0 (.v 40) (.v 4) 0)
      (fun x st => onDesc x st fun f => decide (namedBad (Assoc.find? st.veins 0) f false false = none) && !st.tasks.any (fun e => e.2.asid == f 0x12 2 && decide (e.1 % 32 < 16))) = true ∧
    wit (withV vset (atDesc (vDesc 0 0 2 0 0 0) (.vmembEvict h0 (.v 40) (.v 4) 0))) (.vmembEvict h0 (.v 40) (.v 4) 0)
      (fun x st => onDesc x st fun f => decide (namedBad (Assoc.find? st.veins 0) f true false = none) && !(f 0x16 2).testBit 0 && (f 0x16 2).testBit 1) = true ∧
    wit (withV vset (at_ (.vmembQuery h0 (.v 40) 0))) (.vmembQuery h0 (.v 40) 0) (fun _ st => isSomeAnd (Assoc.find? st.veins 0) fun v => v.forming.isNone && v.joining.isNone) = true ∧
    (vset.strongs = [] ∧ vset.frozen = [] ∧ vset.sweep = none ∧ vset.sweepSlot = none) ∧
    wit (withV vset (atDesc (vDesc 0 0 0 1 50 0) (.vmembRot h0 (.v 40) (.v 4) 0))) (.vmembRot h0 (.v 40) (.v 4) 0)
      (fun x st => onDesc x st fun f => decide (namedBad (Assoc.find? st.veins 0) f false true = none)) = true := by decide +kernel
/-- A join's end for the joiner: code, and this chip's slot otherwise. -/
def vjoin (code rank : Nat) : VJoin :=
  { code := code, detail := 0, rank := rank, chip := 2, inc := 0, members := [(0, 0, 0, 0), (1, 1, 0, 0)], epoch := 1, banksman := 1, nextSlot := 0, applSlot := 0,
    rots := 64, rott := 10, wg := false, appl := List.replicate 16 0, cells := [(5, 9)], stamps := [] }
/-- The placed thread's operation 5 waits for the set. -/
def onSet (v : VeinSet) : State := withV v (withOp { strongOp with kind := .engine [.v 40] } (at_ (.nop h0)))
theorem test_wit_MembershipChanges :
    ([1].contains vset.rank = false ∧ vset.sump = [] ∧ vset.sweep = none ∧ vset.evicts = [] ∧ vset.cuts = [] ∧ vset.reqs = []) ∧
    ([0].contains vset.rank = true ∧ vset.strongs = []) ∧
    (1 < vset.members.length ∧ ({ vset with lagSince := some 3 } : VeinSet).lagSince = some 3 ∧ 1 ≠ vset.rank ∧ 1 ∈ vset.ranks ∧ vset.banksman = vset.rank) ∧
    (let v := { vset with members := vset.members ++ [(2, 2, 0, 0)] }
     ∃ x ∈ v.ranks, x ≠ v.rank ∧ x ≠ 1) ∧
    ((vjoin 3 2).code ≠ 0 ∧ (vjoin 3 2).code < 128 ∧ (vjoin 0 2).code = 0 ∧ ((vjoin 0 2).cells.map Prod.fst).Nodup ∧ vset.joining = none ∧ (vjoin 0 2).rank ∉ vset.ranks ∧
      ({ vset with sweepDue := true, sweepSlot := some 4 } : VeinSet).sweepSlot.isSome) ∧
    ([{ vset with joining := some (r0, 5) }, { vset with forming := some (0, r0, 5) }] : List VeinSet).all (fun v => decide (v.streamed = false) &&
      decide (v.joining = some (r0, 5) ∨ v.forming = some (0, r0, 5)) && decide (Assoc.find? (onSet v).veins 0 = some v) && Assoc.wf (onSet v).threads &&
      decide (((onSet v).threadsOf 0 16).map Prod.fst = [0]) && isSomeAnd ((onSet v).thread? r0) fun t => isSomeAnd (t.ops.find? fun o => o.id == 5) fun o =>
        decide (o.kind = .engine [.v 40])) = true := by decide +kernel

/- ## The assay -/

/-- The digest of "abc" that the standard prints as its first example. -/
theorem test_sm3_abc : Sm3.digest [0x61, 0x62, 0x63] =
    [0x66, 0xc7, 0xf0, 0xf4, 0x62, 0xee, 0xed, 0xd9, 0xd1, 0xf2, 0xd4, 0x6b, 0xdc, 0x10, 0xe4, 0xe2,
     0x41, 0x67, 0xc4, 0x87, 0x5c, 0xf2, 0xf7, 0xa2, 0x29, 0x7d, 0xa0, 0x2b, 0x8f, 0x4b, 0xa8, 0xe0] := by decide +kernel

/-- Region 0 of context 0, enabled, with one line named 9 in line 2 and one root slot. -/
def withRegion (g : Region) (s : State) : State :=
  { s with regs := { s.regs with acfg := [(0, BitVec.ofNat 64 (2 ^ 63 + 4 * 2 ^ 30))], aroot := [(0, 0x10000)] }, regions := [(0, g)] }
def line9 (count : Nat) : ALine := { name := 9, node := false, count := count, live := true, kids := [] }
def reg9 (count : Nat) : Region := { lines := [(2, line9 count)], roots := [], collide := 0 }
/-- A word about name 9, in v4 to v7. -/
def atName (count : Nat) (i : Instr) : State := withRegs [(4, 9), (8, 0)] (withRegion (reg9 count) (at_ i))
def mayI (x : Ctx) (pre : State → Machine.Task → Run → List (Nat × Thread) → Bool) : Bool := isSomeAnd x.s.curRun fun e => pre x.s x.k e.2 [(x.r.thr, x.t)]
def arOk (x : Ctx) : Bool := mayI x arPre && mayI x rdPre
def find9 (st : State) : Bool := isSomeAnd ((st.region 0).find 9) fun e => decide (Assoc.find? (st.region 0).lines e.1 = some e.2)
theorem test_wit_AssayWords_counts :
    [0, 1, -1, -32768, 32767].all (fun delta => [1, 40000, 2 ^ 32 - 1].all fun c =>
      wit (atName c (.aref h0 (.v 40) (.v 4) (BitVec.ofInt 16 delta))) (.aref h0 (.v 40) (.v 4) (BitVec.ofInt 16 delta))
        fun x st => arOk x && decide (st.regionOf x.k.asid = some 0) && find9 st) = true ∧
    wit (withRegion (reg9 1) (at_ (.aref h0 (.v 40) (.v 4) 1))) (.aref h0 (.v 40) (.v 4) 1) (fun x st => arOk x && ((st.region 0).find 0).isNone) = true ∧
    wit (at_ (.aref h0 (.v 40) (.v 4) 0)) (.aref h0 (.v 40) (.v 4) 0) (fun x st => (st.regionOf x.k.asid).isNone) = true := by decide +kernel
theorem test_wit_AssayWords_reads :
    ([.aldSec h0 (.v 32) (.v 4) 7, .aldAddr h0 (.v 40) (.v 4), .astatCount h0 (.v 40) (.v 4), .astatFree h0 (.v 40), .astatUsed h0 (.v 40), .astatPend h0 (.v 40),
      .astatCollide h0 (.v 40)] : List Instr).all (fun i => wit (atName 3 i) i fun x st => mayI x rdPre && decide (st.regionOf x.k.asid = some 0) &&
        !st.poisoned (assayKey 0 (256 * 2 + 32 * 7)) 32) = true ∧
    wit (atName 3 (.astatRoot h0 (.v 40) (.v 8))) (.astatRoot h0 (.v 40) (.v 8)) (fun x st => mayI x rdPre && decide ((x.w (.v 8)).toNat < st.rootN 0)) = true ∧
    wit (atName 3 (.astatRoot h0 (.v 40) (.v 4))) (.astatRoot h0 (.v 40) (.v 4)) (fun x st => mayI x rdPre && decide (st.rootN 0 ≤ (x.w (.v 4)).toNat)) = true := by decide +kernel
/-- ASWAP: a slot out of range, an expected name that differs, a name that is not live, the null name and a live one. -/
theorem test_wit_AssayWords_swap :
    ([.aswapCas h0 (.v 48) (.v 24) (.v 8), .aswapSwap h0 (.v 48) (.v 24) (.v 8)] : List Instr).all (fun i =>
      wit (withRegs [(8, 1), (24, 9)] (atName 3 i)) i (fun x st => arOk x && decide (st.rootN 0 ≤ (x.w (.v 8)).toNat)) &&
      wit (withRegs [(24, 9)] (atName 3 i)) i (fun x st => arOk x && decide ((x.w (.v 8)).toNat < st.rootN 0) && find9 st) &&
      wit (withRegs [(24, 8)] (atName 3 i)) i (fun x st => arOk x && ((st.region 0).find 8).isNone) &&
      wit (withRegs [(24, 0)] (atName 3 i)) i (fun x st => arOk x && decide ((x.w (.v 8)).toNat < st.rootN 0))) = true := by decide +kernel
theorem test_wit_AssayWords_copies :
    ([.alook h0 false (.v 48) (.v 4) (.v 12) none, .aname h0 true (.v 48) (.v 4) (.v 12)] : List Instr).all (fun i =>
      wit (atVa 0x20100 i |> withRegion (reg9 1)) i fun x st =>
        decide (st.regionOf x.k.asid = some 0) && assayPre (.v 4) .none (match i with | .alook .. => true | _ => false) false x.s x.k (((x.s.curRun).map Prod.snd).getD
          { core := 0, slot := 0, members := [], pc := 0, len := 0, conv := false }) [(x.r.thr, x.t)] &&
        decide (assayBad x.k (assayAddr x (.v 4) .none) .none = none) && assayServed x h0 (.v 4) .none &&
        rangeClaimed x (((x.d (.v 4)).toNat : Int), ((x.d (.v 4)).toNat : Int) + 256) false &&
        decide ((match i with | .alook .. => st.commit x.r | _ => st).assayFault x.k.asid (x.d (.v 4)).toNat false = none) && (st.task? 0 16).isSome) = true ∧
    wit (withRegs [(12, 9)] (atVa 0x20100 (.aout h0 (.v 48) (.v 4) (.v 12) none) |> withRegion (reg9 1))) (.aout h0 (.v 48) (.v 4) (.v 12) none) (fun x st =>
        assayPre (.v 4) .none false true x.s x.k (((x.s.curRun).map Prod.snd).getD { core := 0, slot := 0, members := [], pc := 0, len := 0, conv := false }) [(x.r.thr, x.t)] &&
        decide (assayBad x.k (assayAddr x (.v 4) .none) .none = none) && assayServed x h0 (.v 4) .none && find9 st &&
        rangeClaimed x (((x.d (.v 4)).toNat : Int), ((x.d (.v 4)).toNat : Int) + 256) true &&
        decide (st.assayFault x.k.asid (x.d (.v 4)).toNat true = none) && (st.task? 0 16).isSome) = true := by decide +kernel

/-- 256 bytes of ones and their name under a salt of zeros: the first 16 bytes of the published digest of 32 zeros and the
bytes, worked outside the model (R345). -/
def ones : List Byte := List.replicate 256 1
def onesName : Nat := 0x320B54DC5E0805986A0FF437C2F7D4E8
theorem test_name_of_ones : (withRegion Region.reset (at_ (.nop h0))).nameOf 0 ones = onesName := by decide +kernel
/-- A name depends on the salt alone. -/
theorem nameOf_of_regs (s t : State) (n : Nat) (c : List Byte) (h : s.regs = t.regs) : s.nameOf n c = t.nameOf n c := by simp [State.nameOf, State.salt, h]
/-- A region that holds the bytes under their name, or zeros under it. -/
def withOnes (put : Bool) (s : State) : State :=
  let s1 := withRegion { lines := [(2, { (line9 1) with name := onesName })], roots := [], collide := 0 } s
  if put then { s1 with mem := s1.mem ++ (List.range 256).map fun i => (assayKey 0 (512 + i), 1) } else s1
theorem test_wit_AssaySteps_found :
    (let s := withOnes true (at_ (.nop h0))
     decide (onesName ≠ 0) && !s.linePoison 0 2 && decide (s.lineBytes 0 2 = ones) && Memory.wf s.mem &&
       isSomeAnd ((s.region 0).find onesName) fun e => decide (e.1 = 2) && decide (e.2.node = false)) = true ∧
    (let s := withOnes false (at_ (.nop h0))
     decide (s.lineBytes 0 2 ≠ ones) && isSomeAnd ((s.region 0).find onesName) fun e => decide (e.1 = 2)) = true := by decide +kernel
theorem test_wit_AssaySteps_fresh :
    (let s := withRegion { lines := [], roots := [], collide := 0 } (at_ (.nop h0))
     ((s.region 0).find onesName).isNone && (s.freeLine 0).isSome && decide ((s.region 0).missingChild ones = some 0)) = true := by decide +kernel
/-- A line being reclaimed, with a child still to give up, and with none; a region slot to enable and one to disable. -/
theorem test_wit_AssaySteps_rest :
    (let g : Region := { lines := [(2, { (line9 0) with live := false, kids := [3] }), (3, line9 2), (4, { (line9 0) with live := false })], roots := [], collide := 0 }
     let s := withRegion g (at_ (.nop h0))
     isSomeAnd (Assoc.find? (s.region 0).lines 2) (fun l => !l.live && decide (l.kids = 3 :: [])) && isSomeAnd (Assoc.find? (s.region 0).lines 3) (fun c => decide (1 < c.count ∧ c.count ≠ 2 ^ 32 - 1)) &&
       isSomeAnd (Assoc.find? (s.region 0).lines 4) (fun l => !l.live && l.kids.isEmpty)) = true ∧
    (let v : DWord := BitVec.ofNat 64 (2 ^ 63 + 4 * 2 ^ 30 + 1)
     acfgEn v && (at_ (.nop h0)).regionOk 0 v && !acfgEn 0 && acfgEn ((withRegion (reg9 1) (at_ (.nop h0))).acfg 0) &&
       !(withRegion (reg9 1) (at_ (.nop h0))).assayBusy 0) = true := by decide +kernel

/- ## Queues and launches -/

/-- Queue 0 of a context, its ring of 4096 bytes at 0x28000, in the entry cache. -/
def qent (asid : Nat) (dev : Bool) : QEntry :=
  { rbase := 0x28000, logsz := 12, prio := 3, en := true, halt := false, dev := dev, hcode := 0, asid := asid, nonce := 5, wpa := 0x20300, wptr := 0, rptr := 0, rpa := 0,
    wakes := 0, badw := 0, nlau := 0, served := 0 }
/-- The tables of context 0 serve context 1 too. -/
def withQueue (e : QEntry) (s : State) : State :=
  { s with regs := { s.regs with qtab := BitVec.ofNat 64 (2 ^ 63 + 2 ^ 62) }, agents := { s.agents with cache := [(0, e)] }
           mem := Memory.writeN s.mem (hbmKey 0 64) (leBytes 8 (placedTables + 1)) }
/-- A good launch header: one role, one crew of 32 registers, one task of one thread. -/
def goodHdr (csig : Nat) : List Byte :=
  leBytes 8 0x20000 ++ leBytes 24 0 ++ (List.range 6).flatMap (fun _ => leBytes 8 1) ++ leBytes 8 (32 * 2 ^ 16 + 1) ++ leBytes 8 (2 + 2 ^ 9) ++ leBytes 4 4096 ++
    leBytes 20 0 ++ leBytes 8 csig ++ leBytes 160 0
def launchOk (x : Ctx) (st : State) (P : State → QEntry → Bool) : Bool :=
  x.s.mayCommit x.k x.t && x.s.ringReady x.k 1 && decide ((x.d (.v 4)).toNat % 8 = 0) && x.s.hdrReady x.k x (x.d (.v 4)).toNat &&
    ((List.range 36).all fun j => okAt x ((x.d (.v 4)).toNat + 8 * j) 8 false) &&
    isSomeAnd ((st.commit x.r).task? x.r.core x.r.slot) fun k => (match (st.commit x.r).readHdr k x (x.d (.v 4)).toNat with | .got _ false => true | _ => false) &&
      isSomeAnd ((st.commit x.r).devQueue k.asid) fun e => P (st.commit x.r) e.2
theorem test_wit_LaunchPutsAPacket :
    ready (.launch h0 true (.v 40) (.v 4)) = true ∧
    ((withQueue { (qent 0 true) with rbase := 0x50000 } (at_ (.nop h0))).ringPut 0 { (qent 0 true) with rbase := 0x50000 } 0 []).isNone = true ∧
    wit (withQueue (qent 0 true) (atVa 0x20400 (.launch h0 false (.v 40) (.v 4)))) (.launch h0 false (.v 40) (.v 4)) (fun x st =>
      launchOk x st fun _ e => !e.halt && decide (320 ≤ 4096 - e.fill)) = true ∧
    wit (atVa 0x20400 (.launch h0 false (.v 40) (.v 4))) (.launch h0 false (.v 40) (.v 4)) (fun x st => ((st.commit x.r).devQueue x.k.asid).isNone) = true := by decide +kernel
/-- A halted queue, and one with no room. -/
theorem test_wit_LaunchPutsAPacket_full :
    ([{ (qent 0 true) with wptr := 3840 }, { (qent 0 true) with halt := true }] : List QEntry).all (fun q =>
      wit (withQueue q (atVa 0x20400 (.launch h0 false (.v 40) (.v 4)))) (.launch h0 false (.v 40) (.v 4)) fun x st =>
        launchOk x st fun _ e => e.halt || decide (4096 - e.fill < 256 + 320)) = true := by decide +kernel
/-- The packet can be put at the ring's start, and after a pad where it would pass the ring's end. -/
theorem test_wit_LaunchPutsAPacket_put :
    ((withQueue (qent 0 true) (at_ (.nop h0))).ringPut 0 (qent 0 true) 0 []).isSome = true ∧
    (4096 < 3840 + 320 ∧ ((withQueue (qent 0 true) (at_ (.nop h0))).ringPut 0 { (qent 0 true) with wptr := 3840, rptr := 3840 } 256 []).isSome = true) := by decide +kernel
/-- A packet at the head of queue 0 of context 1: a bad length, a pad, a launch with a good header and with a bad one. -/
def packet (w : Nat) (hdr : List Byte) (len : Nat) : State :=
  let s := withQueue { (qent 1 false) with wptr := len } (at_ (.nop h0))
  { s with mem := s.mem ++ (leBytes 32 w ++ hdr).zipIdx.filterMap fun b => if b.1 = 0 then none else some (hbmKey 0 (0x38000 + b.2), b.1) }
theorem test_wit_PacketsBecomeLaunches :
    isSomeAnd (packet 0x001 [] 64).nextQueue (fun n => decide ((packet 0x001 [] 64).packetAt n.2 = .halt 2)) = true ∧
    isSomeAnd (packet 0x102 [] 64).nextQueue (fun n => decide ((packet 0x102 [] 64).packetAt n.2 = .pad 64) && decide (n.2.rpa = 0)) = true := by decide +kernel
/-- Room in the entry cache's set, and none. -/
def roomFor (s : State) (n : Nat) : Bool := decide ((s.agents.cache.filter fun e => e.1 % 512 == n % 512 && e.1 != n).length < 8)
theorem test_wit_PacketsBecomeLaunches_room : roomFor (packet 0x001 [] 64) 0 = true ∧
    (let s := packet 0x001 [] 64
     let f := { s with agents := { s.agents with cache := s.agents.cache ++ (List.range 8).map fun i => (512 * (i + 1), { (qent 1 false) with en := false }) } }
     roomFor f 0 = false ∧ isSomeAnd f.nextQueue (fun n => n.1 == 0 && decide (f.packetAt n.2 = .halt 2)) = true ∧
       (match f.translate 0 (f.qtabBase + 256 * 512) .w with | .ok .. => true | _ => false) = true) := by decide +kernel
/-- A packet's body, read in order, is the header it was made of. -/
def bodyIs (hdr : List Byte) : Bool :=
  let s := packet 0x501 hdr 320
  isSomeAnd s.nextQueue fun n => decide (s.packetAt n.2 = .launch) && decide (n.2.rpa = 0) && decide (s.devBytes 1 (n.2.addr n.2.rptr + 32) 288 = some hdr)
theorem test_wit_PacketsBecomeLaunches_launch : bodyIs (goodHdr 0x20308) = true := by decide +kernel
/-- Headers that name no header word, and an absent page. -/
def badHdr : List Byte := leBytes 8 0x20010 ++ (goodHdr 0).drop 8
def absHdr : List Byte := leBytes 8 0x50000 ++ (goodHdr 0).drop 8
/-- The agent's reads wait for nothing, and each code page is present, or absent. -/
def hdrAt (hdr : List Byte) (absent : Bool) : Bool :=
  let s := packet 0x501 [] 320
  let hd := hdrParse (rdBytes hdr)
  (hd.codeAt.all fun x => !s.devBusy 1 x.2 .x && match s.translate 1 x.2 .x with | .absent .. => absent | _ => !absent) && !s.devBusy 1 hd.csig .w &&
    ((hd.dsig.take hd.ndep).all fun a => !s.devBusy 1 a .r)
theorem test_wit_PacketsBecomeLaunches_valid :
    (packet 0x501 [] 320).validate 1 (goodHdr 0x20308) = none ∧ (hdrParse (rdBytes (goodHdr 0x20308))).nclm = 0 ∧ hdrAt (goodHdr 0x20308) false = true ∧
    ((packet 0x501 [] 320).validate 1 badHdr).isSome = true ∧ (hdrParse (rdBytes badHdr)).csig = 0 ∧ (packet 0x501 [] 320).agents.lwaits = [] ∧ hdrAt badHdr false = true ∧
    roomFor (packet 0x501 [] 320) 0 = true := by
  decide +kernel
theorem test_wit_PacketsBecomeLaunches_absent :
    (hdrParse (rdBytes absHdr)).entc = 0x50000 ∧ hdrAt absHdr true = true ∧ (packet 0x501 [] 320).ctxEn 1 = true ∧ (packet 0x501 [] 320).hosten 1 = false ∧
    (packet 0x501 [] 320).agents.tickets = [] := by decide +kernel
theorem test_wit_PacketsBecomeLaunches_bad : bodyIs badHdr = true ∧ bodyIs absHdr = true := by decide +kernel
/-- A launch record of context 1 in a state of its life. -/
def launchRec (st : LState) (ended : Nat) (csig : Nat) : Launch :=
  { asid := 1, queue := 0, hd := { hdrParse (rdBytes (goodHdr csig)) with ndep := 1, dsig := [0x20300, 0, 0, 0] }, st := st, prio := 3, counter := 0, count := 1, ended := ended,
    trapped := 0, parent := none, since := 0, readyAt := 0, placed := false, startSeq := 0, raw := [], badPages := [], reject := none }
def withLaunch (l : Launch) (s : State) : State := { s with agents := { s.agents with launches := [(4, l)] } }
theorem test_wit_PacketsBecomeLaunches_ends :
    (let s := withLaunch (launchRec .placeable 0 0x20308) (withQueue (qent 1 false) { at_ (.nop h0) with host := { State.reset.host with bias := [(hbmKey 0 0x30308 / 2 ^ 16, .tohost)] } })
     s.storeWaits 1 0x20308) = true ∧
    (let s := withLaunch (launchRec .deps 0 0) (withBytes 0x300 (leBytes 8 (2 ^ 31)) (withQueue (qent 1 false) (at_ (.nop h0))))
     isSomeAnd (Assoc.find? s.agents.launches 4) fun l => decide (l.st = .deps) && (l.hd.dsig.take l.hd.ndep).all fun a => isSomeAnd (s.devLoad 1 a 8) fun v => v.testBit 31) = true ∧
    [0, 0x20308].all (fun csig =>
      let s := withLaunch (launchRec .placeable 1 csig) (withQueue (qent 1 false) (at_ (.nop h0)))
      isSomeAnd (Assoc.find? s.agents.launches 4) fun l => decide (l.st = .placeable) && decide (l.count ≤ l.ended) && l.parent.isNone && l.reject.isNone && (csig == 0 || !s.storeWaits 1 csig) && decide (l.hd.csig = csig) &&
        (csig == 0 || (match s.translate 1 csig .w with | .ok key cls _ => decide (cls ≤ 1) && (match s.homeOf key with | .peer _ => false | _ => true) | _ => false))) = true := by decide +kernel

/-- A capability of queue 0 with its seal, for context 1 and nonce 5. -/
def capLow : Nat := 5 * 2 ^ 107 + 1 * 2 ^ 71 + 1 * 2 ^ 63 + 12 * 2 ^ 57 + 0x28000
def sealedCap (s : State) : BitVec 256 := BitVec.ofNat 256 (s.seal (BitVec.ofNat 256 capLow) * 2 ^ 128 + capLow)
def wakeable : State := withQueue (qent 1 false) ({ at_ (.nop h0) with harts := [(3, { Hart.reset with dasid := 1 })] } : State)
theorem test_wit_WakesAndTheQueueTable :
    (let s := wakeable
     let cap := sealedCap s
     s.up && !s.masterFrozen (.hart 3 false) && decide (s.plat.power ≠ .s2) && isSomeAnd (s.qEnabled (capQidx cap)) fun e => !e.dev && !e.halt && (s.devLoad e.asid e.wpa 8).isSome && decide (e.wpa % 8 = 0) && !s.devBusy e.asid e.wpa .r && roomFor s (capQidx cap) &&
       decide (capMac cap = s.seal cap) && decide (capRights cap = 1) && decide (s.masterAsid (.hart 3 false) = some (capOasid cap)) && decide (capOasid cap = e.asid) &&
       decide (capNonce cap = e.nonce) && decide (capLogsz cap = e.logsz) && decide (capBase cap = e.rbase)) = true ∧
    (let s := wakeable
     Master.trusted (.hart 3 true) && s.qtabPlain && plainForm 0 && decide (capRights 0 / 4 = 0) && isSomeAnd (s.qEnabled (capQidx 0)) fun e => !e.dev) = true ∧
    (let s := wakeable
     decide ((s.hart 3).frozen = none) && decide ((false && s.qtabPlain && plainForm 1) = false) && decide (capMac 1 ≠ s.seal 1) && roomFor s (capQidx 1)) = true ∧
    (wakeable.qtabEn = true ∧ State.reset.qtabEn = false ∧ fld (BitVec.ofNat 64 (20 * 2 ^ 57 + 2 ^ 63)).toNat 57 5 ≤ 20 ∧ 20 < fld (BitVec.ofNat 64 (21 * 2 ^ 57)).toNat 57 5) := by
  decide +kernel

/- ## Placement, system registers, the firmware's words -/

/-- A second task, uid 2, of context 1 in slot 0 of core 0, its thread 0 standing where the placed one does. -/
def task2 (f : Machine.Task → Machine.Task) : Machine.Task :=
  f { (Task.reset 2 4 1 0 2 { hdrParse (rdBytes (goodHdr 0)) with drain := 7 } 0) with nthr := 1 }
def r1 : TRef := ⟨0, 0, 0⟩
def with2 (f : Machine.Task → Machine.Task) (g : Thread → Thread) (s : State) : State :=
  (s.setTask 0 0 (task2 f)).setThread r1 (g placedThread)
def two (f : Machine.Task → Machine.Task) (g : Thread → Thread) : State := with2 f g (withQueue (qent 1 false) (at_ (.nop h0)))
/-- A saved task of launch 4 of context 1, at address 80. -/
def saved2 : Saved := { task := task2 id, threads := [(0, placedThread)], macOps := [], grants := [] }
def withSaved (s : State) : State := { s with agents := { s.agents with saved := [(80, saved2)] } }
theorem test_wit_TasksArePlaced :
    (let s := withLaunch (launchRec .placeable 0 0) (withQueue (qent 1 false) (at_ (.nop h0)))
     isSomeAnd (s.pick 0) (fun e => decide (e.1 = 4) && (s.savedOf 4).isNone && decide (Assoc.find? s.agents.launches 4 = some e.2)) && decide (s.freeSlot 0 = some 0) && (s.threadsOf 0 0).isEmpty &&
       isSomeAnd ((withSaved s).pick 0) (fun e => decide (e.1 = 4) && decide ((withSaved s).savedOf 4 = some (80, saved2)) && Assoc.wf saved2.threads && saved2.task.ro.isEmpty && ((saved2.task.mt false).isNone && (saved2.task.mt true).isNone) &&
         decide (Assoc.find? (withSaved s).agents.saved 80 = some saved2))) = true := by decide +kernel
/-- The 296 bytes that PLACE reads: a header, LNUM 4, ASID 1. -/
def placeBytes : List Byte := goodHdr 0 ++ leBytes 4 4 ++ leBytes 2 1 ++ leBytes 2 0
def atPlace (i : Instr) : State :=
  let s := withRegs [(4, 0x28000), (5, 0), (6, 0)] (withQueue (qent 1 false) (at_ i))
  { s with mem := s.mem ++ placeBytes.zipIdx.filterMap fun b => if b.1 = 0 then none else some (hbmKey 0 (0x38000 + b.2), b.1) }
theorem test_wit_TasksArePlaced_bytes : decide ((atPlace (.nop h0)).localBytes { Task.reset 1 0 0 0 0 placedHdr 0 with nthr := 1 } 0x28000 296 = some placeBytes) = true := by decide +kernel
theorem test_wit_TasksArePlaced_place :
    wit (atPlace (.placeTask h0 (.v 40) (.v 4))) (.placeTask h0 (.v 40) (.v 4)) (fun x st =>
      decide (x.r.slot = fwSlot) && !x.t.ops.any Op.openStore && decide ((x.gp (.v 4) 0).toNat = 0x28000) && decide (x.k.asid = 0) && decide (st.validate 1 placeBytes = none) &&
        decide ((x.gp (.v 4) 2).toNat < (hdrParse (rdBytes placeBytes)).tasks) &&
        (st.lacks 0 (hdrParse (rdBytes placeBytes)).nthr (hdrParse (rdBytes placeBytes)).units false).isEmpty && decide (st.freeSlot 0 = some 0)) = true := by decide +kernel
theorem test_wit_TasksArePlaced_restore :
    wit (withSaved (withRegs [(6, 80)] (atPlace (.placeRestore h0 (.v 40) (.v 4))))) (.placeRestore h0 (.v 40) (.v 4)) (fun x st =>
      isSomeAnd (Assoc.find? st.agents.saved (x.gp (.v 4) 2).toNat) fun v => decide (v.task.lnum = 4) && decide (v.task.asid = 1) && !v.task.vein &&
        v.task.ro.isEmpty && (v.task.mt false).isNone && (v.task.mt true).isNone && Assoc.wf v.threads && (st.lacks 0 v.task.nthr v.task.units false).isEmpty && decide (st.freeSlot 0 = some 0) && decide (thrKey ⟨0, 0, 0⟩ ≠ thrKey x.r)) = true := by decide +kernel

theorem test_wit_SystemRegisters :
    [0, 1, 5, 0x1F, 0x103, 0x10F, 0x201].all (fun reg => wit (at_ (.sysrd h0 true (.v 12) reg)) (.sysrd h0 true (.v 12) reg) fun x _ => !x.t.strongOut) = true ∧
    [0x102, 0x106, 0x120, 0x140, 0x107, 0x200].all (fun reg => [0, 499].all fun v => wit (withRegs [(8, v)] (at_ (.syswr h0 true (.v 8) reg))) (.syswr h0 true (.v 8) reg) fun x _ =>
      syswrPre true (.v 8) reg x.s x.k (((x.s.curRun).map Prod.snd).getD { core := 0, slot := 0, members := [], pc := 0, len := 0, conv := false }) [(x.r.thr, x.t)]) = true ∧
    wit (withDomain .reachable (at_ (.syswr h0 false (.v 8) 0x141))) (.syswr h0 false (.v 8) 0x141) (fun x st => st.pdEn 1 && decide (((x.w (.v 8)).zeroExtend 64).getLsbD 31 = false)) = true ∧
    ([0, 1, 2, 3, 4, 5, 6].all fun n => grp (.tstateRd h0 (.v 8) n)) = true ∧
    wit (withThr (fun t => { t with inh := true }) (at_ (.tstateWr h0 (.v 4) 0))) (.tstateWr h0 (.v 4) 0) (fun x _ => x.t.inh) = true ∧
    wit (at_ (.tstateWr h0 (.v 4) 0)) (.tstateWr h0 (.v 4) 0) (fun x _ => !x.t.inh) = true ∧ ready (.tstateWr h0 (.v 4) 1) = true ∧ ready (.tstateWr h0 (.v 4) 2) = true := by decide +kernel

/-- A CLAIM request: a claim word, an ASID and a launch number. -/
def claimBytes (base asid lnum : Nat) : List Byte := leBytes 8 (base + 2 * 2 ^ 61) ++ leBytes 2 asid ++ leBytes 4 lnum ++ leBytes 2 0
def reqIs (x : Ctx) (st : State) (bs : List Byte) : Bool := !x.t.ops.any Op.openStore && decide (st.localBytes x.k (x.d (.v 4)).toNat 16 = some bs)
theorem test_wit_FirmwareWords_claim :
    wit (atDesc (claimBytes 2 0 4) (.claimMake h0 (.v 40) (.v 4))) (.claimMake h0 (.v 40) (.v 4)) (fun x st =>
      reqIs x st (claimBytes 2 0 4) && decide (st.claimReqBad true (claimBytes 2 0 4) = none) && Assoc.wf st.threads && x.t.ops.isEmpty &&
        (match st.walkOf 0 (2 * 2 ^ 16) with
          | .leaf e _ => decide (fld e 5 2 = 0 ∧ fld e 51 13 = 0 ∧ fld e 7 2 ≠ 3 ∧ fld e 2 1 = 1 ∧ fld e 3 1 = 1)
          | _ => false)) = true ∧
    wit (atDesc (claimBytes 0 0 4) (.claimEnd h0 (.v 40) (.v 4))) (.claimEnd h0 (.v 40) (.v 4)) (fun x st => reqIs x st (claimBytes 0 0 4) && decide (st.claimReqBad false (claimBytes 0 0 4) = none)) = true ∧
    ([.claimMake h0 (.v 40) (.v 4), .claimEnd h0 (.v 40) (.v 4)] : List Instr).all (fun i => wit (atDesc (claimBytes 2 9 4) i) i fun x st =>
      reqIs x st (claimBytes 2 9 4) && decide (st.claimReqBad true (claimBytes 2 9 4) = some 8) && decide (st.claimReqBad false (claimBytes 2 9 4) = some 8)) = true := by decide +kernel
/-- A master's word in v4: of a kind, naming core 0 and slot 0, or hart 3, or context 1, or peer 1. -/
def atMaster (kind lo : Nat) (i : Instr) : State := with2 id id (withDomain .reachable (withQueue (qent 1 false) (withRegs [(4, lo), (5, kind * 2 ^ 28)] (at_ i))))
theorem test_wit_FirmwareWords_freeze :
    ([.freezeHold h0 (.v 40) (.v 4), .freezeKill h0 (.v 40) (.v 4), .freezeSave h0 (.v 40) (.v 4)] : List Instr).all (fun i =>
      wit (withRegs [(6, 0x20300), (7, 0)] (atMaster 0 0 i)) i fun x st => decide (mwKind (x.d (.v 4)) = 0) && decide (x.r.slot = fwSlot) && isSomeAnd (st.task? (mwCore (x.d (.v 4))) (mwSlot (x.d (.v 4)))) fun k =>
        k.ending.isNone && k.frozen.isNone && k.saving.isNone && (st.copiesOf 0 k.uid).isEmpty && (st.ticketsOf k.uid).isEmpty &&
          (match st.translate x.k.asid (x.gp (.v 4) 2).toNat .w with | .ok key 0 _ => decide (st.homeOf key = .own) | _ => match i with | .freezeSave .. => false | _ => true)) = true ∧
    ([.freezeHold h0 (.v 40) (.v 4), .freezeKill h0 (.v 40) (.v 4)] : List Instr).all (fun i => wit (atMaster 1 3 i) i fun x _ => decide (mwKind (x.d (.v 4)) ≠ 0)) = true ∧
    wit (atMaster 1 3 (.freezeRelease h0 (.v 40) (.v 4))) (.freezeRelease h0 (.v 40) (.v 4)) (fun x st => decide (mwKind (x.d (.v 4)) = 1) && st.hartHere ((x.d (.v 4)).toNat % 128)) = true ∧
    wit (atMaster 2 1 (.freezeRelease h0 (.v 40) (.v 4))) (.freezeRelease h0 (.v 40) (.v 4)) (fun x st => decide (mwKind (x.d (.v 4)) = 2) && st.ctxEn 1) = true ∧
    wit (atMaster 3 0x10001 (.freezeRelease h0 (.v 40) (.v 4))) (.freezeRelease h0 (.v 40) (.v 4)) (fun x st => decide (mwKind (x.d (.v 4)) = 3) &&
      (Assoc.find? st.fab.peers (fld (x.d (.v 4)).toNat 16 13)).isSome) = true := by decide +kernel
theorem test_wit_FirmwareWords_idle :
    wit ((withRegs [(4, 9)] (at_ (.idle h0 (.v 40) (.v 4) 4))).updCore 0 fun c => { c with idleEvents := 6 }) (.idle h0 (.v 40) (.v 4) 4) (fun _ st => decide ((st.core 0).idleEvents &&& 4 ≠ 0)) = true ∧
    wit (withRegs [(4, 9)] (at_ (.idle h0 (.v 40) (.v 4) 4))) (.idle h0 (.v 40) (.v 4) 4) (fun x st => decide ((st.core 0).idleEvents &&& 4 = 0) && decide ((x.d (.v 4)).toNat ≠ 0)) = true ∧
    wit (at_ (.idle h0 (.v 40) (.v 4) 4)) (.idle h0 (.v 40) (.v 4) 4) (fun x _ => decide ((x.d (.v 4)).toNat = 0)) = true ∧
    (let s := withThr (fun t => { t with wait := .idle 4 9 (.v 40) }) (at_ (.nop h0))
     (s.task? 0 fwSlot).isSome && decide ((s.threadsOf 0 fwSlot).map Prod.fst = [0]) && isSomeAnd (s.thread? r0) fun t => decide (t.wait = .idle 4 9 (.v 40))) = true := by decide +kernel
/-- DLOG: an ordinary kind and the reserved one. -/
theorem test_wit_DlogWritesARecord :
    [(0x1234, false), (0x7FFF, true)].all (fun e => wit (withRegs [(11, e.1)] (at_ (.dlog h0 (.v 40) (.v 8)))) (.dlog h0 (.v 40) (.v 8)) fun x _ =>
      decide (rdBytes (bytesOf ((List.range 8).map fun i => x.gi (.v 8) i)) 0xC 2 % 2 ^ 15 = 0x7FFF) == e.2) = true := by decide +kernel

/- ## Pre-emption, the picker and the debugger -/

/-- The second task's thread waits for a load, so that a save of it must wait. -/
def busy2 (t : Thread) : Thread := { t with ops := [{ strongOp with kind := .result [(3, 1)], pend := false }] }
def is2 (s : State) (P : Machine.Task → Bool) : Bool := isSomeAnd (s.task? 0 0) P
def quiet2 (k : Machine.Task) : Bool := k.saving.isNone && k.frozen.isNone && k.ending.isNone
theorem test_wit_SavesAndPreemption :
    is2 (two id id) (fun k => quiet2 k && (two id id).saveReady 0 0 k && (two id id).agents.saves.isEmpty && Assoc.wf (two id id).threads) = true ∧
    is2 (two id busy2) (fun k => quiet2 k && !(two id busy2).saveReady 0 0 k) = true ∧
    is2 (two (fun k => { k with frozen := some 3 }) id) (fun k => decide (k.frozen = some 3) && ((two id id).copiesOf 0 k.uid).isEmpty && ((two id id).ticketsOf k.uid).isEmpty) = true ∧
    ((({ (two id id) with harts := [(3, { Hart.reset with frozen := some 3 })] } : State).hart 3).frozen = some 3) ∧
    is2 (two (fun k => { k with saving := some 9 }) busy2) (fun k => decide (k.saving = some 9)) = true ∧
    ((two (fun k => { k with saving := some 9 }) busy2).ofContext 0 1).map Prod.fst = [0] := by decide +kernel
theorem test_wit_SavesAndPreemption_timers :
    is2 (two (fun k => { k with slice := some 5 }) busy2) (fun k => decide (k.slice = some 5)) = true ∧
    (let s := withLaunch (launchRec .placeable 0 0) (two (fun k => { k with slice := some 5 }) busy2)
     s.rivalWaits 2 && !(two id busy2).rivalWaits 2 && !(s.threadsOf 0 0).any (fun e => e.2.halted)) = true ∧
    (let s := (two id busy2).updCore 0 fun c => { c with barred := [(1, 4, 0)] }
     isSomeAnd ((s.core 0).barred.find? fun b => b.1 == 1) (fun b => decide (b.2.1 = 4)) && decide ((s.ofContext 0 1).map Prod.fst = [0])) = true ∧
    (let s := withLaunch { (launchRec .placeable 0 0) with parent := some (r1, 5, 2) } (two id busy2)
     isSomeAnd (s.stuckChild 0 0 2) (fun e => decide (e.2.readyAt = 0)) && is2 s fun k => quiet2 k && k.parked.isNone && !s.saveReady 0 0 k) = true := by decide +kernel
/-- A launch no core admits, for want of pool units, with a task of lower priority to give way. -/
theorem test_wit_SavesAndPreemption_prewt :
    (let l := { (launchRec .placeable 0 0) with hd := { (launchRec .placeable 0 0).hd with regu := 513 } }
     let s := withLaunch l (two id id)
     s.hasTask 4 l && ((List.range 192).all fun c => !s.admits c 4 l) && decide (s.victim 3 = some (0, 1, 2)) && (s.ofContext 0 1).all (fun e => e.2.hd.drain != 0)) = true := by decide +kernel
/-- The second task's thread is ready; so is a firmware thread alone. -/
def idleRuns (s : State) : State := { s with runs := [], cur := none }
theorem test_wit_GroupsAreFormed :
    (let s := idleRuns (two id id)
     isSomeAnd (s.choose 0 (s.cands 0)) fun c => decide (c.slot = 0 ∧ c.conv = false) && decide (c ∈ s.cands 0) && decide (s.members 0 (s.cands 0) c = [0])) = true ∧
    (let s := idleRuns (with2 id id (withQueue (qent 1 false) State.reset))
     (s.fwReady 0).isNone) = true ∧
    (let s := idleRuns (at_ (.nop h0))
     (s.choose 0 (s.cands 0)).isNone && isSomeAnd (s.fwReady 0) fun e => decide (e.1 = 0)) = true ∧
    (let s := idleRuns (two (fun k => { k with hd := { k.hd with progress := true } }) fun t => { t with overdue := some 7, age := 5000, held := some 3 })
     s.cands 0 |>.all fun c => (s.candTask 0 c).hd.progress && c.t.overdue.isSome) = true ∧
    (let s := two (fun k => { k with hd := { k.hd with progress := true } }) fun t => { t with age := 4096, held := some 3 }
     isSomeAnd (s.thread? r1) (fun t => decide (t.held = some 3) && t.overdue.isNone && decide ((s.core 0).tfair ≤ t.age))) = true := by decide +kernel
/-- A hold whose time has not come while the clock stands, and a crew gathered at a convergent word. -/
theorem test_wit_GroupsAreFormed_hold :
    (let s := two id fun t => { t with held := some 3 }
     let z := { s with plat := { s.plat with power := .s2 } }
     decide (s.plat.power = .a0) && decide (z.plat.power ≠ .a0) && decide (z.plat.power ≠ .a1) && decide (z.clk.cycles < 3 + (z.core 0).thold) &&
       isSomeAnd (z.thread? r1) fun t => decide (t.held = some 3)) = true ∧
    (let s := { idleRuns (with2 id id (withQueue (qent 1 false) (at_ (.vote h0 (.all 1 2))))) with tasks := [(taskKey 0 0, task2 id)] }
     (s.cands 0).any fun c => c.conv) = true := by decide +kernel
/-- The picker with no firmware thread beside it. -/
theorem test_wit_GroupsAreFormed_alone :
    (let s := { idleRuns (two id id) with tasks := [(taskKey 0 0, task2 id)] }
     isSomeAnd (s.choose 0 (s.cands 0)) (fun c => decide (c.slot = 0)) && (s.fwReady 0).isNone) = true := by decide +kernel
def defer2 (c : Cause) (t : Thread) : Thread := { t with deferred := [{ cause := c, detail := 0, pc := 0, tval := 0, taddr := 0, deferred := true }] }
theorem test_wit_CausesBetweenRunsAndTheDebugger :
    ([.prot, .claim] : List Cause).all (fun c =>
      let s := two id (defer2 c)
      decide (s.dueThreads 0 0 = [0]) && is2 s (fun k => k.frozen.isNone && k.ending.isNone && (s.copiesOf 0 k.uid).isEmpty && (s.ticketsOf k.uid).isEmpty) && isSomeAnd (s.thread? r1) fun t =>
        t.trap.isNone && !t.halted && isSomeAnd t.deferred.head? fun x => x.deferred) = true ∧
    (let s := two id id
     let d := { s with plat := { s.plat with dbg := .halt, dbgAsids := [1] } }
     decide (d.dbgOf 1 = .halt) && !d.inRun 0 0 0 && isSomeAnd ((two id busy2).thread? r1) (fun t => !t.ended && !t.halted && t.ops.any Op.inFlight) && isSomeAnd (d.thread? r1) fun t => !t.ended && !t.halted && !t.ops.any Op.inFlight) = true ∧
    (isSomeAnd ((two id fun t => { t with halted := true }).thread? r1) fun t => t.halted && t.trap.isNone && t.deferred.isEmpty) = true ∧
    (Assoc.wf (two id id).threads && (Assoc.find? (two id id).plat.illegalAt 0).isNone) = true ∧
    (let s := { State.reset with plat := { Platform.reset with illegalAt := [(0, 5)] }, clk := { State.reset.clk with time := 1000005 } }
     decide (Assoc.find? s.plat.illegalAt 0 = some 5) && decide (s.clk.time ≤ 5 + 1000000) && !s.plat.clOff.contains 0 && s.tasks.isEmpty) = true := by decide +kernel

/- ## Tickets, the host, the harts and other chips -/

def hasTicket (open_ : Bool) (op : Nat) (pri : Bool) (s : State) : State :=
  { s with agents := { s.agents with tickets := [(7, { gen := 2, open_ := open_, served := false, lnum := none, ref := r0, op := op, copy := none, uid := 1, asid := 0, va := 0x20040, pri := pri, since := 4 })] } }
def loadAt (va : Nat) : Op := { strongOp with kind := .load { va := va, n := 4, place := .glob, write := false, read := true, ord := .rlx, scope := .task, hint := 0 } (.v 8) }
def closed_ (s : State) : Bool := (List.range 3).all fun i => match Assoc.find? s.agents.tickets i with | some t => !t.open_ | none => true
/-- A ticket returned to peer 2. -/
def ptick : PTicket := { src := 2, asid := 0, va := 0x50000, id := 6, gen := 1, pri := true, since := 0 }
theorem test_wit_TicketsAreServed :
    (let s := withOp (loadAt 0x50000) (at_ (.nop h0))
     closed_ s && (match s.locate 0 0x50000 .r with | .absent _ => true | _ => false) && isSomeAnd (s.thread? r0) fun t => decide (t.ops.find? (fun o => o.id == 5) = some (loadAt 0x50000))) = true ∧
    (let s := idleRuns (withThr (fun t => { t with pc := 0x50008 }) (at_ (.nop h0)))
     closed_ s && isSomeAnd (s.task? 0 16) (fun k => match s.fetchWord k 0x50008 with | .absent .. => true | _ => false) && isSomeAnd (s.thread? r0) fun t => t.fetchTicket.isNone) = true ∧
    (isSomeAnd (Assoc.find? (hasTicket true 5 false State.reset).agents.tickets 7) (fun t => decide (t.gen ≠ 3)) = true ∧ isSomeAnd (Assoc.find? (hasTicket false 5 false State.reset).agents.tickets 7) (fun t => !t.open_) = true) ∧
    [false, true].all (fun pri => [0, 5].all fun op =>
      let s := hasTicket true op pri (withOp (loadAt 0x20040) (at_ (.nop h0)))
      isSomeAnd (Assoc.find? s.agents.tickets 7) fun tk => tk.open_ && !tk.served && tk.copy.isNone && tk.lnum.isNone && s.ticketOwn tk && decide (tk.pri = pri) && decide (tk.op = op) &&
        isSomeAnd (s.task? tk.ref.core tk.ref.slot) (fun k => decide (k.uid = tk.uid) && k.ending.isNone) && (s.thread? tk.ref).isSome &&
        (match s.translate tk.asid tk.va .r with | .absent .. => false | _ => true)) = true ∧
    ((0x10000 % 2 ^ 16 = 0 ∧ 0x10000 < 4 * 48 * 2 ^ 30 ∧ 0x10000 ∉ State.reset.agents.pool ∧ State.reset.agents.cwaits = [] ∧ State.reset.framePinned 0x10000 = false ∧ State.reset.agents.peerTicks = []) ∧
      Assoc.find? ({ State.reset.agents with peerTicks := [(9, ptick)] } : Agents).peerTicks 9 = some ptick ∧ ptick.pri = true ∧
      Assoc.find? ({ State.reset.agents with pins := [(2, 9)] } : Agents).pins 2 = some 9) := by decide +kernel

def remoteOk (s : State) (va : Nat) (k : Kind) : Bool := s.up && match s.locate 0 va k with | .ok key _ _ => decide (s.homeOf key = .own) | _ => false
def withHost (s : State) : State := { s with host := { s.host with filter := [(3, { asid := 1, va := 0, writable := true })], bias := [(hbmKey 0 0x50000 / 2 ^ 16, .dev)] } }
theorem test_wit_OtherMastersReachMemory :
    (remoteOk (at_ (.nop h0)) 0x20040 .r && remoteOk (at_ (.nop h0)) 0x20040 .w) = true ∧ (2, 0) ∉ (at_ (.nop h0)).fab.frozenPeers ∧
    (let s := { at_ (.nop h0) with mem := Memory.writeN (at_ (.nop h0)).mem (hbmKey 0 8) (leBytes 4 (2 ^ 31)) }
     s.up && s.hosten 0 && (match s.locate 0 0x50000 (RemoteOp.kind (.load 4)) with | .absent anon => !anon | _ => false)) = true ∧
    (match (at_ (.nop h0)).locate 9 0x20040 (RemoteOp.kind (.load 4)) with | .fault _ => true | _ => false) = true ∧
    (2, 0) ∈ ({ State.reset.fab with frozenPeers := [(2, 0)] } : Fabric).frozenPeers ∧ Assoc.find? ({ State.reset.fab with acache := [(9, 4)] } : Fabric).acache 9 = some 4 ∧
    ((withHost State.reset).up = true ∧ (Assoc.find? (withHost State.reset).host.filter (200 / 64)).isSome = true ∧ (Assoc.find? (withHost State.reset).host.filter (64 / 64)) = none) ∧
    Assoc.find? (withHost State.reset).host.bias (hbmKey (withHost State.reset).chip.toNat 0x50008 / 2 ^ 16) = some .dev := by decide +kernel
def withHart (h : Hart) (s : State) : State := { s with harts := [(3, h)] }
/-- A task's translations that a hart's fill meets: the page with the other tracking, and the address at another page. -/
theorem test_wit_HartsAccessMemory_clash :
    (let s := withHart { Hart.reset with dasid := 1 } State.reset
     let e1 := (tlbKey 2 0x90000, hbmKey 0 0x60008 / 2 ^ 16, false)
     let e2 := (tlbKey 1 0x1000, hbmKey 0 0x50000 / 2 ^ 16, true)
     decide (s.hartPlace 0x60008 = .hbm (hbmKey 0 0x60008)) && decide (e1.2.1 = frameOf (hbmKey 0 0x60008) ∧ e1.2.2 ≠ decide (0 = 0)) &&
       decide (e2.1 = tlbKey (s.hart 3).dasid 0x1000 ∧ e2.1 < 2 ^ 57 ∧ e2.2.1 * 16 + 0x1000 / 2 ^ 12 % 16 ≠ hbmKey 0 0x60008 / 2 ^ 12) &&
       ({ s with tlb := [e1] } : State).hartClash 3 0x1000 (hbmKey 0 0x60008) true && ({ s with tlb := [e2] } : State).hartClash 3 0x1000 (hbmKey 0 0x60008) true) = true := by decide +kernel
theorem test_wit_HartsAccessMemory :
    ((withHart Hart.reset State.reset).hartHere 3 = true ∧ ((withHart Hart.reset State.reset).hart 3).frozen = none ∧ ((withHart Hart.reset State.reset).hart 3).fault = false ∧
      ((withHart Hart.reset State.reset).hart 3).dasid = 0) ∧
    (let s := { withHart { Hart.reset with dasid := 1 } State.reset with agents := { Agents.reset with owner := [(hbmKey 0 0x50000 / 2 ^ 16, 2), (hbmKey 0 0x60000 / 2 ^ 16, 1)] } }
     decide (s.hartPlace 0x50008 = .hbm (hbmKey 0 0x50008)) && decide (Assoc.find? s.agents.owner (hbmKey 0 0x50008 / 2 ^ 16) = some 2) && decide (2 ≠ (s.hart 3).dasid) &&
       decide (s.hartPlace 0x60008 = .hbm (hbmKey 0 0x60008)) && decide (Assoc.find? s.agents.owner (hbmKey 0 0x60008 / 2 ^ 16) = some (s.hart 3).dasid) && !s.hartClash 3 0x1000 (hbmKey 0 0x60008) true &&
       (Assoc.find? s.host.bias (hbmKey 0 0x60008 / 2 ^ 16)).isNone && decide (s.homeOf (hbmKey 0 0x60008) = .own)) = true ∧
    (State.reset.hartHere 32 = false ∧ ((withHart { Hart.reset with frozen := some 1 } State.reset).hart 3).frozen.isSome = true ∧
      ((withHart { Hart.reset with fault := true } State.reset).hart 3).fault = true) := by decide +kernel

/- ## The fabric and the platform -/

def withPeer (st : PeerSt) (inc oin : Nat) (s : State) : State :=
  { s with fab := { s.fab with peers := [(1, { st := st, inc := inc, since := 0, oseqOut := 0, oseqIn := oin, pend := [] })] } }
def hd1 (oseq : Nat) : FabHdr := { tinc := 0, tgt := 0, src := 1, asid := 1, cls := 0, vc := 5, kind := 0, nflit := 1, oseq := oseq, addr := 0, rest := 0, via := .die }
theorem test_wit_PeersAndPackets :
    (Assoc.find? (withPeer .reachable 0 0 State.reset).fab.peers 1).isSome = true ∧
    (let s := { withPeer .unreachable 0 0 (at_ (.nop h0)) with rws := [(6, rw1)] }
     s.veins.isEmpty && s.agents.tickets.isEmpty && rw1.copy.isNone && decide (s.findUid 1 = some (0, 16)) && (s.task? 0 16).isSome && (s.thread? ⟨0, 16, 0⟩).isSome &&
       isSomeAnd (Assoc.find? s.fab.peers 1) fun p => decide (p.st = .unreachable)) = true ∧
    (let s := withPeer .unreachable 3 0 State.reset
     s.up && s.veins.isEmpty && s.rws.isEmpty && isSomeAnd (Assoc.find? s.fab.peers 1) fun p => decide (p.inc = 3) && decide (p.inc ≠ 65535)) = true ∧
    ({ (hd1 0) with tinc := 1 } : FabHdr).tinc ≠ State.reset.inc.toNat ∧ ({ (hd1 0) with cls := 2 } : FabHdr).vc ≠ 0 ∧ ({ (hd1 4) with cls := 1 } : FabHdr).oseq ≠ 0 ∧
    (let s := withPeer .reachable 0 4 State.reset
     decide ((hd1 4).tgt = s.chip.toNat) && !FabHdr.bad (hd1 4) s.inc.toNat && decide ((1, 1) ∉ s.fab.frozenPeers) && isSomeAnd (Assoc.find? s.fab.peers 1) fun p =>
       decide ((hd1 4).oseq = p.oseqIn) && decide ((hd1 5).oseq ≠ p.oseqIn) && p.pend.isEmpty) = true := by decide +kernel
/-- Page 0x30000 of context 0 lies in peer 1's memory. -/
def withPeerPage (s : State) : State := { s with mem := Memory.writeN s.mem (hbmKey 0 (placedTables + 0x4000 + 24)) (leBytes 8 (0x1F + 3 * 2 ^ 16 + 2 ^ 51)) }
theorem test_wit_PeersAndPackets_more :
    Assoc.find? State.reset.fab.peers 1 = none ∧
    (let s := withPeer .unreachable 0 0 (ascending (run1 (withRegs cpRegs (at_ (.copy h0 (.v 8) (.v 16) .zero .none))) (.copy h0 (.v 8) (.v 16) .zero .none)))
     isSomeAnd (s.core 0).copies.head? fun e => s.agents.tickets.isEmpty && s.veins.isEmpty && decide (e.2.uid = rw1.uid) &&
       decide (Assoc.find? (s.core rw1.core).copies e.1 = some e.2)) = true ∧
    (let s := withPeer .reachable 0 0 (withPeerPage (withOp (loadAt 0x30000) (at_ (.nop h0))))
     let hd : FabHdr := { hd1 0 with cls := 1, msg := .denied r0 5 }
     s.up && decide (hd.tgt = s.chip.toNat) && !FabHdr.bad hd s.inc.toNat && decide ((hd.src, hd.asid) ∉ s.fab.frozenPeers) &&
       isSomeAnd (s.task? 0 16) (fun k => s.forwarded k.asid 0x30000 .r) && isSomeAnd (s.thread? r0) fun t =>
         decide (t.ops.find? (fun o => o.id == 5) = some (loadAt 0x30000))) = true := by decide +kernel
/-- A peer that enters low-power hold, one that leaves it, and a set in a departure's freeze. -/
theorem test_wit_PeersAndPackets_hold :
    (let f := (withPeer .held 0 0 State.reset).fab
     decide (1 ∈ ({ f with asleep := [1] } : Fabric).asleep) && isSomeAnd (Assoc.find? f.peers 1) (fun p => decide (p.st = .held)) && f.reconf.isNone &&
       isSomeAnd (Assoc.find? (withPeer .reachable 0 0 State.reset).fab.peers 1) fun p => decide (p.st = .reachable)) = true ∧
    ({ vset with frozen := [2] } : VeinSet).frozen ≠ [] ∧ 0 / 8 ∈ ({ Platform.reset with clOff := [0] } : Platform).clOff ∧ 0 / 8 ∉ Platform.reset.clOff := by decide +kernel
/-- A message to a held peer waits until relock. -/
theorem test_held_message_waits :
    ((withPeer .held 0 0 State.reset).send (.mark 0 1 5)).fab.waits = [(0, 1)] ∧ ((withPeer .reachable 0 0 State.reset).send (.mark 0 1 5)).fab.waits = [] := by decide +kernel
theorem test_wit_TimeAndReconfiguration :
    (let f : Fabric := { (withPeer .held 0 0 State.reset).fab with reconf := some { links := [2], unacked := [2], darkSince := some 5, ordered := [], routed := [] } }
     isSomeAnd f.reconf (fun r => r.darkSince.isSome) && f.asleep.isEmpty && f.peers.all fun e => decide (e.2.st = .held)) = true ∧
    State.reset.veins = [] ∧ State.reset.rws = [] ∧ State.reset.agents.tickets = [] ∧ State.reset.clk.stepped = false := by decide +kernel
theorem test_wit_PowerStates :
    (State.reset.up = true ∧ State.reset.plat.power = .a0 ∧ State.reset.plat.thermForce = false) ∧ (3300000 < 3300001 ∧ 950 ≤ 950 ∧ ¬950 ≤ 949) ∧
    (State.reset.mayGate 23 = true ∧ 23 ∉ State.reset.plat.gated) ∧ State.reset.mayS2 = true ∧ (two id busy2).mayS2 = false ∧
    ({ Platform.reset with power := .s2 } : Platform).power = .s2 ∧ ({ Platform.reset with thermForce := true, power := .a1 } : Platform).thermForce = true := by decide +kernel
def inRecovery : State := { State.reset with plat := { Platform.reset with sec := .recovery, total := 4096 } }
/-- A slot with no magic is not valid; a staged image may be whole or not. -/
theorem test_wit_ResetsAndRecovery :
    State.reset.up = true ∧ State.reset.plat.sec ≠ .recovery ∧ inRecovery.plat.sec = .recovery ∧ inRecovery.plat.power ≠ .s3 ∧ inRecovery.slotFault 2 = 1 ∧
    (3840 % 3840 = 0 ∧ 3840 < inRecovery.plat.total ∧ 3841 % 3840 ≠ 0 ∧ inRecovery.plat.total ≤ 7680) ∧ ¬(1 ≤ 5 ∧ 5 ≤ 4) ∧
    (State.reset.plat.sec = .sealed ∧ 0 ≤ State.reset.plat.svn ∧ State.reset.plat.svn < 1) := by decide +kernel
/-- The trace ring in a page of context 0 that is mapped, and in one that is not. -/
def withTrace (base : Nat) : State :=
  let s := at_ (.nop h0)
  { s with regs := { s.regs with trbase := BitVec.ofNat 64 base, trctl := BitVec.ofNat 32 (2 ^ 31 + 4) }, trace := [{ time := 1, lnum := 2, thr := 3, core := 4, pc := 5, tidx := 6, sel := 7 }] }
def traceAt (s : State) : Xl := s.translate 0 (fld s.regs.trbase.toNat 5 52 * 32 + 32 * (s.regs.trwp.toNat % 2 ^ fld s.regs.trctl.toNat 0 5)) .w
theorem test_wit_ReportsAndTraces :
    (State.reset.up = true ∧ (List.replicate 32 (7 : Byte)).length = 32) ∧
    (let s := withV { vset with asid := 0, segb := 0x30000, segl := 0x10000 } { withTrace 0x30000 with mem := Memory.writeN (withTrace 0x30000).mem (hbmKey 0 (placedTables + 0x4000 + 24)) (leBytes 8 (0x1F + 2 * 32)) }
     match traceAt s with | .ok key cls _ => decide (cls = 2) && (match s.homeOf key with | .vein .. => true | _ => false) | _ => false) = true ∧
    ((withTrace 0x28000).trace.isEmpty = false ∧ (match traceAt (withTrace 0x28000) with | .ok _ cls _ => decide (cls ≤ 1) | _ => false) = true ∧
      (match traceAt (withTrace 0x50000) with | .ok _ cls _ => decide (cls = 3) | .wake _ => false | _ => true) = true) := by decide +kernel

/- ## One step, registers, and the invariant -/

/-- A word placed where step fetches: every hypothesis on the way to exec, and a run that exec changes. -/
def stepHyps (i : Instr) : Bool :=
  let s := at_ i
  decide (s.plat.power = .a0) && decide (s.plat.sec ≠ .recovery) && s.agenda.isEmpty && isSomeAnd s.curRun fun e =>
    isSomeAnd (s.task? e.2.core e.2.slot) fun k => isSomeAnd (s.live e.2).head? (fun m => isSomeAnd m.2.blk fun b => decide (e.2.pc + 8 ≠ b.endPc)) &&
      (match s.fetchWord k e.2.pc.toNat with
        | .ok w =>
          (if fld w 57 7 = 41 then
            (match s.fetchWord k (e.2.pc.toNat + 8) with
              | .ok lit => decide (decodeWord w (some lit) = .ok i)
              | _ => false)
          else decide (decodeWord w none = .ok i)) && nextIs (exec i s) fun t => decide (t.runs ≠ s.runs)
        | _ => false)
theorem test_wit_StepRunsTheDecodedWord : stepHyps (.nop h0) = true ∧ stepHyps (.movl h0 false (.v 8) 0) = true := by decide +kernel
theorem test_wit_RegistersAndMemoryReadBack :
    1023 < 1024 ∧ 15 < 16 ∧ 0xFFFFFFFF < 256 ^ 4 ∧ Memory.wf ([(5, 1), (9, 2)] : Map Byte) = true ∧
    wit (withV { vset with asid := 0 } (at_ (.nop h0))) (.nop h0) (fun x _ => (x.s.veinOf x.k.asid).isSome) = true ∧
    wit (at_ (.nop h0)) (.nop h0) (fun x _ => (x.s.veinOf x.k.asid).isNone) = true := by decide +kernel
/-- Well-formed words at the ends of their operands' ranges. -/
theorem test_wit_DecodeUndoesEncode :
    ([.iadd { h0 with g := 15, gn := true } .i32 true (.v 639) (.sp 0) (.sp 15), .iadd { h0 with la := 0 } .n64 false (.v 638) (.v 638) (.v 0), .idiv { h0 with la := 15 } .i64 false (.v 638) (.v 0) (.v 2),
      .movl h0 true (.v 639) 0xFFFFFFFF, .ld h0 5 .acq .chip 3 (.v 632) (.v 638) (-32768), .bra hB 2147483647, .grow h0 (.v 639) (.v 0) 15] : List Instr).all Instr.wf = true ∧
    (match decode ([0x00, 0x20, 0, 0, 0, 0, 0, 0x14] : List Byte) with | .ok i => i.wf | _ => false) = true := by decide +kernel
/-- The invariant's hypotheses hold of a placed word, and its step answers a next state. -/
theorem test_wit_StepKeepsInv :
    ([.st h0 2 .rlx .task 0 (.v 3) (.v 4) 0, .nop h0] : List Instr).all (fun i => (at_ i).memWf && Assoc.wf (at_ i).threads && nextIs (step (at_ i)) fun _ => true) = true := by decide +kernel
theorem test_wit_StepKeepsInv_reset : State.reset.memWf = true ∧ Assoc.wf State.reset.threads = true ∧ (nextIs (step State.reset) fun _ => true) = true := by decide +kernel

/- ## Further forms of the statements -/

/-- The half format's values over their common denominator, and every code that is finite and not negative. -/
def halfVal (m : Nat) : Nat := if m < 1024 then m else (1024 + m % 1024) * 2 ^ (m / 1024 - 1)
theorem test_wit_RoundingInEveryMode_codes :
    ((List.range 31).all fun e => (List.range 1024).all fun i =>
      decide (Fmt.half.decode (1024 * e + i) = .fin false (halfVal (1024 * e + i)) Fmt.half.den)) = true ∧ Fmt.half.infCode = 31 * 1024 := by
  decide +kernel
/-- Above one: a quarter of a step, half of one, three quarters and none; and at, half a step above and far above the largest value. -/
theorem test_wit_RoundingInEveryMode_between :
    ([(4097, 4096), (2049, 2048), (4099, 4096), (1, 1)] : List (Nat × Nat)).all (fun e =>
      decide (halfVal 0x3C00 * e.2 ≤ e.1 * Fmt.half.den) && decide (e.1 * Fmt.half.den < halfVal 0x3C01 * e.2)) = true ∧
    2 * 4097 * Fmt.half.den < (halfVal 0x3C00 + halfVal 0x3C01) * 4096 ∧ (halfVal 0x3C00 + halfVal 0x3C01) * 4096 < 2 * 4099 * Fmt.half.den ∧
    2 * 2049 * Fmt.half.den = (halfVal 0x3C00 + halfVal 0x3C01) * 2048 ∧
    ([65504, 65519, 65520, 99999].all fun n => decide (halfVal 0x7BFF ≤ n * Fmt.half.den)) = true := by decide +kernel

/-- A thread with one return record. -/
def atRet (back : Nat) : State :=
  withThr (fun t => { t with csp := t.csp - 16 }) (withTask (fun k => { k with version := Memory.writeN [] (privKey 1 0 4080) (leBytes 8 back) }) (at_ (.ret hB)))
def pops (x : Ctx) : Bool :=
  decide (x.t.csp.toNat % 8 = 0) && decide (privBase ≤ x.t.csp.toNat) && decide (x.t.csp.toNat + 16 ≤ privBase + x.k.hd.privb) &&
    !privBusy x.t (x.t.csp.toNat - privBase) 16 && !x.s.commitHeld x.k
/-- Transfers to a word that is no header, RET over poison, and RET to a page that is absent. -/
theorem test_wit_TransfersAndExit_targets :
    wit (at_ (.bra hB 0)) (.bra hB 0) (fun x st => decide (st.headerAt x.k x.t.pc.toNat = .bad)) = true ∧
    wit (withRegs [(4, 0x20008)] (at_ (.brx hB (.v 4)))) (.brx hB (.v 4)) (fun x st => decide (st.headerAt x.k (x.d (.v 4)).toNat = .bad)) = true ∧
    wit (at_ (.brxRel hB (.v 4))) (.brxRel hB (.v 4))
      (fun x st => decide (st.headerAt x.k (x.t.pc + ((x.w (.v 4)).signExtend 64 <<< 3)).toNat = .bad)) = true ∧
    wit (atRet 0x20008) (.ret hB) (fun x st => pops x && !st.readsPoison x.k (privKey 1 0 4080) 16 &&
      decide (st.headerAt x.k (leNat (x.k.bytes st (privKey 1 0 4080) 8)) = .bad)) = true ∧
    wit ((withThr (fun t => { t with csp := t.csp - 16 }) (at_ (.ret hB))).addPoison (privKey 1 0 4080) 16) (.ret hB) (fun x st =>
      pops x && st.readsPoison x.k (privKey 1 0 4080) 16) = true ∧
    wit (atRet 0x50000) (.ret hB) (fun x st => pops x && !st.readsPoison x.k (privKey 1 0 4080) 16 &&
      match st.headerAt x.k (leNat (x.k.bytes st (privKey 1 0 4080) 8)) with | .absent .. => true | _ => false) = true := by decide +kernel

/-- The leaf of page 0x30000 of context 0: of class 2, and the wake port. -/
def withLeaf (w : Nat) (s : State) : State := { s with mem := Memory.writeN s.mem (hbmKey 0 (placedTables + 0x4000 + 24)) (leBytes 8 w) }
def veinLeaf : Nat := 0x1F + 2 * 32
def wakeLeaf : Nat := 0x1F + 2 ^ 11
def vset0 : VeinSet := { vset with asid := 0, segb := 0x30000, segl := 0x10000 }
def strongForms : List Instr :=
  [.ld h0 2 .strong .fab 0 (.v 3) (.v 4) 0, .st h0 3 .strong .fab 0 (.v 8) (.v 4) 0, .atom h0 .add false .strong .fab (.v 8) (.v 4) (.v 12),
   .red h0 .add true .strong .fab (.v 4) (.v 12)]
def onVein (x : Ctx) : Bool := x.s.mayStrong x.k x.t && okAt x 0x30000 8 true && decide (x.s.pageCls x.k.asid 0x30000 = some 2)
/-- Strong forms: off a vein page, in a task with no set, on a lagging member and on one that is not; allowed and not allowed. -/
theorem test_wit_AccessesAreCheckedAndIssue_strong :
    strongForms.all (fun i =>
      wit (atVa 0x20040 i) i (fun x _ => x.s.mayStrong x.k x.t && okAt x 0x20040 8 true && decide (x.s.pageCls x.k.asid 0x20040 ≠ some 2)) &&
      wit (withLeaf veinLeaf (atVa 0x30000 i)) i (fun x st => onVein x && (st.veinOf x.k.asid).isNone) &&
      wit (withV { vset0 with seenSlot := 8193 } (withLeaf veinLeaf (atVa 0x30000 i))) i (fun x st => onVein x && isSomeAnd (st.veinOf x.k.asid) fun e => e.2.lagging) &&
      wit (withV vset0 (withLeaf veinLeaf (atVa 0x30000 i))) i (fun x st => onVein x && isSomeAnd (st.veinOf x.k.asid) fun e => !e.2.lagging)) = true ∧
    wit (withV vset0 (withLeaf (veinLeaf - 4) (atVa 0x30000 (.ld h0 2 .strong .fab 0 (.v 3) (.v 4) 0)))) (.ld h0 2 .strong .fab 0 (.v 3) (.v 4) 0) (fun x st =>
      onVein x && match st.locate x.k.asid 0x30000 .r with | .fault _ => true | _ => false) = true ∧
    wit (withLeaf wakeLeaf (atVa 0x30020 (.st h0 5 .rlx .task 0 (.v 8) (.v 4) 0))) (.st h0 5 .rlx .task 0 (.v 8) (.v 4) 0) (fun x _ =>
      decide (x.check 0x30020 32 true = .ok .glob) && isWakePort x .glob 0x30020 && !x.t.onTicket) = true := by decide +kernel

/-- A release atomic performed while the task's version holds a line, one over a byte of the version, and one of private memory. -/
theorem test_wit_AtomicsReadAndWriteOnce_version :
    [(.rel, hbmKey 0 0x30080), (.rlx, hbmKey 0 0x30040)].all (fun (e : Ord × Nat) =>
      let i : Instr := .atom h0 .add false e.1 .chip (.v 8) (.v 4) (.v 12)
      let s := withTask (fun k => { k with version := Memory.writeN [] e.2 [1] }) (run1 (atVa 0x20040 i) i)
      isSomeAnd ((s.thread? r0).bind fun t => t.ops.head?) fun o => isSomeAnd (s.opOf r0 o.id) fun x =>
        decide (x.2.2.ticket = none) && s.mayPerform r0 x.1 x.2.1 x.2.2 && s.prepared 0 x.1 none && decide (x.2.1.acks = 0) && !x.2.1.ended && !s.commitHeld x.1 &&
          decide (x.1.version ≠ []) && locOk (s.commit r0) x.1 0x20040 .w) = true ∧
    ([.atom h0 .cas false .rlx .chip (.v 8) (.v 4) (.v 12), .red h0 .add true .rlx .chip (.v 4) (.v 12)] : List Instr).all (fun i =>
      inFlight (atVa 0x01FFE00000000000 i) i fun s k o => (match o.kind with
        | .atomic a _ w64 b c _ => decide (a.place = .priv 0) && !s.readsPoison k (privKey 1 0 0) a.n && decide (s.homeOf (privKey 1 0 0) = .priv) &&
          !s.overflows k (privKey 1 0 0) (leBytes (if w64 then 8 else 4) (aopVal .add w64 0 b.toNat c.toNat))
        | _ => false)) = true := by decide +kernel
/-- A skip-buffer word served at issue: nothing waits and there is room, or something to take. -/
theorem test_wit_SkipBufferWords_served :
    ([.skopRes h0 (.v 8) (.v 2) 0, .skopTake h0 (.v 8) (.v 2) 0] : List Instr).all (fun i => wit (withRegs [(2, 1)] (withQ q0 (at_ i))) i fun x st =>
      isSomeAnd (st.thread? x.r) (fun t => t.ops.isEmpty) && Assoc.wf st.threads && decide (x.r.thr < 4096) && isSomeAnd (st.task? 0 16) fun k =>
        decide (firstWaiting (k.q 0).resv = none) && decide (firstWaiting (k.q 0).take = none) && decide ((x.w (.v 2)).toNat ≤ (k.q 0).room) &&
          decide ((x.w (.v 2)).toNat ≤ (k.q 0).avail)) = true := by decide +kernel
/-- A word that names a register which a SHRINK has taken. -/
theorem test_wit_AllotmentsChange_removed :
    let i : Instr := .iadd h0 .i32 false (.v 32) (.v 1) (.v 2)
    ((rdwr i).1 ++ (rdwr i).2).contains 32 = true ∧ i.wf = true ∧ privileged i = false ∧ isMatrix i = false := by decide +kernel
/-- A committed write to a held peer that has not left yet. -/
theorem test_wit_PhasesAdvance_unsent :
    (let s := { withThr (fun t => { t with wait := .phadv 1 (.v 40) }) (withDomain .reachable (at_ (.nop h0))) with rws := [(3, rw1)], out := [.remote 1 3] }
     let s := { s with fab := { s.fab with waits := [(0, 1)] } }
     s.pdEn 1 && isSomeAnd (s.task? 0 16) fun k => s.writesUnsent k) = true := by decide +kernel

/-- A strong operation whose slot comes: a load, a store and an addition. -/
def strongOf (write : Bool) (op : Option Aop) : Op :=
  { strongOp with
    kind := .strong { va := 2 ^ 32 + 64, n := 4, place := .glob, write := write, read := !write, ord := .strong, scope := .chip, hint := 0 }
      [1, 2, 3, 4] op false (5 : DWord) 0 (some (.v 8)) }
theorem test_wit_VeinUpdatesAndSlots_granted :
    ([(false, none), (true, none), (true, some .add)] : List (Bool × Option Aop)).all (fun e =>
      let g : StrongOp := { ref := r0, op := 5, slot := none, performed := false, acks := [], requested := true }
      let v := { vset with strongs := [g] }
      let s := withV v (withOp (strongOf e.1 e.2) (at_ (.nop h0)))
      decide (Assoc.find? s.veins 0 = some v) && !v.held && decide (1 < v.members.length) && (v.ranks.any fun r => r != v.rank) && isSomeAnd (s.task? 0 16) fun k =>
        isSomeAnd (s.thread? r0) fun t => decide (t.ops.find? (fun o => o.id == 5) = some (strongOf e.1 e.2)) && s.mayPerform r0 k t (strongOf e.1 e.2) &&
          decide (v.segb % 32 = 0) && !s.poisoned (veinKey 0 64) 4) = true ∧ ({ vset with strongs := [] } : VeinSet).calm := by
  refine ⟨by decide +kernel, test_wit_calm.1⟩
/-- A member's orderly leave, in the ordered class. -/
theorem test_wit_MembershipChanges_leave :
    (let s := withPeer .reachable 0 4 (withV vset (at_ (.nop h0)))
     let hd : FabHdr := { hd1 4 with msg := .leave 7 1 }
     s.up && decide (hd.tgt = s.chip.toNat) && !FabHdr.bad hd s.inc.toNat && !s.fab.frozenPeers.contains (hd.src, hd.asid) && decide (hd.cls = 0) &&
       isSomeAnd (Assoc.find? s.fab.peers 1) (fun p => decide (hd.oseq = p.oseqIn) && p.pend.isEmpty) &&
       decide (s.veins.find? (fun e => e.2.vsid == 7) = some (0, vset)) && decide (1 ∈ vset.ranks ∧ 1 ≠ vset.rank)) = true := by decide +kernel
/-- A joiner that asks for a rank that is held, and one whose incarnation is not the one known. -/
theorem test_wit_MembershipChanges_refused :
    (vjoin 0 1).rank ∈ vset.ranks ∧ vset.banksman = vset.rank ∧ (vjoin 0 2).rank ∉ vset.ranks ∧ (at_ (.nop h0)).staleJoin (vjoin 0 2) = false ∧
    ({ State.reset with fab := { State.reset.fab with peers := [(2, { st := .reachable, inc := 1, since := 0, oseqOut := 0, oseqIn := 0, pend := [] })] } } : State).staleJoin (vjoin 0 2) = true := by
  decide +kernel

/-- ASWAP where the old root stands: a new name with a line, and the same name again. -/
theorem test_wit_AssayWords_swapped :
    (let g : Region := { lines := [(1, { (line9 2) with name := 8 }), (2, line9 1)], roots := [(0, 9)], collide := 0 }
     ([.aswapCas h0 (.v 48) (.v 24) (.v 8), .aswapSwap h0 (.v 48) (.v 24) (.v 8)] : List Instr).all fun i => [8, 9].all fun nm =>
       wit (withRegs [(24, nm), (28, 9), (8, 0)] (withRegion g (at_ i))) i fun x st => mayI x arPre && decide (st.regionOf x.k.asid = some 0) &&
         decide ((x.w (.v 8)).toNat < st.rootN 0) && Assoc.wf (st.region 0).lines && isSomeAnd ((st.region 0).find nm) (fun e => decide (0 < e.2.count)) &&
           isSomeAnd ((st.region 0).find 9) fun e => decide (0 < e.2.count)) = true := by decide +kernel
theorem region_withRegion (g : Region) : (withRegion g State.reset).region 0 = g := rfl
theorem capacity_withRegion (g : Region) : (withRegion g State.reset).capacity 0 = 4194304 := by
  show acfgBytes (BitVec.ofNat 64 (2 ^ 63 + 4 * 2 ^ 30)) / 256 = 4194304; decide +kernel
/-- A node whose one child stands, and one whose second child does not. -/
theorem test_wit_AssaySteps_node :
    (let g := reg9 3
     let bs := leBytes 16 9 ++ leBytes 240 0
     g.find 5 = none ∧ g.missingChild bs = none ∧ bs.length = 256 ∧ Assoc.wf g.lines = true ∧ g.missingChild (leBytes 16 9 ++ leBytes 240 7) = some 1) ∧
    ((withRegion (reg9 3) State.reset).freeLine 0).isSome = true := by
  refine ⟨by decide +kernel, ?_⟩
  have hc := capacity_withRegion (reg9 3)
  unfold State.freeLine
  rw [hc, region_withRegion]
  simp only [reg9, State.useFree]
  generalize Config.lineChoice _ = k
  by_cases h : k % 4194304 = 2
  · have h1 : (k + 1) % 4194304 = 3 := by omega
    simp [List.range, List.range.loop, Assoc.find?, h, h1]
  · simp [List.range, List.range.loop, Assoc.find?, h]
/-- A region with no free line: as many lines as it has room for. -/
def fullReg : Region := { lines := (List.range 4194304).map fun i => (i, line9 1), roots := [], collide := 0 }
theorem test_wit_AssaySteps_full : (withRegion fullReg State.reset).capacity 0 ≤ ((withRegion fullReg State.reset).region 0).lines.length ∧
    ((withRegion fullReg State.reset).region 0).find 5 = none := by
  rw [region_withRegion, capacity_withRegion]
  exact ⟨by simp [fullReg], by simp [fullReg, Region.find, line9]⟩

/-- A launch header that is not aligned. -/
theorem test_wit_LaunchPutsAPacket_misaligned :
    wit (atVa 0x20404 (.launch h0 true (.v 40) (.v 4))) (.launch h0 true (.v 40) (.v 4)) (fun x _ =>
      x.s.mayCommit x.k x.t && x.s.ringReady x.k 1 && decide ((x.d (.v 4)).toNat % 8 ≠ 0)) = true := by decide +kernel
/-- The words of a ring are stored one after another, each at its own bytes of the page mapped at 0x28000. -/
def chainOk (asid : Nat) : List (Nat × List Byte) → State → Bool
  | [], _ => true
  | y :: ys, s =>
    (match s.translate asid y.1 .w with
      | .ok key cls _ => decide (cls ≤ 1) && decide (key = hbmKey 0 (0x38000 + (y.1 - 0x28000))) && (match s.homeOf key with | .peer _ => false | _ => true)
      | _ => false) && isSomeAnd (s.devStoreCoh asid y.1 y.2) (chainOk asid ys)
theorem test_wit_LaunchPutsAPacket_words :
    [0, 3840].all (fun w => chainOk 0 ((if w = 0 then [] else [(0x28000 + w, leBytes 8 (256 / 64 * 256 + 2))]) ++ (List.range 40).map fun i => (0x28000 + 8 * i, leBytes 8 i))
      (withQueue { (qent 0 true) with wptr := w, rptr := w } (at_ (.nop h0)))) = true := by decide +kernel
/-- Cores that do not run, and a dependence that is not met. -/
theorem test_wit_PacketsBecomeLaunches_waits :
    inRecovery.coresRun = false ∧ (packet 0x001 [] 64).coresRun = true ∧ (packet 0x001 [] 64).fab.acache = [] ∧
    (let s := withLaunch (launchRec .deps 0 0) (withQueue (qent 1 false) (at_ (.nop h0)))
     isSomeAnd (Assoc.find? s.agents.launches 4) fun l => (l.hd.dsig.take l.hd.ndep).any fun a =>
       match s.devLoad l.asid a 8 with | some v => !v.testBit 31 | none => true) = true := by decide +kernel
/-- A halted queue at a plain wake and at one with RESUME; producer's words that are not aligned and at no page; RPTR's page. -/
theorem test_wit_WakesAndTheQueueTable_halted :
    (let halted := fun (e : QEntry) => { wakeable with agents := { wakeable.agents with cache := [(0, e)] } }
     let s := halted { (qent 1 false) with halt := true, hcode := 2, rpa := 0x20310 }
     let cap := BitVec.ofNat 256 (s.seal (BitVec.ofNat 256 (capLow + 2 ^ 64)) * 2 ^ 128 + capLow + 2 ^ 64)
     decide (capRights 0 < 2) && isSomeAnd (s.qEnabled (capQidx cap)) (fun e => e.halt && (s.devLoad e.asid e.wpa 8).isSome && decide (e.rpa ≠ 0) &&
         match s.translate e.asid e.rpa .w with | .ok key cls _ => decide (cls ≤ 1) && (match s.homeOf key with | .peer _ => false | _ => true) | _ => false) &&
       !s.masterFrozen (.hart 3 false) && s.fab.acache.isEmpty && decide (capMac cap = s.seal cap) && decide (capRights cap / 4 = 0) && decide (2 ≤ capRights cap) && decide (capRights cap % 2 = 1) &&
       isSomeAnd ((halted { (qent 1 false) with wpa := 0x20301 }).qEnabled 0) (fun e => decide (e.wpa % 8 ≠ 0)) &&
       (let u := halted { (qent 1 false) with wpa := 0x50000 }
        decide (u.devLoad 1 0x50000 8 = none) && !u.devBusy 1 0x50000 .r)) = true := by decide +kernel
/-- QTAB is disabled with two entries cached. -/
def twoCached : State :=
  let s := withLeaf 0x1F (withQueue (qent 1 false) (at_ (.nop h0)))
  { s with regs := { s.regs with qtab := BitVec.ofNat 64 (2 ^ 63 + 2 ^ 62 + 0x20000) }, agents := { s.agents with cache := [(96, qent 1 false), (97, qent 1 true)] } }
def entryKey (u : State) (n : Nat) : Nat := match u.translate 0 (twoCached.qtabBase + 256 * n) .w with | .ok key .. => key | _ => 0
theorem test_wit_WakesAndTheQueueTable_disabled :
    twoCached.qtabEn = true ∧ 0 < entryKey twoCached 96 ∧
    entryKey twoCached 96 + 256 ≤ entryKey (twoCached.qWriteBack 96 (qent 1 false)) 97 := by decide +kernel

/-- A save that a FREEZE waits for, a host's pre-emption of two cores, and a core alone. -/
theorem test_wit_SavesAndPreemption_requests :
    (let s := two id id
     let w := { s with agents := { s.agents with saves := [(r0, 5, 2, hbmKey 0 0x30300)] } }
     is2 w (fun k => quiet2 k && w.saveReady 0 0 k && decide (k.uid = 2))) = true ∧
    (let bar := fun (c : Core) => { c with barred := [(1, 0, 0)] }
     let s := ((two (fun k => { k with saving := some 9 }) id).updCore 0 bar).updCore 1 bar
     is2 s (fun k => decide (k.saving = some 9)) && decide (s.barredWith 0 1 = [0, 1]) && ((s.barredWith 0 1).all fun c => (s.ofContext c 1).all fun e =>
       (s.copiesOf c e.2.uid).isEmpty && (s.ticketsOf e.2.uid).isEmpty)) = true ∧
    (let s := two (fun k => { k with saving := some 9 }) id
     decide (s.barredWith 0 1 = [0]) && decide ((s.ofContext 0 1).map Prod.fst = [0])) = true := by decide +kernel
/-- A thread in a run, and one whose table entry a rebuild finds lost. -/
theorem test_wit_CausesBetweenRunsAndTheDebugger_rebuild :
    (let s := { at_ (.nop h0) with plat := { Platform.reset with sec := .openDebug, dbg := .halt } }
     s.inRun 0 16 0 && isSomeAnd (s.task? 0 16) (fun k => decide (s.dbgOf k.asid = .halt)) && isSomeAnd (s.thread? r0) fun t => !t.ended && !t.halted) = true ∧
    (let s := two id id
     Assoc.wf s.threads && (Assoc.find? s.plat.illegalAt 0).isNone && is2 s (fun k => !k.stopping) && isSomeAnd (s.thread? r1) fun t => !t.ended) = true := by decide +kernel
/-- A ticket of a launch whose task is no longer here. -/
theorem test_wit_TicketsAreServed_launch :
    (let s := withLaunch (launchRec .check 0 0) (hasTicket true 0 false (at_ (.nop h0)))
     let s : State := { s with agents := { s.agents with tickets := s.agents.tickets.map fun (e : Nat × Ticket) => (e.1, { e.2 with lnum := some 4, ref := ⟨9, 0, 0⟩ }) } }
     isSomeAnd (Assoc.find? s.agents.tickets 7) (fun t => t.open_ && !t.served && decide (t.lnum = some 4) && (s.task? t.ref.core t.ref.slot).isNone) &&
       (Assoc.find? s.agents.launches 4).isSome) = true := by decide +kernel

/-- Another chip's accesses: the cells of a commit, a page that reads as zeros, and the wake port. -/
theorem test_wit_OtherMastersReachMemory_forms :
    (let cells : List (Nat × Byte) := [(0x20040, 1), (0x20041, 2)]
     decide (cells.Pairwise fun a b => a.1 ≠ b.1) && cells.all fun e => decide (0x20040 ≤ e.1)) = true ∧
    (withZeroPage (at_ (.nop h0))).locate 0 0x30000 .r = .zero ∧ (withLeaf wakeLeaf (at_ (.nop h0))).locate 0 0x30020 .r = .wake 0x20 ∧
    inRecovery.up = false := by decide +kernel
def withBias (b : Bias) (s : State) : State := { s with host := { s.host with bias := [(hbmKey 0 0x50000 / 2 ^ 16, b)], cxlWaits := [(0x50008, some [1], 1)] } }
/-- A granule in each state of its bias; one that goes to the host, with an operation in flight and with an access that waits. -/
theorem test_wit_OtherMastersReachMemory_bias :
    ([.host, .dev, .todev, .tohost] : List Bias).all (fun b => decide (Assoc.find? (withBias b State.reset).host.bias (hbmKey 0 0x50008 / 2 ^ 16) = some b)) = true ∧
    ({ withBias .tohost State.reset with invs := [(3, { core := 1, lo := hbmKey 0 0x50040, n := 32, writers := [] })] } : State).granuleBusy (hbmKey 0 0x50008 / 2 ^ 16) = true ∧
    (withBias .tohost State.reset).granuleBusy (hbmKey 0 0x50008 / 2 ^ 16) = false ∧ (withBias .tohost State.reset).host.cxlWaits = [(0x50008, some [1], 1)] := by decide +kernel
/-- A hart's addresses: host memory, outside the map, this chip's port and another's. -/
theorem test_wit_HartsAccessMemory_places :
    (let s := withHart { Hart.reset with dasid := 1 } State.reset
     s.hartHere 3 && decide ((s.hart 3).dasid ≠ 0) && (match s.hartPlace (2 ^ 47 + 64) with
         | .host key => !s.hartClash 3 0x1000 key true && (Assoc.find? s.host.bias (key / 2 ^ 16)).isNone && decide (s.homeOf key = .host)
         | _ => false) && decide (s.hartPlace 0x0E0000000000 = .fault) &&
       decide (s.hartPlace 0x0F0000000020 = .port 0 0x20) && decide (s.hartPlace 0x0F0000001008 = .port 1 8)) = true := by decide +kernel

/-- A packet for another chip on its first hop, one that came by its last, and a marker that lets the next packet in its turn go. -/
def hdOn (vc : Nat) (via : LinkType) : FabHdr := { hd1 0 with tgt := 5, vc := vc, via := via }
theorem test_wit_PeersAndPackets_onward : State.reset.up = true ∧ (hdOn 0 .die).tgt ≠ State.reset.chip.toNat ∧
    FabHdr.bad (hdOn 0 .die) (hdOn 0 .die).tinc = false ∧ FabHdr.hop (hdOn 0 .die) = some ⟨1, .die, 0⟩ ∧ FabHdr.hop (hdOn 5 .local_) = none ∧
    ∃ h2, pickHop 0 1 5 0 State.reset.free (some ⟨1, .die, 0⟩) = some h2 := by
  refine ⟨by decide, by decide +kernel, by decide +kernel, by decide +kernel, by decide +kernel, ⟨2, .local_, 0⟩, ?_⟩
  have hs : hopsTo 0 5 0 (some ⟨1, .die, 0⟩) = [⟨2, .local_, 0⟩] := by decide +kernel
  simp [pickHop, hs, Nat.mod_one]
theorem test_wit_PeersAndPackets_turn :
    (let p : Peer := { st := .reachable, inc := 0, since := 0, oseqOut := 0, oseqIn := 4, pend := [(5, .vein (pkt 0 1))] }
     decide ((hd1 4).oseq = p.oseqIn) && decide (p.pend = [((p.oseqIn + 1) % 2 ^ 16, .vein (pkt 0 1))]) && decide ((hd1 5).oseq ≠ p.oseqIn) && p.pend.any fun e => e.1 == (hd1 5).oseq) = true ∧
    inRecovery.up = false := by decide +kernel
/-- The chip is its fabric's grandmaster; a store that waited for a held peer; and a set in no freeze. -/
theorem test_wit_TimeAndReconfiguration_waits :
    ({ State.reset.fab with grand := some 0 } : Fabric).grand = some State.reset.chip.toNat ∧ State.reset.fab.grand ≠ some State.reset.chip.toNat ∧
    (let s : State := { withPeer .held 0 0 (at_ (.nop h0)) with rws := [(6, rw1)], out := [.remote 1 6] }
     let s : State := { s with fab := { s.fab with reconf := some { links := [2], unacked := [], darkSince := some 5, ordered := [], routed := [] }, waits := [(0, 1)] } }
     s.fab.reconf.isSome && decide (s.fab.peers.map Prod.fst = [1]) && s.fab.asleep.isEmpty && s.veins.isEmpty && decide (s.out[0]? = some (.remote 1 6)) &&
       isSomeAnd (Assoc.find? s.rws 6) (fun w => w.copy.isNone && decide (w.thrs = [0]) && decide (s.findUid w.uid = some (0, 16))) && (s.task? 0 16).isSome && (s.thread? ⟨0, 16, 0⟩).isSome) = true ∧
    vset.frozen = [] ∧ State.reset.plat.power ≠ .s2 ∧ inRecovery.up = false := by decide +kernel
/-- Cores between runs and in one; the releases of a force; and S2's end. -/
theorem test_wit_PowerStates_runs :
    State.reset.runs = [] ∧ (at_ (.nop h0)).runs ≠ [] ∧ (State.reset.tasks = [] ∧ State.reset.veins = []) ∧ inRecovery.up = false ∧
    (({ Platform.reset with thermForce := true, power := .a1 } : Platform).capForce = false ∧ ({ Platform.reset with thermForce := true, power := .a1 } : Platform).wantA1 = false) ∧
    ({ Platform.reset with power := .s2 } : Platform).sec ≠ .recovery := by decide +kernel

/-- The published example of a signature under SM2: the message "message digest", under the recommended curve. -/
def beBytes (n v : Nat) : List Byte := (leBytes n v).reverse
def pubKey : List Byte :=
  beBytes 64 0x09F9DF311E5421A150DD7D161E4BC5C672179FAD1833FC076BB08FF356F35020CCEA490CE26775A52DC6EA718CC1AA600AED05FBF35E084A6632F6072DA9AD13
theorem test_sm2_published : Sm2.verify pubKey
    (beBytes 64 0xF5A03B0648D2C4630EEAC513E1BB81A15944DA3827D5B74143AC7EACEEE720B3B1B6AA29DF212FD8763182BC0D421CA1BB9038FD1F7F42D4840B69C485BBC1AA)
    (("message digest".toList).map fun c => BitVec.ofNat 8 c.toNat) = true := by decide +kernel
/-- A slot of no code, SVN 5, under that key: its header and the signature of it, made outside the model. -/
def slotHead : List Byte := leBytes 4 0x56425259 ++ leBytes 4 5 ++ leBytes 8 0 ++
  beBytes 32 0x1AB21D8355CFA17F8E61194831E81A8F22BEC8C728FEFB747ED035EB5082AA2B ++ pubKey
def slotSig : List Byte :=
  beBytes 64 0xD07D72D327278C7A093ACE4C13AA49D90AC0E0252F64D4FB5F6AD300E0E11AEF53D238FC021B04879CB6990BD8BEBD74249606B12A65F0AD10746FC845319030
theorem slot_signed : Sm2.verify pubKey slotSig slotHead = true := by decide +kernel
/-- The slot in flash as A and in the staging area, its key's digest fused, in Recovery or not. -/
def withSlot (sec : Sec) (power : Power) : State :=
  { State.reset with
    mem := Memory.writeN (Memory.writeN [] (flashKey 0 0) (slotHead ++ slotSig)) (stageKey 0) (slotHead ++ slotSig)
    plat := { Platform.reset with sec := sec, power := power, khash := beBytes 32 0x3D92BED6D685F38BFF5CCD052119E1ECC071C2F3D915245C8D9C5A2CB131A89D, total := 256 } }
/-- A slot passes the boot ROM's steps where its magic, length, key, signature, SVN and digest are right. -/
theorem slotFault_zero (s : State) (slot : Nat) (hm : s.peekN (slotKey slot) 4 = 0x56425259) (hz : s.peekN (slotKey slot + 0xB0) 80 = 0) (hl : s.slotLen slot = 0)
    (hk : Sm3.digest (s.peek (slotKey slot + 0x30) 64) = s.plat.khash)
    (hv : Sm2.verify (s.peek (slotKey slot + 0x30) 64) (s.peek (slotKey slot + 0x70) 64) (s.peek (slotKey slot) 0x70) = true)
    (ha : s.plat.arb ≤ s.slotSvn slot) (hd : Sm3.digest (s.peek (slotKey slot + 256) 0) = s.slotDig slot) : s.slotFault slot = 0 := by
  simp [State.slotFault, hl, hm, hz, hk, hv, hd, Nat.not_lt.mpr ha]
def slotReads (s : State) (slot : Nat) : Bool :=
  decide (s.peek (slotKey slot + 0x30) 64 = pubKey) && decide (s.peek (slotKey slot + 0x70) 64 = slotSig) && decide (s.peek (slotKey slot) 0x70 = slotHead)
theorem slot_valid (s : State) (slot : Nat) (hr : slotReads s slot = true)
    (hc : s.peekN (slotKey slot) 4 = 0x56425259 ∧ s.peekN (slotKey slot + 0xB0) 80 = 0 ∧ s.slotLen slot = 0 ∧ Sm3.digest (s.peek (slotKey slot + 0x30) 64) = s.plat.khash ∧
      s.plat.arb ≤ s.slotSvn slot ∧ Sm3.digest (s.peek (slotKey slot + 256) 0) = s.slotDig slot) : s.slotFault slot = 0 := by
  simp only [slotReads, Bool.and_eq_true, decide_eq_true_eq] at hr
  obtain ⟨⟨h1, h2⟩, h3⟩ := hr
  obtain ⟨c1, c2, c3, c4, c5, c6⟩ := hc
  exact slotFault_zero s slot c1 c2 c3 c4 (by rw [h1, h2, h3]; exact slot_signed) c5 c6
theorem slot_a_valid : (withSlot .sealed .s2).slotFault 0 = 0 := slot_valid (withSlot .sealed .s2) 0 (by decide +kernel) (by decide +kernel)
theorem slot_staged_valid : (withSlot .recovery .a0).slotFault 2 = 0 := slot_valid (withSlot .recovery .a0) 2 (by decide +kernel) (by decide +kernel)
/-- A boot that finds slot A valid at every chip, and one that finds none; a staged slot that is valid. -/
theorem test_wit_ResetsAndRecovery_boots :
    (withSlot .sealed .s2).bootSlot { aValid := true, bValid := false } ≠ none ∧ (withSlot .sealed .s2).bootSlot { aValid := false, bValid := false } = none ∧
    (withSlot .recovery .a0).slotFault 2 = 0 ∧ (withSlot .sealed .s2).up = true ∧ (withSlot .sealed .s3).plat.power = .s3 := by
  refine ⟨?_, ?_, slot_staged_valid, by decide +kernel, by decide +kernel⟩
  · simp [State.bootSlot, slot_a_valid]
  · simp [State.bootSlot]
/-- A trace page whose granule changes its bias, and one whose set holds commits. -/
theorem test_wit_ReportsAndTraces_waits :
    (let s := withTrace 0x28000
     let b := { s with host := { s.host with bias := [(hbmKey 0 0x38000 / 2 ^ 16, .tohost)] } }
     b.devBusy 0 0x28000 .w && !s.devBusy 0 0x28000 .w && !s.storeWaits 0 0x28000) = true ∧
    ({ withTrace 0x28000 with plat := { Platform.reset with sec := .openDebug } } : State).plat.sec = .openDebug := by decide +kernel
theorem test_wit_StepRunsTheDecodedWord_caches : (at_ (.nop h0)).fab.acache = [] := by decide +kernel

end Tests
end Sys2Proof
end

section
/-! O58: registers, predicates, special operands and memory read back (R12, R96, R98, R99). -/

namespace Sys2Proof

/- ## Little-endian bytes (R12) -/

@[simp] theorem length_leBytes (n : Nat) : ∀ v, (leBytes n v).length = n := by
  induction n with
  | zero => intro v; rfl
  | succ n ih => intro v; rw [leBytes, List.length_cons, ih]

/-- The n bytes of a number give it back, up to what n bytes hold. -/
theorem leNat_leBytes_mod (n : Nat) : ∀ v, leNat (leBytes n v) = v % 256 ^ n := by
  induction n with
  | zero => intro v; simp [leBytes, leNat, Nat.mod_one]
  | succ n ih =>
    intro v
    rw [leBytes, leNat, ih, BitVec.toNat_ofNat, Nat.pow_succ' (m := 256), Nat.mod_mul]

theorem Memory.leNat_readN_writeN_leBytes (m : Map Byte) (a : Nat) {n v : Nat} (h : v < 256 ^ n) :
    leNat (Memory.readN (Memory.writeN m a (leBytes n v)) a n) = v := by
  have hread : Memory.readN (Memory.writeN m a (leBytes n v)) a n = leBytes n v := by
    simpa only [length_leBytes] using Memory.readN_writeN (leBytes n v) m a
  rw [hread, leNat_leBytes_mod, Nat.mod_eq_of_lt h]

namespace Machine

/- ## Vector registers (R96) -/

/-- The write of a vector register, as one update of the register file. -/
theorem Thread.put_reg (t : Thread) {n : Nat} (w : Word) (h : n < 1024) :
    t.put n w = { t with regs := Assoc.setD t.regs 0 n w } := if_pos h

/-- A pair's write reads back from its two registers, the low half in the lower one (R63). -/
theorem Thread.reg_puts_putD (t : Thread) {n : Nat} (v : DWord) (h : n + 1 < 1024) :
    (t.puts (putD (.v n) v)).reg n = v.extractLsb' 0 32 ∧
      (t.puts (putD (.v n) v)).reg (n + 1) = v.extractLsb' 32 32 := by
  simp only [putD, Thread.puts]
  constructor
  · rw [Thread.reg_put_ne _ _ _ _ (by omega), Thread.reg_put_same _ _ _ (by omega)]
  · exact Thread.reg_put_same _ _ _ h

/- ## Predicates (R96) -/

/-- The predicate file with one predicate written. -/
def setPred (ps : BitVec 16) (p : Nat) (b : Bool) : BitVec 16 :=
  if b then ps ||| BitVec.ofNat 16 (2 ^ p) else ps &&& ~~~(BitVec.ofNat 16 (2 ^ p))

theorem getLsbD_setPred (ps : BitVec 16) {p r : Nat} (b : Bool) (hr : r < 16) :
    (setPred ps p b).getLsbD r = if r = p then b else ps.getLsbD r := by
  have hbit : (BitVec.ofNat 16 (2 ^ p)).getLsbD r = decide (r = p) := by
    rw [BitVec.getLsbD_ofNat, Nat.testBit_two_pow, decide_eq_true hr, Bool.true_and, decide_eq_decide]
    exact eq_comm
  cases b with
  | true =>
    rw [setPred, if_pos rfl, BitVec.getLsbD_or, hbit]
    by_cases h : r = p <;> simp [h]
  | false =>
    rw [setPred, if_neg Bool.false_ne_true, BitVec.getLsbD_and, BitVec.getLsbD_not, hbit]
    by_cases h : r = p <;> simp [h, hr]

@[simp] theorem Thread.puts_putP_zero (t : Thread) (b : Bool) : t.puts (putP 0 b) = t := rfl

/-- The write of a predicate other than p0, as one update of the predicate file. -/
theorem Thread.put_pred (t : Thread) {p : Nat} (w : Word) (hp : p ≠ 0) :
    t.put (1024 + p) w = { t with preds := setPred t.preds p (w != 0) } := by
  rw [Thread.put, if_neg (by omega), if_neg (by omega), setPred, Nat.add_sub_cancel_left]
  by_cases hw : w = 0 <;> simp [hw]

theorem Thread.puts_putP (t : Thread) {p : Nat} (b : Bool) (hp : p ≠ 0) :
    t.puts (putP p b) = { t with preds := setPred t.preds p b } := by
  cases b <;> exact t.put_pred _ hp

/-- A predicate reads what was written, p0 true all the same. -/
theorem Thread.pred_puts_putP_same (t : Thread) {p : Nat} (b : Bool) (hp : p < 16) :
    (t.puts (putP p b)).pred p = (b || p == 0) := by
  by_cases h0 : p = 0
  · subst h0; simp
  · simp [Thread.puts_putP t b h0, Thread.pred, getLsbD_setPred _ _ hp, Bool.or_comm]

theorem Thread.pred_puts_putP_ne (t : Thread) {p r : Nat} (b : Bool) (hr : r < 16) (hne : r ≠ p) :
    (t.puts (putP p b)).pred r = t.pred r := by
  by_cases h0 : p = 0
  · subst h0; simp
  · simp [Thread.puts_putP t b h0, Thread.pred, getLsbD_setPred _ _ hr, hne]

theorem Thread.regs_puts_putP (t : Thread) (p : Nat) (b : Bool) : (t.puts (putP p b)).regs = t.regs := by
  by_cases h0 : p = 0
  · subst h0; simp
  · rw [Thread.puts_putP t b h0]

/- ## Special operands (R98, R99) -/

/-- A special operand reads its value at either width. -/
theorem Ctx.reads_special (x : Ctx) {k n : Nat} (h : x.special k = n) :
    x.w (.sp k) = BitVec.ofNat 32 n ∧ x.d (.sp k) = BitVec.ofNat 64 n := by
  subst h; exact ⟨rfl, rfl⟩

theorem Ctx.special_rank (x : Ctx) {n : Nat} {v : VeinSet} (h : x.s.veinOf x.k.asid = some (n, v)) :
    x.special 6 = v.rank := by
  simp [Ctx.special, h]

theorem Ctx.special_rank_none (x : Ctx) (h : x.s.veinOf x.k.asid = none) : x.special 6 = 0xFFFFFFFF := by
  simp [Ctx.special, h]

theorem Ctx.special_widField (x : Ctx) {i : Nat} (h : i < 6) :
    x.special (8 + i) = (widFields x.k.hd x.r.thr x.k.tidx).getD i 0 := by
  match i, h with
  | 0, _ | 1, _ | 2, _ | 3, _ | 4, _ | 5, _ => rfl

/-- Settles O58: the register, predicate and memory rules above, and R98's table row by row. -/
theorem registersAndMemoryReadBack : Obligations.RegistersAndMemoryReadBack := by
  unfold Obligations.RegistersAndMemoryReadBack
  refine ⟨⟨?vector, ?predicate, ?nil, ?special⟩, ?memory⟩
  case vector =>
    intro t n w hn
    refine ⟨t.reg_put_same n w hn, ?_, ?_, t.pc_put n w, fun m hm => t.reg_put_ne n m w hm⟩ <;>
      rw [t.put_reg w hn]
  case predicate =>
    intro t p b hp
    exact ⟨t.pred_puts_putP_same b hp, t.regs_puts_putP p b, fun r hr hne => t.pred_puts_putP_ne b hr hne⟩
  case nil =>
    intro x w v
    exact ⟨rfl, rfl, rfl, rfl, rfl, fun n hn => x.t.reg_puts_putD v hn⟩
  case special =>
    intro x
    exact ⟨x.reads_special rfl, x.reads_special rfl, x.reads_special rfl, x.reads_special rfl, x.reads_special rfl,
      x.reads_special rfl, fun _ _ hv => x.reads_special (x.special_rank hv),
      fun hv => x.reads_special (x.special_rank_none hv), x.reads_special rfl,
      fun _ hi => x.reads_special (x.special_widField hi), x.reads_special rfl, x.reads_special rfl⟩
  case memory =>
    intro m a bs
    exact ⟨Memory.readN_writeN bs m a, Memory.read_writeN_out bs m a, Memory.wf_writeN bs m a,
      fun _ _ hv => Memory.leNat_readN_writeN_leBytes m a hv⟩

end Machine
end Sys2Proof
end

section
/-! O2: integer values wrapped and clamped (R66, R67), and division, remainder and magnitude on them (R159). -/

namespace Sys2Proof
namespace Machine

/- ## The range of a type (R66) -/

theorem Ty.lo_nonpos (t : Ty) : Ty.lo t ≤ 0 := by cases t <;> decide

theorem Ty.hi_nonneg (t : Ty) : 0 ≤ Ty.hi t := by cases t <;> decide

theorem Ty.lo_le_hi (t : Ty) : Ty.lo t ≤ Ty.hi t := (Ty.lo_nonpos t).trans (Ty.hi_nonneg t)

/-- A type's range has one value for each code of its bits. -/
theorem Ty.hi_succ (t : Ty) : Ty.hi t + 1 = Ty.lo t + 2 ^ Ty.bits t := by cases t <;> decide

/-- A signed type's minimum alone has no magnitude in its range. -/
theorem Ty.hi_succ_of_signed {t : Ty} (h : Ty.signed t = true) : Ty.hi t + 1 = -Ty.lo t := by
  simp [Ty.lo, Ty.hi, h]

theorem Ty.lo_of_unsigned {t : Ty} (h : Ty.signed t = false) : Ty.lo t = 0 := by simp [Ty.lo, h]

/-- A value of the type's range. -/
def Ty.Fits (t : Ty) (z : Int) : Prop := Ty.lo t ≤ z ∧ z ≤ Ty.hi t

/- ## The value that bits hold (R142) -/

/-- The value of a code is the code modulo 2^n, less 2^n where it lies above the range. -/
theorem Ty.exact_eq (t : Ty) (v : Nat) :
    Ty.exact t v = (v : Int) % 2 ^ Ty.bits t - if Ty.hi t < (v : Int) % 2 ^ Ty.bits t then 2 ^ Ty.bits t else 0 := by
  have hlt : (v : Int) % 2 ^ Ty.bits t < 2 ^ Ty.bits t := Int.emod_lt_of_pos _ (by positivity)
  cases h : Ty.signed t with
  | true =>
    have hsign : 2 ^ (Ty.bits t - 1) ≤ v % 2 ^ Ty.bits t ↔ Ty.hi t < (v : Int) % 2 ^ Ty.bits t := by
      zify; simp only [Ty.hi, h, if_true]; omega
    by_cases hv : Ty.hi t < (v : Int) % 2 ^ Ty.bits t <;> simp [Ty.exact, h, hsign, hv]
  | false =>
    have hv : ¬ Ty.hi t < (v : Int) % 2 ^ Ty.bits t := by
      simp only [Ty.hi, h, Bool.false_eq_true, if_false]; omega
    simp [Ty.exact, h, hv]

theorem Ty.fits_exact (t : Ty) (v : Nat) : Ty.Fits t (Ty.exact t v) := by
  have hnonneg : 0 ≤ (v : Int) % 2 ^ Ty.bits t := Int.emod_nonneg _ (by positivity)
  have hlt : (v : Int) % 2 ^ Ty.bits t < 2 ^ Ty.bits t := Int.emod_lt_of_pos _ (by positivity)
  have hlo := Ty.lo_nonpos t
  have hhi := Ty.hi_nonneg t
  have hsucc := Ty.hi_succ t
  rw [Ty.Fits, Ty.exact_eq]
  split <;> omega

theorem Ty.exact_emod (t : Ty) (v : Nat) : Ty.exact t v % 2 ^ Ty.bits t = (v : Int) % 2 ^ Ty.bits t := by
  rw [Ty.exact_eq]
  split <;> simp

/-- Among the values that agree with a code modulo 2^n, the code's value is the one in range. -/
theorem Ty.exact_eq_of_fits {t : Ty} {v : Nat} {z : Int} (hz : Ty.Fits t z)
    (hmod : (v : Int) % 2 ^ Ty.bits t = z % 2 ^ Ty.bits t) : Ty.exact t v = z := by
  obtain ⟨hlo, hhi⟩ := Ty.fits_exact t v
  obtain ⟨hzlo, hzhi⟩ := hz
  have hsucc := Ty.hi_succ t
  have hdvd : (2 ^ Ty.bits t : Int) ∣ Ty.exact t v - z := by
    refine Int.ModEq.dvd (Int.ModEq.symm ?_)
    rw [Int.ModEq, Ty.exact_emod, hmod]
  exact sub_eq_zero.mp (Int.eq_zero_of_abs_lt_dvd hdvd (abs_lt.mpr ⟨by omega, by omega⟩))

/- ## Wrap and clamp (R67) -/

theorem Ty.clamp_of_fits {t : Ty} {z : Int} (hz : Ty.Fits t z) : Ty.clamp t z = z := by
  obtain ⟨hlo, hhi⟩ := hz
  rw [Ty.clamp, if_neg (by omega), if_neg (by omega)]

theorem Ty.clamp_of_hi_lt {t : Ty} {z : Int} (hz : Ty.hi t < z) : Ty.clamp t z = Ty.hi t := by
  have hle := Ty.lo_le_hi t
  rw [Ty.clamp, if_neg (by omega), if_pos hz]

theorem Ty.round_emod (t : Ty) (z : Int) (sat : Bool) :
    (Ty.round t z sat : Int) % 2 ^ Ty.bits t = (if sat then Ty.clamp t z else z) % 2 ^ Ty.bits t := by
  rw [Ty.round, Int.toNat_of_nonneg (Int.emod_nonneg _ (by positivity)), Int.emod_emod]

/-- A value in range is neither wrapped nor clamped. -/
theorem Ty.exact_round_of_fits {t : Ty} {z : Int} (hz : Ty.Fits t z) (sat : Bool) :
    Ty.exact t (Ty.round t z sat) = z := by
  refine Ty.exact_eq_of_fits hz ?_
  rw [Ty.round_emod, Ty.clamp_of_fits hz, ite_self]

/-- The first value above the range wraps to the minimum, and clamps to the maximum under .sat. -/
theorem Ty.exact_round_hi_succ (t : Ty) (sat : Bool) :
    Ty.exact t (Ty.round t (Ty.hi t + 1) sat) = if sat then Ty.hi t else Ty.lo t := by
  have hle := Ty.lo_le_hi t
  cases sat with
  | true =>
    rw [if_pos rfl]
    refine Ty.exact_eq_of_fits ⟨hle, le_rfl⟩ ?_
    rw [Ty.round_emod, if_pos rfl, Ty.clamp_of_hi_lt (lt_add_one _)]
  | false =>
    rw [if_neg Bool.false_ne_true]
    refine Ty.exact_eq_of_fits ⟨le_rfl, hle⟩ ?_
    rw [Ty.round_emod, if_neg Bool.false_ne_true, Ty.hi_succ, Int.add_emod_right]

/- ## Quotients, remainders and magnitudes (R159) -/

/-- A remainder is in its dividend's range, since it lies between zero and the dividend. -/
theorem Ty.fits_tmod {t : Ty} {a : Int} (ha : Ty.Fits t a) (b : Int) : Ty.Fits t (a.tmod b) := by
  obtain ⟨halo, hahi⟩ := ha
  have hlo := Ty.lo_nonpos t
  have hhi := Ty.hi_nonneg t
  have habs : (a.tmod b).natAbs ≤ a.natAbs := by rw [Int.natAbs_tmod]; exact Nat.mod_le _ _
  rw [Ty.Fits]
  rcases le_total 0 a with hpos | hneg
  · have hsign := Int.tmod_nonneg b hpos
    omega
  · have hsign : 0 ≤ -a.tmod b := by
      rw [← Int.neg_tmod]; exact Int.tmod_nonneg b (by omega)
    omega

/-- A quotient toward zero leaves the range at most by one, above it. -/
theorem Ty.tdiv_bounds {t : Ty} {a b : Int} (ha : Ty.Fits t a) (hb : Ty.Fits t b) :
    Ty.lo t ≤ a.tdiv b ∧ a.tdiv b ≤ Ty.hi t + 1 := by
  obtain ⟨halo, hahi⟩ := ha
  obtain ⟨hblo, -⟩ := hb
  have habs := Int.natAbs_tdiv_le_natAbs a b
  cases h : Ty.signed t with
  | true =>
    have hsucc := Ty.hi_succ_of_signed h
    omega
  | false =>
    have hlo := Ty.lo_of_unsigned h
    have hsign : 0 ≤ a.tdiv b := Int.tdiv_nonneg (by omega) (by omega)
    omega

theorem iremVal_of_eq_zero (a : Int) {b : Int} (h0 : b = 0) : iremVal a b = a := if_pos h0

theorem iremVal_of_ne_zero (a : Int) {b : Int} (h0 : b ≠ 0) : iremVal a b = a.tmod b := if_neg h0

theorem idivVal_of_eq_zero (t : Ty) (sat : Bool) (a : Int) {b : Int} (h0 : b = 0) :
    idivVal t sat a b = 2 ^ Ty.bits t - 1 := if_pos h0

theorem idivVal_of_ne_zero (t : Ty) (sat : Bool) (a : Int) {b : Int} (h0 : b ≠ 0) :
    idivVal t sat a b = Ty.round t (a.tdiv b) sat := if_neg h0

/-- The remainder by zero is the dividend. -/
theorem exact_iremVal_of_eq_zero {t : Ty} {a b : Int} (ha : Ty.Fits t a) (h0 : b = 0) :
    Ty.exact t (Ty.round t (iremVal a b) false) = a := by
  rw [iremVal_of_eq_zero a h0, Ty.exact_round_of_fits ha]

/-- Any other remainder is what the quotient toward zero leaves of the dividend. -/
theorem exact_iremVal_of_ne_zero {t : Ty} {a b : Int} (ha : Ty.Fits t a) (h0 : b ≠ 0) :
    Ty.exact t (Ty.round t (iremVal a b) false) = a - b * a.tdiv b := by
  rw [iremVal_of_ne_zero a h0, Ty.exact_round_of_fits (Ty.fits_tmod ha b), Int.tmod_def]

/-- The quotient in range is the result. -/
theorem exact_idivVal_of_le {t : Ty} (sat : Bool) {a b : Int} (ha : Ty.Fits t a) (hb : Ty.Fits t b) (h0 : b ≠ 0)
    (hq : a.tdiv b ≤ Ty.hi t) : Ty.exact t (idivVal t sat a b) = a.tdiv b := by
  rw [idivVal_of_ne_zero t sat a h0, Ty.exact_round_of_fits ⟨(Ty.tdiv_bounds ha hb).1, hq⟩]

/-- The one quotient above the range, of the minimum by −1, wraps or clamps. -/
theorem exact_idivVal_of_lt {t : Ty} (sat : Bool) {a b : Int} (ha : Ty.Fits t a) (hb : Ty.Fits t b) (h0 : b ≠ 0)
    (hq : Ty.hi t < a.tdiv b) : Ty.exact t (idivVal t sat a b) = if sat then Ty.hi t else Ty.lo t := by
  have hsucc : a.tdiv b = Ty.hi t + 1 := le_antisymm (Ty.tdiv_bounds ha hb).2 hq
  rw [idivVal_of_ne_zero t sat a h0, hsucc, Ty.exact_round_hi_succ]

/-- The magnitude of a signed type's minimum wraps or clamps. -/
theorem Ty.exact_round_natAbs_of_lo {t : Ty} (ht : Ty.signed t = true) (sat : Bool) {a : Int} (ha : a = Ty.lo t) :
    Ty.exact t (Ty.round t (a.natAbs : Int) sat) = if sat then Ty.hi t else Ty.lo t := by
  rw [ha, Int.ofNat_natAbs_of_nonpos (Ty.lo_nonpos t), ← Ty.hi_succ_of_signed ht, Ty.exact_round_hi_succ]

/- ## The words -/

/-- A word whose own effect is that of a long computation puts its result in flight (R119, R129). -/
theorem longWrites_of {i : Instr} {f : Ctx → List (Nat × Word)}
    (he : ∀ s, exec i s = .next (issue i (longWrites i f) s)) : LongWrites i f :=
  goesOn_of he (fun _ _ _ _ _ _ => rfl) fun _ _ _ => ⟨_, rfl, rfl⟩

/-- Settles O2: the words' effects are the model's own values, and each case of R159 is a lemma on those values. -/
theorem divisionInEveryCase : Obligations.DivisionInEveryCase := by
  unfold Obligations.DivisionInEveryCase
  intro h ty sat d a b
  refine ⟨fun x => idivVal ty sat (Ty.exact ty (x.ty ty a)) (Ty.exact ty (x.ty ty b)),
    fun x => Ty.round ty (iremVal (Ty.exact ty (x.ty ty a)) (Ty.exact ty (x.ty ty b))) false,
    fun x => Ty.round ty ((Ty.exact ty (x.ty ty a)).natAbs : Int) sat,
    longWrites_of fun _ => rfl, longWrites_of fun _ => rfl, groupWrites_of fun _ => rfl,
    fun x => ⟨?byZero, ?byNonzero, ?minimum⟩⟩
  case byZero =>
    intro h0
    exact ⟨idivVal_of_eq_zero ty sat _ h0, exact_iremVal_of_eq_zero (Ty.fits_exact ty _) h0⟩
  case byNonzero =>
    intro h0
    have ha := Ty.fits_exact ty (x.ty ty a)
    have hb := Ty.fits_exact ty (x.ty ty b)
    exact ⟨exact_iremVal_of_ne_zero ha h0, exact_idivVal_of_le sat ha hb h0, exact_idivVal_of_lt sat ha hb h0⟩
  case minimum =>
    intro hty hmin
    have hsigned : Ty.signed ty = true := by rcases hty with rfl | rfl <;> rfl
    exact Ty.exact_round_natAbs_of_lo hsigned sat hmin

end Machine
end Sys2Proof
end

section
/-! O43: the record that a DLOG appends to the deputy log (R427, R459, R461). -/

namespace Sys2Proof
namespace Machine

variable (s : State)

/- ## An append to the deputy log (R459) -/

@[simp] theorem State.deputy_dseq (kind unit_ asid arg0 arg1 : Nat) :
    (s.deputy kind unit_ asid arg0 arg1).dseq = s.dseq + 1 := rfl

@[simp] theorem State.thread?_deputy (kind unit_ asid arg0 arg1 : Nat) (r : TRef) :
    (s.deputy kind unit_ asid arg0 arg1).thread? r = s.thread? r := rfl

/-- The record stands at the log's next index, with the device's TIME, SEQN and INC. -/
theorem State.find?_dlog_deputy (kind unit_ asid arg0 arg1 : Nat) :
    Assoc.find? (s.deputy kind unit_ asid arg0 arg1).dlog (s.dseq % 16384) =
      some { time := s.clk.time, seqn := s.dseq % 2 ^ 32, kind, inc := s.inc.toNat, unit_, asid, arg0, arg1 } :=
  Assoc.find?_put_same _ _ _

/- ## The firmware's record (R461) -/

variable (bs : List Byte)

@[simp] theorem State.dlogPut_dseq : (s.dlogPut bs).dseq = s.dseq + 1 := s.deputy_dseq _ _ _ _ _

@[simp] theorem State.dlogPut_mem : (s.dlogPut bs).mem = s.mem := s.deputy_mem _ _ _ _ _

@[simp] theorem State.dlogPut_tasks : (s.dlogPut bs).tasks = s.tasks := s.deputy_tasks _ _ _ _ _

@[simp] theorem State.thread?_dlogPut (r : TRef) : (s.dlogPut bs).thread? r = s.thread? r :=
  s.thread?_deputy _ _ _ _ _ r

/-- The firmware's bytes in the record: KIND[14:0] below a forced KIND[15], then bytes 0x10 to 0x1F. -/
theorem State.find?_dlog_dlogPut :
    Assoc.find? (s.dlogPut bs).dlog (s.dseq % 16384) =
      some { time := s.clk.time, seqn := s.dseq % 2 ^ 32, kind := 2 ^ 15 + rdBytes bs 0xC 2 % 2 ^ 15, inc := s.inc.toNat,
             unit_ := rdBytes bs 0x10 2, asid := rdBytes bs 0x12 2, arg0 := rdBytes bs 0x14 4, arg1 := rdBytes bs 0x18 8 } :=
  s.find?_dlog_deputy _ _ _ _ _

/- ## The word -/

/-- Settles O43: the reserved kind writes the status alone, and any other kind appends the record above. -/
theorem dlogWritesARecord : Obligations.DlogWritesARecord := by
  unfold Obligations.DlogWritesARecord
  intro h d a
  refine goesOn_of (fun _ => rfl) (fun _ _ _ _ _ _ => rfl) fun x st _ => ?_
  by_cases hkind : rdBytes (bytesOf ((List.range 8).map fun i => x.gi a i)) 0xC 2 % 2 ^ 15 = 0x7FFF
  case pos =>
    exact ⟨_, if_pos hkind, fun _ => rfl, fun hne => absurd hkind hne⟩
  case neg =>
    refine ⟨_, if_neg hkind, fun heq => absurd heq hkind, fun _ => ⟨?seq, ?mem, ?tasks, ?status, ?record⟩⟩
    case seq => rw [State.updThread_dseq, State.dlogPut_dseq]
    case mem => rw [State.updThread_mem, State.dlogPut_mem]
    case tasks => rw [State.updThread_tasks, State.dlogPut_tasks]
    case status => rw [State.thread?_updThread_same, State.thread?_dlogPut]; rfl
    case record =>
      rw [State.updThread_dlog, State.find?_dlog_dlogPut]
      exact ⟨_, rfl, rfl, rfl, rfl, rfl, rfl, rfl, rfl, rfl⟩

end Machine
end Sys2Proof
end
